-- ==== Sys2Proof/Word.lean ====
section
/-! DEFINITION. The word types of Collux Ryino (spec 01_notation R26, 03_encoding R48, 04_registers R70). -/
namespace Sys2Proof

/-- A 64-bit register, token or instruction word (R48, R70). -/
abbrev W := BitVec 64

/-- One byte of memory (R103). -/
abbrev Byte := BitVec 8

/-- A 7-bit register specifier: 0-63 g, 64-71 p, 72-87 q, 88-103 h, 104-119 system values (R51, R57). -/
abbrev Spec := BitVec 7

/-- A word with every bit set: "no timeout", "none", BTS released (R100, R180). -/
abbrev allOnes : W := BitVec.allOnes 64

end Sys2Proof
end

