-- ==== Sys2Proof/Config.lean ====
section
/-! DEFINITION. What the spec leaves to an implementation or states no value for: free values, with no body. -/
namespace Sys2Proof.Config

/-- A fresh free value, by the count of free values taken (log 2): nothing constrains it. -/
opaque freeValue : Nat → W

/-- The parts of a resident kernel's image and of a debug token that a signature check takes: message, public key, signature (R363, R370).
The spec gives them no layout (log 9). -/
opaque signed : List Byte → List Byte × List Byte × List Byte

/-- The header of a firmware slot, 64 bytes (R361): the image length, RBI and the hash of the kernel's signing key. The spec gives no
places to the fields (log 9). -/
opaque header : List Byte → Nat × Nat × List Byte

/-- What a debug token binds (R370): device id, lifecycle state, nonce, level and expiry; none for bytes that are no token (log 9). -/
opaque token : List Byte → Option (List Byte × Nat × List Byte × Nat × Nat)

/-- The HSS signature of the attestation key over bytes, at a signature index (log 9). -/
opaque sign : Nat → List Byte → List Byte

/-- How a VALUE of the event log holds two figures: the spec names them and gives them no places (log 44). -/
opaque pair : Nat → Nat → W

/-- The placement the Stolpa placer makes of a graph section: width, height and one node record of R262 per node, or none
where it cannot place the graph (log 8). -/
opaque place : List Byte → Option (Nat × Nat × List W)

end Sys2Proof.Config
end

