-- ==== Sys2Proof/Machine/Bits.lean ====
section
/-! DEFINITION. Bit fields, sign extension, byte order and sparse tables: the helpers every other file uses. -/
namespace Sys2Proof.Machine

/-- `v<hi:lo>` of R26: bits hi down to lo of a natural number, as an unsigned integer. -/
def bits (v hi lo : Nat) : Nat := (v >>> lo) % 2 ^ (hi + 1 - lo)

/-- `v<n>` of R26. -/
def bit (v n : Nat) : Bool := v.testBit n

/-- `v<hi:lo>` of a 64-bit word. -/
def fld (w : W) (hi lo : Nat) : Nat := bits w.toNat hi lo

/-- SignExt of the low n bits (R27). -/
def sext (v n : Nat) : Int :=
  if n = 0 then 0 else
  let u := v % 2 ^ n
  if u < 2 ^ (n - 1) then (u : Int) else (u : Int) - (2 ^ n : Nat)

/-- A natural number as a 64-bit word. -/
def w64 (n : Nat) : W := BitVec.ofNat 64 n

/-- An integer as a 64-bit word, modulo 2^64. -/
def wInt (i : Int) : W := BitVec.ofInt 64 i

/-- 1 for true, 0 for false. -/
def b2n (b : Bool) : Nat := if b then 1 else 0

/-- The little-endian bytes of a number (R103). -/
def toBytes : Nat → Nat → List Byte
  | 0, _ => []
  | n + 1, v => BitVec.ofNat 8 v :: toBytes n (v >>> 8)

/-- The number whose little-endian bytes these are (R103). -/
def ofBytes : List Byte → Nat
  | [] => 0
  | b :: bs => b.toNat + 256 * ofBytes bs

/-- floor(log2 v) + 1, and 0 for 0: the length of v in bits. -/
def bitLen (v : Nat) : Nat := if v = 0 then 0 else v.log2 + 1

/-- The count of one bits among the low n bits of v. -/
def popc : Nat → Nat → Nat
  | 0, _ => 0
  | n + 1, v => v % 2 + popc n (v / 2)

/-- The trailing zeros among the low n bits of v: n when all are zero. -/
def ctz : Nat → Nat → Nat
  | 0, _ => 0
  | n + 1, v => if v % 2 = 1 then 0 else 1 + ctz n (v / 2)

/-- HASH, the bijective mix of R95. -/
def hash64 (a b : W) : W :=
  let x := a ^^^ b
  let x := x ^^^ (x >>> 32)
  let x := x * 0xd6e8feb86659fd93#64
  let x := x ^^^ (x >>> 29)
  let x := x * 0xcf1bb65e7c32a5c1#64
  x ^^^ (x >>> 32)

/-- The first element that passes, with its position. -/
def findIdxFrom {α : Type} (p : α → Bool) : Nat → List α → Option (Nat × α)
  | _, [] => none
  | n, x :: xs => if p x then some (n, x) else findIdxFrom p (n + 1) xs

/-- Replace the element at a position. -/
def setAt {α : Type} : List α → Nat → α → List α
  | [], _, _ => []
  | _ :: xs, 0, y => y :: xs
  | x :: xs, n + 1, y => x :: setAt xs n y

/-- Remove the element at a position. -/
def dropAt {α : Type} : List α → Nat → List α
  | [], _ => []
  | _ :: xs, 0 => xs
  | x :: xs, n + 1 => x :: dropAt xs n

/-- Insert into a list sorted by `lt`, after every element that is not greater. -/
def insertBy {α : Type} (lt : α → α → Bool) (y : α) : List α → List α
  | [] => [y]
  | x :: xs => if lt y x then y :: x :: xs else x :: insertBy lt y xs

/-- Insertion sort, stable. -/
def sortBy {α : Type} (lt : α → α → Bool) (xs : List α) : List α := xs.foldl (fun acc x => insertBy lt x acc) []

/-- The integers lo, lo+1, …, lo+n-1. -/
def upto (lo : Nat) : Nat → List Nat
  | 0 => []
  | n + 1 => lo :: upto (lo + 1) n

/-- A sparse table: key and value pairs with rising keys. Everything the machine holds by number is one of these. -/
abbrev Tab (α : Type) := List (Nat × α)

/-- The value at a key, or none. -/
def Tab.look {α : Type} : Tab α → Nat → Option α
  | [], _ => none
  | e :: t, k => if k = e.1 then some e.2 else Tab.look t k

/-- Put a value at a key, keeping keys in rising order. -/
def Tab.put {α : Type} : Tab α → Nat → α → Tab α
  | [], k, v => [(k, v)]
  | e :: t, k, v => if k = e.1 then (k, v) :: t else if k < e.1 then (k, v) :: e :: t else e :: Tab.put t k v

/-- Remove a key. -/
def Tab.del {α : Type} : Tab α → Nat → Tab α
  | [], _ => []
  | e :: t, k => if k = e.1 then Tab.del t k else e :: Tab.del t k

/-- The value at a key, or what an unlisted key holds. -/
def Tab.getD {α : Type} (t : Tab α) (k : Nat) (d : α) : α := (Tab.look t k).getD d

/-- Write a value; writing what an unlisted key holds removes the entry. -/
def Tab.set {α : Type} [DecidableEq α] (t : Tab α) (d : α) (k : Nat) (v : α) : Tab α :=
  if v = d then Tab.del t k else Tab.put t k v

/-- Keys rise strictly. -/
def Tab.rising {α : Type} : Tab α → Bool
  | [] => true
  | [_] => true
  | a :: b :: t => decide (a.1 < b.1) && Tab.rising (b :: t)

/-- No entry holds what an unlisted key holds. -/
def Tab.lean {α : Type} [DecidableEq α] (t : Tab α) (d : α) : Bool := t.all fun e => decide (e.2 ≠ d)

end Sys2Proof.Machine
end

