-- ==== Sys2Proof/Syntax.lean ====
section
/-! DEFINITION. The instructions: one constructor for each row of the opcode table, over the word formats of spec 03_encoding (R51, R58).

A thread-form or node-form word carries its fields raw, under the manual's names. An event of an engine, the fabric, the
resident kernel, the host, the links or the Wellhead carries what the outside or the agenda chooses about it. -/
namespace Sys2Proof

/-- Format T3 of R51: register operations. C doubles as CIMM (R52), MD as the indexed offset (R53). -/
structure T3 where
  fn : BitVec 5
  pg : BitVec 4
  d : Spec
  a : Spec
  b : Spec
  c : Spec
  md : BitVec 18
  deriving DecidableEq, Repr

/-- Format TI of R51: a 32-bit immediate. -/
structure TI where
  fn : BitVec 5
  pg : BitVec 4
  d : Spec
  a : Spec
  imm : BitVec 32
  deriving DecidableEq, Repr

/-- Format TM of R51: single-address memory access. `rsv` is the reserved field 26:25. -/
structure TM where
  fn : BitVec 5
  pg : BitVec 4
  d : Spec
  a : Spec
  scope : BitVec 3
  acq : BitVec 1
  rel : BitVec 1
  rsv : BitVec 2
  off : BitVec 25
  deriving DecidableEq, Repr

/-- Format TB of R51: branches and spawns. -/
structure TB where
  fn : BitVec 5
  pg : BitVec 4
  a : Spec
  disp : BitVec 39
  deriving DecidableEq, Repr

/-- Format TW of R51: the four limits of WAIT. `rsv` is the reserved field 29:0. -/
structure TW where
  fn : BitVec 5
  pg : BitVec 4
  l : BitVec 4
  s : BitVec 4
  c : BitVec 4
  k : BitVec 4
  rsv : BitVec 30
  deriving DecidableEq, Repr

/-- Format TX of R51: engine, directory, graph and table commands. -/
structure TX where
  fn : BitVec 5
  pg : BitVec 4
  a : Spec
  b : Spec
  scope : BitVec 3
  acq : BitVec 1
  rel : BitVec 1
  cls : BitVec 3
  imm : BitVec 24
  deriving DecidableEq, Repr

/-- The node-form body of R58, with FN. -/
structure NW where
  fn : BitVec 5
  t1 : BitVec 16
  t2 : BitVec 16
  tagm : BitVec 2
  urg : BitVec 1
  sl : BitVec 1
  sr : BitVec 1
  lit : BitVec 13
  deriving DecidableEq, Repr

/-- An access that a peer package makes to this package's memory (R353). -/
inductive PeerReq where
  /-- Read n bytes at a physical address. -/
  | read (pa n : Nat)
  /-- Write bytes at a physical address. -/
  | write (pa : Nat) (data : List Byte)
  /-- An atomic of R168: the ATOM FN, the address, the operand. -/
  | atom (fn pa operand : Nat)
  /-- Compare and swap of n bytes. -/
  | cas (pa n expected new : Nat)
  /-- One arrival at the barrier object at an address. -/
  | arrive (pa : Nat)
  deriving DecidableEq, Repr

/-- A request on the open debug port (R370). -/
inductive DebugReq where
  /-- Read the state of a thread. -/
  | readThread (tid : Nat)
  /-- Read n bytes at a physical address. -/
  | readMem (pa n : Nat)
  /-- Read a tile-table entry; an operand-ring descriptor of a core; a handle-table entry of a context. -/
  | readTile (key : Nat)
  | readRing (ring : Nat)
  | readHandle (ctxid idx : Nat)
  /-- Halt a control core, or let it go on. -/
  | halt (shard : Nat)
  | release (shard : Nat)
  /-- Let one thread of a halted control core issue one word. -/
  | step (tid : Nat)
  /-- Let a thread go on that BRK has brought to the port, past the word or at it (R340). -/
  | resume (tid : Nat) (past : Bool)
  /-- Write the state of a thread from a context block. -/
  | writeThread (tid : Nat) (block : List Byte)
  /-- Write bytes at a physical address. -/
  | writeMem (pa : Nat) (data : List Byte)
  /-- Write a tile-table entry's two words; an operand-ring descriptor. -/
  | writeTile (key low bitmap : Nat)
  | writeRing (ring v : Nat)
  /-- Read n bytes, write one byte of the package flash. -/
  | readFlash (off n : Nat)
  | writeFlash (off : Nat) (v : Byte)
  /-- Read the Wellhead's identity, measurements and clock; set the clock. -/
  | readWell
  | writeClock (mhz : Nat)
  deriving DecidableEq, Repr

/-- Every row of the opcode table: first the words of both forms, then the events. -/
inductive Instr where
  /-- ADD (R87). -/
  | add (x : T3)
  /-- SUB (R87). -/
  | sub (x : T3)
  /-- MUL (R87). -/
  | mul (x : T3)
  /-- MULH (R87). -/
  | mulh (x : T3)
  /-- DIV (R87). -/
  | div (x : T3)
  /-- REM (R87). -/
  | rem (x : T3)
  /-- MIN (R87). -/
  | min (x : T3)
  /-- MAX (R87). -/
  | max (x : T3)
  /-- ABS (R87). -/
  | abs (x : T3)
  /-- NEG (R87). -/
  | neg (x : T3)
  /-- AND (R87). -/
  | and (x : T3)
  /-- OR (R87). -/
  | or (x : T3)
  /-- XOR (R87). -/
  | xor (x : T3)
  /-- ANDN (R87). -/
  | andn (x : T3)
  /-- SHL (R88). -/
  | shl (x : T3)
  /-- SHR (R88). -/
  | shr (x : T3)
  /-- SAR (R88). -/
  | sar (x : T3)
  /-- ROL (R88). -/
  | rol (x : T3)
  /-- POPC (R88). -/
  | popc (x : T3)
  /-- CLZ (R88). -/
  | clz (x : T3)
  /-- CTZ (R88). -/
  | ctz (x : T3)
  /-- BFX (R90). -/
  | bfx (x : TI)
  /-- BFI (R90). -/
  | bfi (x : TI)
  /-- CMP (R91). -/
  | cmp (x : T3)
  /-- SEL (R92). -/
  | sel (x : T3)
  /-- ADDI (R93). -/
  | addi (x : TI)
  /-- MADD (R87). -/
  | madd (x : T3)
  /-- SATN (R94). -/
  | satn (x : T3)
  /-- HASH (R95). -/
  | hash (x : T3)
  /-- MOV (R84). -/
  | mov (x : T3)
  /-- MOVI (R84). -/
  | movi (x : TI)
  /-- MOVHI (R84). -/
  | movhi (x : TI)
  /-- LEA (R84). -/
  | lea (x : TM)
  /-- LEA_INDEXED (R53). -/
  | leaIndexed (x : T3)
  /-- PLOG (R84). -/
  | plog (x : T3)
  /-- CSRR (R75). -/
  | csrr (x : T3)
  /-- CSRW (R75). -/
  | csrw (x : T3)
  /-- TSC (R84). -/
  | tsc (x : T3)
  /-- QPEEK (R84). -/
  | qpeek (x : T3)
  /-- QSTAT (R84). -/
  | qstat (x : T3)
  /-- FADD (R126). -/
  | fadd (x : T3)
  /-- FSUB (R126). -/
  | fsub (x : T3)
  /-- FMUL (R126). -/
  | fmul (x : T3)
  /-- FMA (R126). -/
  | fma (x : T3)
  /-- FMIN (R127). -/
  | fmin (x : T3)
  /-- FMAX (R127). -/
  | fmax (x : T3)
  /-- FCMP (R127). -/
  | fcmp (x : T3)
  /-- FRCP (R128). -/
  | frcp (x : T3)
  /-- FRSQ (R128). -/
  | frsq (x : T3)
  /-- FEXP2 (R128). -/
  | fexp2 (x : T3)
  /-- FLOG2 (R128). -/
  | flog2 (x : T3)
  /-- FTANH (R128). -/
  | ftanh (x : T3)
  /-- FSIGM (R128). -/
  | fsigm (x : T3)
  /-- FCLASS (R127). -/
  | fclass (x : T3)
  /-- FSCALE (R126). -/
  | fscale (x : T3)
  /-- FCVT (R130). -/
  | fcvt (x : T3)
  /-- ICVT (R131). -/
  | icvt (x : T3)
  /-- BXPACK (R132). -/
  | bxpack (x : T3)
  /-- BXUNPK (R132). -/
  | bxunpk (x : T3)
  /-- MXPACK (R132). -/
  | mxpack (x : T3)
  /-- MXUNPK (R132). -/
  | mxunpk (x : T3)
  /-- SCALE (R135). -/
  | scale (x : T3)
  /-- UNSCALE (R135). -/
  | unscale (x : T3)
  /-- BR (R98). -/
  | br (x : TB)
  /-- BRI (R98). -/
  | bri (x : TB)
  /-- CALL (R98). -/
  | call (x : TB)
  /-- RET (R98). -/
  | ret (x : TB)
  /-- HALT (R99). -/
  | halt (x : T3)
  /-- WAITA (R100). -/
  | waita (x : TM)
  /-- YIELD (R101). -/
  | yield (x : T3)
  /-- SPAWN (R102). -/
  | spawn (x : TB)
  /-- LD (R165). -/
  | ld (x : TM)
  /-- LD_INDEXED (R53). -/
  | ldIndexed (x : T3)
  /-- ST (R165). -/
  | st (x : TM)
  /-- ST_INDEXED (R53). -/
  | stIndexed (x : T3)
  /-- ATOM (R169). -/
  | atom (x : TM)
  /-- CAS (R169). -/
  | cas (x : TM)
  /-- STB (R171). -/
  | stb (x : TX)
  /-- STM (R173). -/
  | stm (x : TX)
  /-- STRED (R173). -/
  | stred (x : TX)
  /-- PREF (R166). -/
  | pref (x : TM)
  /-- FENCE (R167). -/
  | fence (x : TM)
  /-- TSPAWN (R177). -/
  | tspawn (x : TB)
  /-- TEND (R177). -/
  | tend (x : T3)
  /-- TABORT (R179). -/
  | tabort (x : T3)
  /-- TSTAMP (R181). -/
  | tstamp (x : T3)
  /-- TBARRIER (R180). -/
  | tbarrier (x : T3)
  /-- TDIRECT (R181). -/
  | tdirect (x : T3)
  /-- GVT (R181). -/
  | gvt (x : T3)
  /-- WAIT (R315). -/
  | wait (x : TW)
  /-- WAITM (R321). -/
  | waitm (x : TX)
  /-- WAITT (R261). -/
  | waitt (x : TX)
  /-- BINIT (R320). -/
  | binit (x : TM)
  /-- BARR (R320). -/
  | barr (x : TM)
  /-- BWAIT (R320). -/
  | bwait (x : TM)
  /-- CNTRD (R322). -/
  | cntrd (x : T3)
  /-- XCOPY (R184). -/
  | xcopy (x : TX)
  /-- XGATH (R184). -/
  | xgath (x : TX)
  /-- XSCAT (R184). -/
  | xscat (x : TX)
  /-- XCOLL (R357). -/
  | xcoll (x : TX)
  /-- XTASK (R215). -/
  | xtask (x : TX)
  /-- XSEND (R184). -/
  | xsend (x : TX)
  /-- XCKPT (R360). -/
  | xckpt (x : TX)
  /-- XCANCEL (R186). -/
  | xcancel (x : TX)
  /-- WMASSERT (R287). -/
  | wmassert (x : TX)
  /-- WMRETRACT (R287). -/
  | wmretract (x : TX)
  /-- WMMODIFY (R287). -/
  | wmmodify (x : TX)
  /-- CSSEL (R281). -/
  | cssel (x : TX)
  /-- CSINFO_SUMMARY (R288). -/
  | csinfoSummary (x : TX)
  /-- CSINFO_ENTRY (R288). -/
  | csinfoEntry (x : TX)
  /-- CSCLR_ALL (R289). -/
  | csclrAll (x : TX)
  /-- CSCLR_RULE (R289). -/
  | csclrRule (x : TX)
  /-- RLOAD (R290). -/
  | rload (x : TX)
  /-- DOPEN (R257). -/
  | dopen (x : TX)
  /-- DOPEN_WAIT (R257). -/
  | dopenWait (x : TX)
  /-- DCLOSE (R258). -/
  | dclose (x : TX)
  /-- DBIND (R259). -/
  | dbind (x : TX)
  /-- DBIND_SET (R254). -/
  | dbindSet (x : TX)
  /-- DUNBIND (R258). -/
  | dunbind (x : TX)
  /-- DSTAT (R260). -/
  | dstat (x : TX)
  /-- DDESC (R260). -/
  | ddesc (x : TX)
  /-- GLAUNCH (R238). -/
  | glaunch (x : TX)
  /-- GLAUNCH_DELTA (R243). -/
  | glaunchDelta (x : TX)
  /-- GSTOP (R239). -/
  | gstop (x : TX)
  /-- GSNAP (R239). -/
  | gsnap (x : TX)
  /-- GREST (R239). -/
  | grest (x : TX)
  /-- GBANK (R240). -/
  | gbank (x : TX)
  /-- GPART (R240). -/
  | gpart (x : TX)
  /-- GQUERY_STATUS (R241). -/
  | gqueryStatus (x : TX)
  /-- GQUERY_SIZE (R241). -/
  | gquerySize (x : TX)
  /-- GQUERY_SPOIL (R241). -/
  | gquerySpoil (x : TX)
  /-- GQUERY_DUMP (R241). -/
  | gqueryDump (x : TX)
  /-- FRESHET (R244). -/
  | freshet (x : TX)
  /-- TRAP (R340). -/
  | trap (x : TI)
  /-- ERET (R340). -/
  | eret (x : T3)
  /-- BRK (R340). -/
  | brk (x : TI)
  /-- MSGI (R341). -/
  | msgi (x : TX)
  /-- CTXSAVE (R343). -/
  | ctxsave (x : TM)
  /-- CTXREST (R344). -/
  | ctxrest (x : TM)
  /-- TLBINV (R342). -/
  | tlbinv (x : TM)
  /-- IDLE (R341). -/
  | idle (x : T3)
  /-- SIGNAL (R341). -/
  | signal (x : TM)
  /-- PTSYNC (R342). -/
  | ptsync (x : TM)
  /-- NODE_ARITH_FIRE (R59). -/
  | nodeArithFire (op : BitVec 8) (w : NW)
  /-- STEER (R224). -/
  | steer (x : NW)
  /-- MERGE (R224). -/
  | merge (x : NW)
  /-- GATE (R224). -/
  | gate (x : NW)
  /-- FCOMP (R224). -/
  | fcomp (x : NW)
  /-- REPEAT (R224). -/
  | repeat (x : NW)
  /-- DELAY (R224). -/
  | delay (x : NW)
  /-- ACCUM (R224). -/
  | accum (x : NW)
  /-- GEN (R224). -/
  | gen (x : NW)
  /-- GEN_TRIG (R224). -/
  | genTrig (x : NW)
  /-- SINK (R222). -/
  | sink (x : NW)
  /-- SRC (R224). -/
  | src (x : NW)
  /-- TAGSET (R224). -/
  | tagset (x : NW)
  /-- TAGGET (R224). -/
  | tagget (x : NW)
  /-- ROUTE (R224). -/
  | route (x : NW)
  /-- BOUND (R199). -/
  | bound (x : NW)
  /-- AGEN (R225). -/
  | agen (x : NW)
  /-- MLOAD (R227). -/
  | mload (x : NW)
  /-- MSTORE (R227). -/
  | mstore (x : NW)
  /-- RMW (R227). -/
  | rmw (x : NW)
  /-- MERGE2 (R228). -/
  | merge2 (x : NW)
  /-- LUT6 (R229). -/
  | lut6 (x : NW)
  /-- FSM (R229). -/
  | fsm (x : NW)
  /-- FALLOC (R230). -/
  | falloc (x : NW)
  /-- FFREE (R230). -/
  | ffree (x : NW)
  /-- CHAN (R207). -/
  | chan (x : NW)
  /-- WEIR (R44). -/
  | weir (x : NW)
  /-- EXPERT (R233). -/
  | expert (x : NW)
  /-- TOPK (R234). -/
  | topk (x : NW)
  /-- SPILL (R233). -/
  | spill (x : NW)
  /-- ALPHA (R272). -/
  | alpha (x : NW)
  /-- JOINB (R274). -/
  | joinb (x : NW)
  /-- NEGJ (R274). -/
  | negj (x : NW)
  /-- MEMB (R273). -/
  | memb (x : NW)
  /-- TERM (R276). -/
  | term (x : NW)
  /-- SCORE (R275). -/
  | score (x : NW)
  /-- TILE_NODE_FIRE (R313). -/
  | tileNodeFire (op : BitVec 8) (w : NW)
  /-- ILLEGAL_INSTRUCTION_WORD (R62). -/
  | illegalInstructionWord (w : W)
  /-- EXPERT_DRAIN (R233). -/
  | expertDrain (iid node : Nat)
  /-- SCORE_REPLY (R275). -/
  | scoreReply (iid node tag : Nat)
  /-- TMMA (R304). -/
  | tmma (eng : Nat)
  /-- TMMS (R311). -/
  | tmms (eng : Nat)
  /-- TDECOMP_DENSE (R308). -/
  | tdecompDense (eng : Nat)
  /-- TDECOMP_PACKED (R310). -/
  | tdecompPacked (eng : Nat)
  /-- TRESID (R311). -/
  | tresid (eng : Nat)
  /-- TZERO (R305). -/
  | tzero (eng : Nat)
  /-- TCVT (R305). -/
  | tcvt (eng : Nat)
  /-- TSCALE (R305). -/
  | tscale (eng : Nat)
  /-- TRED (R306). -/
  | tred (eng : Nat)
  /-- TTRANS (R305). -/
  | ttrans (eng : Nat)
  /-- TTOPK (R307). -/
  | ttopk (eng : Nat)
  /-- RINGDEF_TILES (R312). -/
  | ringdefTiles (shard : Nat)
  /-- RINGDEF_RING (R312). -/
  | ringdefRing (shard : Nat)
  /-- RINGDEF_TASKS (R312). -/
  | ringdefTasks (shard : Nat)
  /-- TACT (R305). -/
  | tact (eng : Nat)
  /-- TOKEN_ARRIVAL (R36). -/
  | tokenArrival (iid idx : Nat)
  /-- TOKEN_ACCEPT (R80). -/
  | tokenAccept (iid idx : Nat) (second : Bool)
  /-- CREDIT_RETURN (R208). -/
  | creditReturn (iid idx : Nat)
  /-- LOAD_COMPLETE (R72). -/
  | loadComplete (tid idx : Nat)
  /-- STORE_RETIRE (R165). -/
  | storeRetire (tid idx : Nat)
  /-- PAGE_WALK (R154). -/
  | pageWalk (slice : Nat)
  /-- REQUESTER_RESUME (R159). -/
  | requesterResume (iid node : Nat)
  /-- ACTIVE_MESSAGE (R214). -/
  | activeMessage (src : Nat)
  /-- CHUNK_WRITTEN (R185). -/
  | chunkWritten (cmd chunk : Nat)
  /-- ENGINE_REPLY (R183). -/
  | engineReply (cmd : Nat)
  /-- TILE_TASK_CHECK (R298). -/
  | tileTaskCheck (shard : Nat)
  /-- TILE_TASK_ISSUE (R296). -/
  | tileTaskIssue (shard eng : Nat)
  /-- TILE_TASK_RETIRE (R299). -/
  | tileTaskRetire (eng : Nat)
  /-- DOT_ENGINE_FAULT_STOP (R300). -/
  | dotEngineFaultStop (eng : Nat)
  /-- TASK_COMMIT (R177). -/
  | taskCommit
  /-- TASK_IRREVOCABLE (R175). -/
  | taskIrrevocable
  /-- FIRING_START (R282). -/
  | firingStart (die : Nat)
  /-- DELTA_APPLY (R283). -/
  | deltaApply (net : Nat)
  /-- DELTA_INJECT (R283). -/
  | deltaInject (net : Nat)
  /-- BANK_PASS (R144). -/
  | bankPass (bank : Nat)
  /-- BANK_TOKEN_ARRIVAL (R144). -/
  | bankTokenArrival (bank : Nat)
  /-- DELTA_DRAIN_COMPLETE (R243). -/
  | deltaDrainComplete (iid : Nat)
  /-- FRESHET_NODE_RECONFIG (R244). -/
  | freshetNodeReconfig (iid node : Nat)
  /-- SNAP_NODE_SAVE (R335). -/
  | snapNodeSave (iid node : Nat)
  /-- LINK_TOKEN_RECORD (R382). -/
  | linkTokenRecord (iid idx : Nat)
  /-- SNAP_FORCED_SAVE (R335). -/
  | snapForcedSave (iid : Nat)
  /-- DRAIN_COMPLETE (R334). -/
  | drainComplete (iid : Nat)
  /-- STALL_NOEOS (R318). -/
  | stallNoeos (iid : Nat)
  /-- QUANTUM_EXPIRY (R331). -/
  | quantumExpiry (iid : Nat)
  /-- REQUEST_AGING (R331). -/
  | requestAging (die idx : Nat)
  /-- REGION_GRANT (R330). -/
  | regionGrant (die : Nat)
  /-- PREEMPT (R332). -/
  | preempt (die : Nat)
  /-- SCHEDULER_RESTORE (R337). -/
  | schedulerRestore (iid : Nat)
  /-- THREAD_WAKE (R100). -/
  | threadWake (tid : Nat)
  /-- PARK_TIMEOUT (R100). -/
  | parkTimeout (tid : Nat)
  /-- DOPEN_TIMEOUT (R257). -/
  | dopenTimeout (tid : Nat)
  /-- STALL_RESUME (R41). -/
  | stallResume (tid : Nat)
  /-- BARRIER_ARRIVAL (R319). -/
  | barrierArrival (idx : Nat)
  /-- NOP (R349). -/
  | nop (q : Nat)
  /-- THREAD (R349). -/
  | thread (q : Nat)
  /-- DELTA (R349). -/
  | delta (q : Nat)
  /-- INDIRECT (R217). -/
  | indirect (q : Nat)
  /-- WAITSIG (R349). -/
  | waitsig (q : Nat)
  /-- WRITE (R349). -/
  | write (q : Nat)
  /-- COMMAND_COMPLETE (R348). -/
  | commandComplete (id : Nat)
  /-- ILLEGAL_COMMAND_ENTRY (R348). -/
  | illegalCommandEntry (q : Nat)
  /-- TRAP_RESUME (R328). -/
  | trapResume (tid : Nat)
  /-- TRAP_SKIP (R328). -/
  | trapSkip (tid : Nat)
  /-- TRAP_HANDLER (R328). -/
  | trapHandler (tid : Nat)
  /-- TRAP_END (R328). -/
  | trapEnd (tid : Nat)
  /-- DOORBELL (R347). -/
  | doorbell (q wr : Nat)
  /-- QUEUE_CONFIG_WRITE (R347). -/
  | queueConfigWrite (q reg v : Nat)
  /-- QUEUE_STATUS_CLEAR (R217). -/
  | queueStatusClear (q : Nat)
  /-- ERRCNT_CLEAR (R346). -/
  | errcntClear (fnc v : Nat)
  /-- REGISTER_WRITE (R346). -/
  | registerWrite (kernel : Bool) (fnc off v : Nat)
  /-- HOST_APERTURE_READ (R351). -/
  | hostApertureRead (fnc off len : Nat)
  /-- HOST_APERTURE_WRITE (R351). -/
  | hostApertureWrite (fnc off : Nat) (data : List Byte)
  /-- HOST_READ_TIMEOUT (R352). -/
  | hostReadTimeout (tid idx : Nat)
  /-- PEER_REQUEST (R353). -/
  | peerRequest (r : PeerReq)
  /-- FLIT_RECEIVE (R354). -/
  | flitReceive (port : Nat) (flit : List Byte)
  /-- PORT_DOWN (R354). -/
  | portDown (port : Nat)
  /-- REDUCE_CONTRIBUTION (R356). -/
  | reduceContribution (cmd : Nat) (ranks : List Nat) (data : List Byte)
  /-- NVME_DOORBELL (R359). -/
  | nvmeDoorbell (bridge qp v : Nat)
  /-- NVME_COMPLETION (R359). -/
  | nvmeCompletion (bridge qp : Nat) (data : List Byte)
  /-- PATROL_SCRUB (R161). -/
  | patrolScrub (line : Nat) (errs : Nat)
  /-- RESET (R247). -/
  | reset
  /-- POWER_ON_BOOT (R363). -/
  | powerOnBoot
  /-- KERNEL_IMAGE_LOAD (R363). -/
  | kernelImageLoad (image : List Byte)
  /-- PLDM_FIRMWARE_UPDATE (R364). -/
  | pldmFirmwareUpdate (image : List Byte)
  /-- SENSOR_SAMPLE (R365). -/
  | sensorSample (samples : List Nat)
  /-- VCORE_REMOVED (R365). -/
  | vcoreRemoved
  /-- VAUX_REMOVED (R12). -/
  | vauxRemoved
  /-- EVENT_LOG_READ (R366). -/
  | eventLogRead (fromKernel : Bool)
  /-- ATTESTATION_REPORT (R368). -/
  | attestationReport (nonce : List Byte)
  /-- MEASUREMENT_EXTEND (R368). -/
  | measurementExtend (reg : Nat) (digest : List Byte)
  /-- KEY_SLOT_WRITE (R369). -/
  | keySlotWrite (slot owner : Nat) (key : List Byte)
  /-- KEY_SLOT_READ (R369). -/
  | keySlotRead (slot owner : Nat)
  /-- KEY_SLOT_CLEAR (R369). -/
  | keySlotClear (slot : Nat)
  /-- DEBUG_NONCE_REQUEST (R370). -/
  | debugNonceRequest (nonce : List Byte)
  /-- DEBUG_UNLOCK (R370). -/
  | debugUnlock (token : List Byte)
  /-- DEBUG_EXPIRY (R370). -/
  | debugExpiry
  /-- FLIT_REPLAY (R354). -/
  | flitReplay (port : Nat)
  /-- HOST_ATOMICOP (R351). -/
  | hostAtomicop (fnc off : Nat)
  /-- DEBUG_PORT_ACCESS (R370). -/
  | debugPortAccess (r : DebugReq)
  deriving DecidableEq, Repr

end Sys2Proof
end

