-- ==== Sys2Proof/Machine/Legal.lean ====
section
/-! DEFINITION. Which words are legal: the checks of R62 on thread-form words and of R63 and R218 on node-form words. -/
namespace Sys2Proof.Machine

/-- A g register, g0 to g63 (R57). -/
def isG (s : Spec) : Bool := decide (s.toNat < 64)
/-- A g register other than g0. -/
def isG1 (s : Spec) : Bool := decide (1 ≤ s.toNat) && isG s
/-- An even g register from g2 to g62: the base of a register pair. R170 calls STB's A an even register, and does not say whether g0 is one: it
is refused (DESIGN CHOICE, log 81). -/
def isEven (s : Spec) : Bool := decide (2 ≤ s.toNat) && isG s && decide (s.toNat % 2 = 0)
/-- A predicate register, 64 to 71 (R57). -/
def isP (s : Spec) : Bool := decide (64 ≤ s.toNat) && decide (s.toNat < 72)
/-- A queue-mapped register, 72 to 87 (R57). -/
def isQ (s : Spec) : Bool := decide (72 ≤ s.toNat) && decide (s.toNat < 88)
/-- A handle register, 88 to 103 (R57). -/
def isH (s : Spec) : Bool := decide (88 ≤ s.toNat) && decide (s.toNat < 104)
/-- A value source or destination: g or q (R57). -/
def isV (s : Spec) : Bool := isG s || isQ s
/-- A MOV source: g, q or h (R57). -/
def isMov (s : Spec) : Bool := isG s || isQ s || isH s
/-- A system value, 104 to 119 (R57). -/
def isSys (s : Spec) : Bool := decide (104 ≤ s.toNat) && decide (s.toNat < 120)
/-- A system value that CSRW may name: 109 to 119 (R75). -/
def isSysW (s : Spec) : Bool := decide (109 ≤ s.toNat) && decide (s.toNat < 120)
/-- An unused operand field (R57). -/
def isZero (s : Spec) : Bool := decide (s = 0)
/-- A field that is no register: CIMM is checked beside it (R52). -/
def isAny (_ : Spec) : Bool := true

/-- PG = 0b1000 is reserved (R55). -/
def pgOk (pg : BitVec 4) : Bool := decide (pg ≠ 8)

/-- F32, BF16 or H16 (R108). -/
def isFloat (f : Nat) : Bool := decide (8 ≤ f) && decide (f ≤ 10)
/-- BX2 to BX8 (R108). -/
def isBX (f : Nat) : Bool := decide (0x12 ≤ f) && decide (f ≤ 0x18)
/-- MXFP8-E4M3, MXFP8-E5M2 or MXFP4 (R108). -/
def isMX (f : Nat) : Bool := decide (0x0e ≤ f) && decide (f ≤ 0x10)

/-- The MD bits that an arithmetic or conversion opcode accepts (R86, R123). -/
def mdMask (op : Nat) : Nat :=
  if op ≤ 0x02 then 0xf000 else if op = 0x04 ∨ op = 0x05 then 0x8000 else if op = 0x08 ∨ op = 0x09 then 0x8000
  else if op = 0x1a then 0xf000
  else if 0x30 ≤ op ∧ op ≤ 0x33 then 0x3f000
  else if 0x34 ≤ op ∧ op ≤ 0x36 then 0x7000
  else if 0x37 ≤ op ∧ op ≤ 0x3c then 0x3d000
  else if op = 0x3e then 0x3d000
  else if op = 0x40 then 0x3d000
  else if op = 0x41 ∨ op = 0x43 ∨ op = 0x45 then 0x30000
  else if op = 0x46 ∨ op = 0x47 then 0x38000
  else 0

/-- MD sets no bit outside the accepted ones (R54). -/
def mdOk (op md : Nat) : Bool := decide (md &&& (0x3ffff ^^^ mdMask op) = 0)

/-- The source and destination formats that FCVT accepts (R130). -/
def fcvtOk (dst src : Nat) : Bool :=
  decide (8 ≤ src) && decide (src ≤ 12) && decide (8 ≤ dst) && decide (dst ≤ 12) ||
  decide (src = 13) && (decide (dst = 8) || decide (dst = 9))

/-- The pairs that ICVT accepts (R131). -/
def icvtOk (dst src : Nat) : Bool := decide (src < 8) && isFloat dst || isFloat src && decide (dst < 8)

/-- FN and, where the opcode has one, CIMM of an arithmetic or conversion opcode (R61, R86, R123, R129). -/
def fnOk (op fn cimm : Nat) : Bool :=
  if op = 0x17 then decide (fn < 8) && decide (cimm ≤ 5)
  else if op ≤ 0x1a then decide (fn < 8)
  else if op = 0x1b then decide (fn < 8) && decide (fn ≠ 3) && decide (fn ≠ 7)
  else if op = 0x1c then decide (fn = 7)
  else if op = 0x20 then decide (fn = 0)
  else if op = 0x36 then isFloat fn && decide (cimm ≤ 7)
  else if 0x30 ≤ op ∧ op ≤ 0x3e then isFloat fn
  else if op = 0x40 then fcvtOk fn cimm
  else if op = 0x41 then icvtOk fn cimm
  else if op = 0x42 then isBX fn && isFloat cimm
  else if op = 0x43 then isFloat fn && isBX cimm
  else if op = 0x44 then isMX fn && isFloat cimm
  else if op = 0x45 then isFloat fn && isMX cimm
  else if op = 0x46 ∨ op = 0x47 then isFloat fn
  else false

/-- The opcodes whose C field, or LIT13 bits 6:0, hold CIMM (R52). -/
def hasCimm (op : Nat) : Bool := decide (op = 0x17) || decide (op = 0x36) || (decide (0x40 ≤ op) && decide (op ≤ 0x45))

/-- The roles of D, A, B and C (R57). -/
def regsOk (d a b c : Spec → Bool) (x : T3) : Bool := d x.d && a x.a && b x.b && c x.c

/-- An arithmetic or conversion word of format T3 (R86, R123). -/
def t3Ok (op : Nat) (d a b c : Spec → Bool) (x : T3) : Bool :=
  regsOk d a b c x && fnOk op x.fn.toNat x.c.toNat && mdOk op x.md.toNat

/-- IMM32 of BFX and BFI (R90). -/
def fieldOk (fn : BitVec 5) (imm : BitVec 32) : Bool :=
  let n := imm.toNat
  decide (bits n 31 15 = 0) && decide (bits n 7 6 = 0) && decide (1 ≤ bits n 14 8) &&
  decide (bits n 5 0 + bits n 14 8 ≤ 8 <<< (fn.toNat % 4))

/-- What an instruction lets SCOPE hold. -/
inductive ScopeRule where
  /-- Zero only. -/
  | zero
  /-- 0 to 5. -/
  | any
  /-- 0 to 5 with ACQ or REL, else 0 (R164, R256). -/
  | ordered
  /-- 3 or 4 (R339). -/
  | wide
  deriving DecidableEq, Repr

/-- SCOPE, ACQ and REL of a TM or TX word. -/
def orderOk (acqAllowed relAllowed : Bool) (r : ScopeRule) (scope : BitVec 3) (acq rel : BitVec 1) : Bool :=
  (acqAllowed || decide (acq = 0)) && (relAllowed || decide (rel = 0)) &&
  match r with
  | .zero => decide (scope = 0)
  | .any => decide (scope.toNat ≤ 5)
  | .ordered => decide (scope.toNat ≤ 5) && (decide (scope = 0) || decide (acq = 1) || decide (rel = 1))
  | .wide => decide (scope = 3) || decide (scope = 4)

/-- A target with field none has index zero (R58). -/
def targetOk (t : BitVec 16) : Bool := decide (bits t.toNat 1 0 ≠ 3) || decide (bits t.toNat 15 2 = 0)

/-- Both targets of a node word (R58). -/
def targetsOk (x : NW) : Bool := targetOk x.t1 && targetOk x.t2

/-- LIT13 of MLOAD and MSTORE (R227): with TILE, FN 0 and a tile-table index; without, zero. -/
def tileLitOk (x : NW) : Bool :=
  decide (x.lit = 0) || (bit x.lit.toNat 0 && decide (bits x.lit.toNat 12 9 = 0) && decide (x.fn = 0))

/-- LIT13 of JOINB, NEGJ and MEMB (R271): wid position, attribute slot, and a second field up to `hi`. -/
def keyOk (lit hi : Nat) : Bool := decide (bits lit 12 11 ≤ 2) && decide (bits lit 10 7 ≤ 11) && decide (bits lit 6 3 ≤ hi)

/-- An opcode that has both forms (R61). -/
def isArith (op : Nat) : Bool :=
  (decide (op ≤ 0x1c) && decide (op ≠ 0x19)) || decide (op = 0x20) || (decide (0x30 ≤ op) && decide (op ≤ 0x3e)) ||
  (decide (0x40 ≤ op) && decide (op ≤ 0x47))

/-- A node word of an arithmetic, conversion or MOV opcode (R59). -/
def arithNodeOk (op : BitVec 8) (x : NW) : Bool :=
  let o := op.toNat
  let l := x.lit.toNat
  isArith o && targetsOk x && fnOk o x.fn.toNat (bits l 6 0) && mdOk o (bits l 12 7 <<< 12) &&
  (hasCimm o || decide (bits l 6 0 = 0))

/-- A node word of a tile opcode (R313). -/
def tileNodeOk (op : BitVec 8) (x : NW) : Bool :=
  decide (0xa0 ≤ op.toNat) && decide (op.toNat ≤ 0xab) && targetsOk x && decide (x.fn = 0) && decide (x.lit = 0) &&
  decide (x.tagm = 0) && decide (x.sl = 0) && decide (x.sr = 0)

/-- The number of extension words of a node opcode (R61). -/
def extCount (op : Nat) : Nat :=
  if op = 0x8a then 2 else if op = 0x90 ∨ op = 0x91 then 4
  else if op = 0x96 ∨ op = 0x97 ∨ op = 0x99 ∨ op = 0x9b then 1 else 0

/-- The extension words that a node opcode accepts (R60, R225, R229 to R233). -/
def extOk (op : Nat) (ext : List W) : Bool :=
  decide (ext.length = extCount op) &&
  match ext with
  | [e] =>
    if op = 0x96 then decide (fld e 63 32 = 0) && decide (fld e 31 16 ≤ 256) && decide (fld e 15 14 = 0) && decide (fld e 8 0 ≤ 256)
    else if op = 0x97 then decide (fld e 47 33 = 0)
    else if op = 0x99 then decide (fld e 63 46 = 0) && decide (fld e 31 23 = 0) && decide (fld e 9 8 ≠ 3)
    else decide (fld e 5 0 = 0) && decide (1 ≤ fld e 63 51)
  | [_, e] => decide (fld e 63 48 = 0)
  | _ => true

/-- The element type of a node opcode as a record's prefix gives it (R61, R67): 0 C, 1 M, 2 A, 3 W, 4 B, 7 placer's choice. -/
def elemOf (op : Nat) : Nat :=
  if op = 0x8a then 2
  else if op = 0x8b ∨ op = 0x8c ∨ op = 0x8d ∨ op = 0x94 ∨ op = 0x95 ∨ op = 0x9b ∨ op = 0xb6 then 1
  else if op = 0x96 then 7 else if op = 0x97 then 3 else if op = 0xb7 then 4 else 0

/-- A legal word: a thread-form word passes R62, a node-form word R63 and R218. An event carries no word. XSEND, XCKPT and XCANCEL take ACQ,
REL and a SCOPE, as R182 gives the words of engine commands; its assembly lines list no such suffix for them (DESIGN CHOICE, log 81). -/
def legal : Instr → Bool
  | .add x => pgOk x.pg && t3Ok 0x00 isV isV isV isZero x
  | .sub x => pgOk x.pg && t3Ok 0x01 isV isV isV isZero x
  | .mul x => pgOk x.pg && t3Ok 0x02 isV isV isV isZero x
  | .mulh x => pgOk x.pg && t3Ok 0x03 isV isV isV isZero x
  | .div x => pgOk x.pg && t3Ok 0x04 isV isV isV isZero x
  | .rem x => pgOk x.pg && t3Ok 0x05 isV isV isV isZero x
  | .min x => pgOk x.pg && t3Ok 0x06 isV isV isV isZero x
  | .max x => pgOk x.pg && t3Ok 0x07 isV isV isV isZero x
  | .abs x => pgOk x.pg && t3Ok 0x08 isV isV isZero isZero x
  | .neg x => pgOk x.pg && t3Ok 0x09 isV isV isZero isZero x
  | .and x => pgOk x.pg && t3Ok 0x0a isV isV isV isZero x
  | .or x => pgOk x.pg && t3Ok 0x0b isV isV isV isZero x
  | .xor x => pgOk x.pg && t3Ok 0x0c isV isV isV isZero x
  | .andn x => pgOk x.pg && t3Ok 0x0d isV isV isV isZero x
  | .shl x => pgOk x.pg && t3Ok 0x0e isV isV isV isZero x
  | .shr x => pgOk x.pg && t3Ok 0x0f isV isV isV isZero x
  | .sar x => pgOk x.pg && t3Ok 0x10 isV isV isV isZero x
  | .rol x => pgOk x.pg && t3Ok 0x11 isV isV isV isZero x
  | .popc x => pgOk x.pg && t3Ok 0x12 isV isV isZero isZero x
  | .clz x => pgOk x.pg && t3Ok 0x13 isV isV isZero isZero x
  | .ctz x => pgOk x.pg && t3Ok 0x14 isV isV isZero isZero x
  | .bfx x => pgOk x.pg && isV x.d && isV x.a && decide (x.fn.toNat < 8) && fieldOk x.fn x.imm
  | .bfi x => pgOk x.pg && isG x.d && isV x.a && decide (x.fn.toNat < 8) && fieldOk x.fn x.imm
  | .cmp x => pgOk x.pg && t3Ok 0x17 isP isV isV isAny x
  | .sel x => pgOk x.pg && t3Ok 0x18 isV isV isV isP x
  | .addi x => pgOk x.pg && isV x.d && isV x.a && decide (x.fn.toNat < 8)
  | .madd x => pgOk x.pg && t3Ok 0x1a isV isV isV isV x
  | .satn x => pgOk x.pg && t3Ok 0x1b isV isV isZero isZero x
  | .hash x => pgOk x.pg && t3Ok 0x1c isV isV isV isZero x
  | .mov x => pgOk x.pg && t3Ok 0x20 isV isMov isZero isZero x
  | .movi x => pgOk x.pg && isV x.d && isZero x.a && decide (x.fn = 0)
  | .movhi x => pgOk x.pg && isG x.d && isZero x.a && decide (x.fn = 0)
  | .lea x => pgOk x.pg && decide (x.fn = 0) && isV x.d && isG x.a && decide (x.rsv = 0) && orderOk false false .zero x.scope x.acq x.rel
  | .leaIndexed x => pgOk x.pg && decide (x.fn = 16) && regsOk isV isG isG isAny x && decide (x.c.toNat < 4)
  | .plog x => pgOk x.pg && decide (x.fn.toNat < 5) && (if x.fn = 4 then isZero x.b else isP x.b) && regsOk isP isP isAny isZero x && decide (x.md = 0)
  | .csrr x => pgOk x.pg && decide (x.fn = 0) && regsOk isV isSys isZero isZero x && decide (x.md = 0)
  | .csrw x => pgOk x.pg && decide (x.fn = 0) && regsOk isSysW isV isZero isZero x && decide (x.md = 0)
  | .tsc x => pgOk x.pg && decide (x.fn = 0) && regsOk isV isZero isZero isZero x && decide (x.md = 0)
  | .qpeek x => pgOk x.pg && decide (x.fn = 0) && regsOk isG isQ isZero isZero x && decide (x.md = 0)
  | .qstat x => pgOk x.pg && decide (x.fn = 0) && regsOk isG isQ isZero isZero x && decide (x.md = 0)
  | .fadd x => pgOk x.pg && t3Ok 0x30 isV isV isV isZero x
  | .fsub x => pgOk x.pg && t3Ok 0x31 isV isV isV isZero x
  | .fmul x => pgOk x.pg && t3Ok 0x32 isV isV isV isZero x
  | .fma x => pgOk x.pg && t3Ok 0x33 isV isV isV isV x
  | .fmin x => pgOk x.pg && t3Ok 0x34 isV isV isV isZero x
  | .fmax x => pgOk x.pg && t3Ok 0x35 isV isV isV isZero x
  | .fcmp x => pgOk x.pg && t3Ok 0x36 isP isV isV isAny x
  | .frcp x => pgOk x.pg && t3Ok 0x37 isV isV isZero isZero x
  | .frsq x => pgOk x.pg && t3Ok 0x38 isV isV isZero isZero x
  | .fexp2 x => pgOk x.pg && t3Ok 0x39 isV isV isZero isZero x
  | .flog2 x => pgOk x.pg && t3Ok 0x3a isV isV isZero isZero x
  | .ftanh x => pgOk x.pg && t3Ok 0x3b isV isV isZero isZero x
  | .fsigm x => pgOk x.pg && t3Ok 0x3c isV isV isZero isZero x
  | .fclass x => pgOk x.pg && t3Ok 0x3d isV isV isZero isZero x
  | .fscale x => pgOk x.pg && t3Ok 0x3e isV isV isV isZero x
  | .fcvt x => pgOk x.pg && t3Ok 0x40 isV isV isZero isAny x
  | .icvt x => pgOk x.pg && t3Ok 0x41 isV isV isZero isAny x
  | .bxpack x => pgOk x.pg && t3Ok 0x42 isG isG isZero isAny x
  | .bxunpk x => pgOk x.pg && t3Ok 0x43 isG isG isZero isAny x
  | .mxpack x => pgOk x.pg && t3Ok 0x44 isG isG isZero isAny x
  | .mxunpk x => pgOk x.pg && t3Ok 0x45 isG isG isZero isAny x
  | .scale x => pgOk x.pg && t3Ok 0x46 isV isV isV isZero x
  | .unscale x => pgOk x.pg && t3Ok 0x47 isV isV isV isZero x
  | .br x => pgOk x.pg && decide (x.fn = 0) && isZero x.a
  | .bri x => pgOk x.pg && decide (x.fn = 0) && isG1 x.a
  | .call x => pgOk x.pg && decide (x.fn = 0) && isG x.a
  | .ret x => pgOk x.pg && decide (x.fn = 0) && isG1 x.a && decide (x.disp = 0)
  | .halt x => pgOk x.pg && decide (x.fn = 0) && regsOk isZero isZero isZero isZero x && decide (x.md = 0)
  | .waita x => pgOk x.pg && decide (x.fn = 0) && isEven x.d && isG x.a && decide (x.rsv = 0) && orderOk true true .any x.scope x.acq x.rel
  | .yield x => pgOk x.pg && decide (x.fn = 0) && regsOk isZero isZero isZero isZero x && decide (x.md = 0)
  | .spawn x => pgOk x.pg && decide (x.fn = 0) && isG x.a
  | .ld x => pgOk x.pg && decide (x.fn.toNat < 8) && isV x.d && isG x.a && decide (x.rsv = 0) && orderOk true false .ordered x.scope x.acq x.rel
  | .ldIndexed x => pgOk x.pg && decide (16 ≤ x.fn.toNat) && decide (x.fn.toNat < 24) && regsOk isV isG isG isAny x && decide (x.c.toNat < 4)
  | .st x => pgOk x.pg && decide (x.fn.toNat < 8) && isV x.d && isG x.a && decide (x.rsv = 0) && orderOk false true .ordered x.scope x.acq x.rel
  | .stIndexed x => pgOk x.pg && decide (16 ≤ x.fn.toNat) && decide (x.fn.toNat < 24) && regsOk isV isG isG isAny x && decide (x.c.toNat < 4)
  | .atom x => pgOk x.pg && decide (x.fn.toNat ≤ 28) && isG1 x.d && isG x.a && decide (x.rsv = 0) && orderOk true true .any x.scope x.acq x.rel
  | .cas x => pgOk x.pg && (decide (x.fn = 6) || decide (x.fn = 7)) && isEven x.d && isG x.a && decide (x.rsv = 0) && orderOk true true .any x.scope x.acq x.rel
  | .stb x => pgOk x.pg && decide (x.fn = 0) && isEven x.a && isV x.b && orderOk false true .any x.scope x.acq x.rel && decide (x.cls.toNat ≤ 3) && decide (x.imm = 0)
  | .stm x => pgOk x.pg && decide (x.fn = 0) && isG x.a && isV x.b && orderOk false true .any x.scope x.acq x.rel && decide (x.cls.toNat ≤ 3) && decide (x.imm.toNat ≤ 63)
  | .stred x => pgOk x.pg && (decide (x.fn.toNat < 24) || decide (x.fn = 28)) && isG x.a && isV x.b && orderOk false true .any x.scope x.acq x.rel && decide (x.cls = 0) && decide (x.imm.toNat ≤ 63)
  | .pref x => pgOk x.pg && decide (x.fn = 0) && isZero x.d && isG x.a && decide (x.rsv = 0) && orderOk false false .zero x.scope x.acq x.rel
  | .fence x => pgOk x.pg && decide (x.fn = 0) && isZero x.d && isZero x.a && decide (x.rsv = 0) && orderOk true true .any x.scope x.acq x.rel && (decide (x.acq = 1) || decide (x.rel = 1)) && decide (x.off = 0)
  | .tspawn x => pgOk x.pg && decide (x.fn = 0) && isEven x.a
  | .tend x => pgOk x.pg && decide (x.fn = 0) && regsOk isG isZero isZero isZero x && decide (x.md = 0)
  | .tabort x => pgOk x.pg && decide (x.fn = 0) && regsOk isG isZero isZero isZero x && decide (x.md = 0)
  | .tstamp x => pgOk x.pg && decide (x.fn = 0) && regsOk isG isG isZero isZero x && decide (x.md = 0)
  | .tbarrier x => pgOk x.pg && decide (x.fn = 0) && regsOk isG isG isZero isZero x && decide (x.md = 0)
  | .tdirect x => pgOk x.pg && decide (x.fn = 0) && regsOk isZero isZero isZero isZero x && decide (x.md = 0)
  | .gvt x => pgOk x.pg && decide (x.fn = 0) && regsOk isG isG isZero isZero x && decide (x.md = 0)
  | .wait x => pgOk x.pg && decide (x.fn = 0) && decide (x.rsv = 0)
  | .waitm x => pgOk x.pg && decide (x.fn = 0) && isG x.a && isG1 x.b && orderOk true false .any x.scope x.acq x.rel && decide (x.cls.toNat ≤ 1) && decide (x.imm = 0)
  | .waitt x => pgOk x.pg && decide (x.fn = 0) && isG x.a && isG x.b && orderOk true false .any x.scope x.acq x.rel && decide (x.cls.toNat ≤ 3) && decide (x.imm = 0)
  | .binit x => pgOk x.pg && decide (x.fn = 0) && isEven x.d && isG x.a && decide (x.rsv = 0) && orderOk false true .any x.scope x.acq x.rel
  | .barr x => pgOk x.pg && decide (x.fn = 0) && isG1 x.d && isG x.a && decide (x.rsv = 0) && orderOk true true .any x.scope x.acq x.rel
  | .bwait x => pgOk x.pg && decide (x.fn = 0) && isEven x.d && isG x.a && decide (x.rsv = 0) && orderOk true false .any x.scope x.acq x.rel
  | .cntrd x => pgOk x.pg && decide (x.fn = 0) && (decide (x.c.toNat ≤ 6) && isZero x.a || decide (8 ≤ x.c.toNat) && decide (x.c.toNat ≤ 16)) && regsOk isV isG isZero isAny x && decide (x.md = 0)
  | .xcopy x => pgOk x.pg && decide (x.fn = 0) && isG x.a && isZero x.b && orderOk true true .any x.scope x.acq x.rel && decide (x.cls.toNat ≤ 3) && decide (x.imm = 0)
  | .xgath x => pgOk x.pg && decide (x.fn = 0) && isG x.a && isH x.b && orderOk true true .any x.scope x.acq x.rel && decide (x.cls = 0) && decide (x.imm = 0)
  | .xscat x => pgOk x.pg && decide (x.fn = 0) && isG x.a && isH x.b && orderOk true true .any x.scope x.acq x.rel && decide (x.cls = 0) && decide (x.imm = 0)
  | .xcoll x => pgOk x.pg && decide (x.fn.toNat < 5) && isG x.a && isH x.b && orderOk true true .any x.scope x.acq x.rel && decide (x.cls.toNat ≤ 2) && decide (x.imm.toNat ≤ 65535)
  | .xtask x => pgOk x.pg && decide (x.fn = 0) && isG x.a && isZero x.b && orderOk true true .any x.scope x.acq x.rel && decide (x.cls = 0) && decide (x.imm = 0)
  | .xsend x => pgOk x.pg && decide (x.fn = 0) && isG x.a && isG x.b && orderOk true true .any x.scope x.acq x.rel && decide (x.cls = 0) && decide (x.imm = 0)
  | .xckpt x => pgOk x.pg && decide (x.fn = 0) && isG x.a && isZero x.b && orderOk true true .any x.scope x.acq x.rel && decide (x.cls = 0) && decide (x.imm = 0)
  | .xcancel x => pgOk x.pg && decide (x.fn = 0) && isG x.a && isZero x.b && orderOk true true .any x.scope x.acq x.rel && decide (x.cls = 0) && decide (x.imm = 0)
  | .wmassert x => pgOk x.pg && decide (x.fn = 0) && isG x.a && isG x.b && orderOk false false .zero x.scope x.acq x.rel && decide (x.cls = 0) && decide (x.imm = 0)
  | .wmretract x => pgOk x.pg && decide (x.fn = 0) && isG x.a && isG x.b && orderOk false false .zero x.scope x.acq x.rel && decide (x.cls = 0) && decide (x.imm = 0)
  | .wmmodify x => pgOk x.pg && decide (x.fn = 0) && isEven x.a && isG x.b && orderOk false false .zero x.scope x.acq x.rel && decide (x.cls = 0) && decide (x.imm = 0)
  | .cssel x => pgOk x.pg && decide (x.fn = 0) && isG x.a && isG x.b && orderOk false false .zero x.scope x.acq x.rel && decide (x.cls = 0) && decide (x.imm.toNat ≤ 63)
  | .csinfoSummary x => pgOk x.pg && decide (x.fn = 0) && isG x.a && isG x.b && orderOk false false .zero x.scope x.acq x.rel && decide (x.cls = 0) && decide (x.imm = 0)
  | .csinfoEntry x => pgOk x.pg && decide (x.fn = 0) && isG x.a && isG x.b && orderOk false false .zero x.scope x.acq x.rel && decide (x.cls = 1) && decide (x.imm.toNat ≤ 65535)
  | .csclrAll x => pgOk x.pg && decide (x.fn = 0) && isZero x.a && isG x.b && orderOk false false .zero x.scope x.acq x.rel && decide (x.cls = 0) && decide (x.imm = 0)
  | .csclrRule x => pgOk x.pg && decide (x.fn = 0) && isZero x.a && isG x.b && orderOk false false .zero x.scope x.acq x.rel && decide (x.cls = 1) && decide (x.imm.toNat ≤ 65535)
  | .rload x => pgOk x.pg && decide (x.fn = 0) && isZero x.a && isG x.b && orderOk false false .zero x.scope x.acq x.rel && decide (x.cls = 0) && decide (x.imm.toNat ≤ 15)
  | .dopen x => pgOk x.pg && decide (x.fn = 0) && isG x.a && isH x.b && orderOk true false .ordered x.scope x.acq x.rel && decide (x.cls.toNat ≤ 1) && decide (x.imm = 0)
  | .dopenWait x => pgOk x.pg && decide (x.fn = 1) && isEven x.a && isH x.b && orderOk true false .ordered x.scope x.acq x.rel && decide (x.cls.toNat ≤ 1) && decide (x.imm = 0)
  | .dclose x => pgOk x.pg && decide (x.fn = 0) && isZero x.a && isH x.b && orderOk false true .ordered x.scope x.acq x.rel && decide (x.cls = 0) && decide (x.imm = 0)
  | .dbind x => pgOk x.pg && decide (x.fn = 0) && isG x.a && isG x.b && orderOk false true .ordered x.scope x.acq x.rel && decide (x.cls = 0) && decide (x.imm = 0)
  | .dbindSet x => pgOk x.pg && decide (x.fn = 0) && isG x.a && isZero x.b && orderOk false true .ordered x.scope x.acq x.rel && decide (x.cls = 1) && decide (x.imm.toNat ≤ 15)
  | .dunbind x => pgOk x.pg && decide (x.fn = 0) && isG x.a && isZero x.b && orderOk false true .ordered x.scope x.acq x.rel && decide (x.cls = 0) && decide (x.imm = 0)
  | .dstat x => pgOk x.pg && decide (x.fn = 0) && isG x.a && isG x.b && orderOk true false .ordered x.scope x.acq x.rel && decide (x.cls = 0) && decide (x.imm = 0)
  | .ddesc x => pgOk x.pg && decide (x.fn = 0) && isG x.a && isH x.b && orderOk false false .zero x.scope x.acq x.rel && decide (x.cls = 0) && decide (x.imm = 0)
  | .glaunch x => pgOk x.pg && decide (x.fn = 0) && isG x.a && isG x.b && orderOk false false .zero x.scope x.acq x.rel && decide (x.cls = 0) && true
  | .glaunchDelta x => pgOk x.pg && decide (x.fn = 0) && isG x.a && isG x.b && orderOk false false .zero x.scope x.acq x.rel && decide (x.cls = 1) && true
  | .gstop x => pgOk x.pg && decide (x.fn = 0) && isG x.a && isG x.b && orderOk false false .zero x.scope x.acq x.rel && decide (x.cls = 0) && decide (x.imm = 0)
  | .gsnap x => pgOk x.pg && decide (x.fn = 0) && isG x.a && isG x.b && orderOk false false .zero x.scope x.acq x.rel && decide (x.cls = 0) && decide (x.imm = 0)
  | .grest x => pgOk x.pg && decide (x.fn = 0) && isG x.a && isG x.b && orderOk false false .zero x.scope x.acq x.rel && decide (x.cls = 0) && decide (x.imm = 0)
  | .gbank x => pgOk x.pg && decide (x.fn = 0) && isG x.a && isG x.b && orderOk false false .zero x.scope x.acq x.rel && decide (x.cls = 0) && decide (x.imm = 0)
  | .gpart x => pgOk x.pg && decide (x.fn = 0) && isG x.a && isG x.b && orderOk false false .zero x.scope x.acq x.rel && decide (x.cls = 0) && decide (x.imm = 0)
  | .gqueryStatus x => pgOk x.pg && decide (x.fn = 0) && isG x.a && isG x.b && orderOk false false .zero x.scope x.acq x.rel && decide (x.cls = 0) && decide (x.imm = 0)
  | .gquerySize x => pgOk x.pg && decide (x.fn = 0) && isG x.a && isG x.b && orderOk false false .zero x.scope x.acq x.rel && decide (x.cls = 1) && decide (x.imm = 0)
  | .gquerySpoil x => pgOk x.pg && decide (x.fn = 0) && isG x.a && isG x.b && orderOk false false .zero x.scope x.acq x.rel && decide (x.cls = 2) && decide (x.imm.toNat ≤ 256)
  | .gqueryDump x => pgOk x.pg && decide (x.fn = 0) && isG x.a && isG x.b && orderOk false false .zero x.scope x.acq x.rel && decide (x.cls = 3) && true
  | .freshet x => pgOk x.pg && decide (x.fn = 0) && isG x.a && isG x.b && orderOk false false .zero x.scope x.acq x.rel && decide (x.cls = 0) && decide (x.imm = 0)
  | .trap x => pgOk x.pg && isZero x.d && isZero x.a && decide (x.fn = 0)
  | .eret x => pgOk x.pg && decide (x.fn = 0) && regsOk isZero isZero isZero isZero x && decide (x.md = 0)
  | .brk x => pgOk x.pg && isZero x.d && isZero x.a && decide (x.fn = 0)
  | .msgi x => pgOk x.pg && decide (x.fn = 0) && isG x.a && isZero x.b && orderOk false true .any x.scope x.acq x.rel && decide (x.cls = 0) && decide (x.imm.toNat ≤ 63)
  | .ctxsave x => pgOk x.pg && decide (x.fn = 0) && isG x.d && isG x.a && decide (x.rsv = 0) && orderOk false false .zero x.scope x.acq x.rel
  | .ctxrest x => pgOk x.pg && decide (x.fn = 0) && isG x.d && isG x.a && decide (x.rsv = 0) && orderOk false false .zero x.scope x.acq x.rel
  | .tlbinv x => pgOk x.pg && decide (x.fn = 0) && isG x.d && isG x.a && decide (x.rsv = 0) && orderOk false false .wide x.scope x.acq x.rel
  | .idle x => pgOk x.pg && decide (x.fn = 0) && regsOk isZero isZero isZero isZero x && decide (x.md = 0)
  | .signal x => pgOk x.pg && decide (x.fn = 0) && isEven x.d && isG x.a && decide (x.rsv = 0) && orderOk false true .any x.scope x.acq x.rel
  | .ptsync x => pgOk x.pg && decide (x.fn = 0) && isG x.d && isZero x.a && decide (x.rsv = 0) && orderOk false false .wide x.scope x.acq x.rel && decide (x.off = 0)
  | .nodeArithFire op x => arithNodeOk op x
  | .steer x => targetsOk x && decide (x.fn = 0) && decide (x.lit = 0)
  | .merge x => targetsOk x && decide (x.fn = 0) && decide (x.lit = 0)
  | .gate x => targetsOk x && decide (x.fn = 0) && decide (x.lit = 0)
  | .fcomp x => targetsOk x && decide (x.fn = 0) && decide (x.lit = 0) && decide (x.tagm = 0)
  | .repeat x => targetsOk x && decide (x.fn = 0) && true
  | .delay x => targetsOk x && decide (x.fn = 0) && decide (x.lit.toNat < 32) && decide (x.tagm = 0)
  | .accum x => targetsOk x && decide (x.fn.toNat ≤ 10) && (decide (8 ≤ x.fn.toNat) || decide (bits x.lit.toNat 12 11 = 0))
  | .gen x => targetsOk x && decide (x.fn = 0) && true
  | .genTrig x => targetsOk x && decide (x.fn = 1) && true
  | .sink x => targetsOk x && decide (x.fn = 0) && decide (x.lit = 0) && decide (x.t1 = 3) && decide (x.t2 = 3)
  | .src x => targetsOk x && decide (x.fn.toNat ≤ 1) && true
  | .tagset x => targetsOk x && decide (x.fn = 0) && decide (x.lit = 0) && decide (x.tagm = 0)
  | .tagget x => targetsOk x && decide (x.fn = 0) && decide (x.lit = 0)
  | .route x => targetsOk x && decide (x.fn = 0) && decide (x.lit.toNat < 64)
  | .bound x => targetsOk x && decide (x.fn = 0) && decide (x.lit.toNat ≤ 5)
  | .agen x => targetsOk x && decide (x.fn.toNat ≤ 1) && decide (x.lit.toNat ≤ 1)
  | .mload x => targetsOk x && decide (x.fn.toNat ≤ 24) && decide (x.fn ≠ 17) && tileLitOk x
  | .mstore x => targetsOk x && decide (x.fn.toNat ≤ 13) && tileLitOk x
  | .rmw x => targetsOk x && (decide (x.fn = 28) || decide (x.fn.toNat < 28) && decide (bits x.fn.toNat 1 1 = 0)) && decide (x.lit = 0)
  | .merge2 x => targetsOk x && (decide (x.fn = 2) || decide (x.fn = 6) || decide (x.fn = 8)) && decide (x.lit = 0)
  | .lut6 x => targetsOk x && decide (x.fn = 0) && decide (x.lit = 0)
  | .fsm x => targetsOk x && decide (x.fn = 0) && decide (bits x.lit.toNat 12 11 = 0) && decide (bits x.lit.toNat 9 4 ≤ 62)
  | .falloc x => targetsOk x && decide (x.fn = 0) && decide (x.lit = 0) && decide (x.tagm = 0)
  | .ffree x => targetsOk x && decide (x.fn = 0) && decide (x.lit = 0)
  | .chan x => targetsOk x && decide (x.fn = 0) && decide (x.lit = 0)
  | .weir x => targetsOk x && decide (x.fn = 0) && decide (x.lit = 0)
  | .expert x => targetsOk x && decide (x.fn = 0) && decide (x.lit = 0) && decide (x.tagm = 0)
  | .topk x => targetsOk x && isFloat x.fn.toNat && decide (x.lit.toNat ≤ 3)
  | .spill x => targetsOk x && decide (x.fn = 0) && decide (x.lit = 0)
  | .alpha x => targetsOk x && decide (bits x.fn.toNat 2 0 ≤ 5) && decide (bits x.fn.toNat 4 3 ≤ 2) && decide (bits x.lit.toNat 3 0 ≤ 12) && decide (x.tagm = 0)
  | .joinb x => targetsOk x && decide (x.fn = 0) && keyOk x.lit.toNat 11 && decide (bits x.lit.toNat 2 0 = 0) && decide (x.tagm = 0)
  | .negj x => targetsOk x && decide (x.fn = 0) && keyOk x.lit.toNat 11 && decide (bits x.lit.toNat 2 0 = 0) && decide (x.tagm = 0)
  | .memb x => targetsOk x && decide (x.fn = 0) && keyOk x.lit.toNat 9 && decide (bits x.lit.toNat 2 0 = 0) && decide (x.tagm = 0)
  | .term x => targetsOk x && decide (x.fn = 0) && true && decide (x.tagm = 0)
  | .score x => targetsOk x && decide (x.fn = 0) && decide (bits x.lit.toNat 12 12 = 0) && decide (bits x.lit.toNat 11 10 ≤ 2) && decide (bits x.lit.toNat 9 6 ≤ 11) && decide (bits x.lit.toNat 5 2 ≤ 11) && decide (x.tagm = 0)
  | .tileNodeFire op x => tileNodeOk op x
  | .illegalInstructionWord _ => true
  | .expertDrain _ _ => true
  | .scoreReply _ _ _ => true
  | .tmma _ => true
  | .tmms _ => true
  | .tdecompDense _ => true
  | .tdecompPacked _ => true
  | .tresid _ => true
  | .tzero _ => true
  | .tcvt _ => true
  | .tscale _ => true
  | .tred _ => true
  | .ttrans _ => true
  | .ttopk _ => true
  | .ringdefTiles _ => true
  | .ringdefRing _ => true
  | .ringdefTasks _ => true
  | .tact _ => true
  | .tokenArrival _ _ => true
  | .tokenAccept _ _ _ => true
  | .creditReturn _ _ => true
  | .loadComplete _ _ => true
  | .storeRetire _ _ => true
  | .pageWalk _ => true
  | .requesterResume _ _ => true
  | .activeMessage _ => true
  | .chunkWritten _ _ => true
  | .engineReply _ => true
  | .tileTaskCheck _ => true
  | .tileTaskIssue _ _ => true
  | .tileTaskRetire _ => true
  | .dotEngineFaultStop _ => true
  | .taskCommit => true
  | .taskIrrevocable => true
  | .firingStart _ => true
  | .deltaApply _ => true
  | .deltaInject _ => true
  | .bankPass _ => true
  | .bankTokenArrival _ => true
  | .deltaDrainComplete _ => true
  | .freshetNodeReconfig _ _ => true
  | .snapNodeSave _ _ => true
  | .linkTokenRecord _ _ => true
  | .snapForcedSave _ => true
  | .drainComplete _ => true
  | .stallNoeos _ => true
  | .quantumExpiry _ => true
  | .requestAging _ _ => true
  | .regionGrant _ => true
  | .preempt _ => true
  | .schedulerRestore _ => true
  | .trapResume _ => true
  | .trapSkip _ => true
  | .trapHandler _ => true
  | .trapEnd _ => true
  | .threadWake _ => true
  | .parkTimeout _ => true
  | .dopenTimeout _ => true
  | .stallResume _ => true
  | .barrierArrival _ => true
  | .doorbell _ _ => true
  | .queueConfigWrite _ _ _ => true
  | .queueStatusClear _ => true
  | .errcntClear _ _ => true
  | .registerWrite _ _ _ _ => true
  | .nop _ => true
  | .thread _ => true
  | .delta _ => true
  | .indirect _ => true
  | .waitsig _ => true
  | .write _ => true
  | .commandComplete _ => true
  | .hostApertureRead _ _ _ => true
  | .hostApertureWrite _ _ _ => true
  | .hostReadTimeout _ _ => true
  | .peerRequest _ => true
  | .flitReceive _ _ => true
  | .portDown _ => true
  | .reduceContribution _ _ _ => true
  | .nvmeDoorbell _ _ _ => true
  | .nvmeCompletion _ _ _ => true
  | .patrolScrub _ _ => true
  | .reset => true
  | .powerOnBoot => true
  | .kernelImageLoad _ => true
  | .pldmFirmwareUpdate _ => true
  | .sensorSample _ => true
  | .vcoreRemoved => true
  | .vauxRemoved => true
  | .eventLogRead _ => true
  | .attestationReport _ => true
  | .measurementExtend _ _ => true
  | .keySlotWrite _ _ _ => true
  | .keySlotRead _ _ => true
  | .keySlotClear _ => true
  | .debugNonceRequest _ => true
  | .debugUnlock _ => true
  | .debugExpiry => true
  | .illegalCommandEntry _ => true
  | .flitReplay _ => true
  | .hostAtomicop _ _ => true
  | .debugPortAccess _ => true

end Sys2Proof.Machine
end

