-- ==== Sys2Proof/WellFormed.lean ====
section
/-! DEFINITION. Well-formed instructions: words the spec accepts in their form (R62, R63, R218). -/
namespace Sys2Proof

/-- A well-formed instruction: its word is legal (R62, R63), or it is an event and carries no word. -/
def Instr.WF (i : Instr) : Prop := Machine.legal i = true

/-- A word of the thread form: what a thread can issue. -/
def Instr.isThread (i : Instr) : Bool := match i with
  | .add _ => true
  | .sub _ => true
  | .mul _ => true
  | .mulh _ => true
  | .div _ => true
  | .rem _ => true
  | .min _ => true
  | .max _ => true
  | .abs _ => true
  | .neg _ => true
  | .and _ => true
  | .or _ => true
  | .xor _ => true
  | .andn _ => true
  | .shl _ => true
  | .shr _ => true
  | .sar _ => true
  | .rol _ => true
  | .popc _ => true
  | .clz _ => true
  | .ctz _ => true
  | .bfx _ => true
  | .bfi _ => true
  | .cmp _ => true
  | .sel _ => true
  | .addi _ => true
  | .madd _ => true
  | .satn _ => true
  | .hash _ => true
  | .mov _ => true
  | .movi _ => true
  | .movhi _ => true
  | .lea _ => true
  | .leaIndexed _ => true
  | .plog _ => true
  | .csrr _ => true
  | .csrw _ => true
  | .tsc _ => true
  | .qpeek _ => true
  | .qstat _ => true
  | .fadd _ => true
  | .fsub _ => true
  | .fmul _ => true
  | .fma _ => true
  | .fmin _ => true
  | .fmax _ => true
  | .fcmp _ => true
  | .frcp _ => true
  | .frsq _ => true
  | .fexp2 _ => true
  | .flog2 _ => true
  | .ftanh _ => true
  | .fsigm _ => true
  | .fclass _ => true
  | .fscale _ => true
  | .fcvt _ => true
  | .icvt _ => true
  | .bxpack _ => true
  | .bxunpk _ => true
  | .mxpack _ => true
  | .mxunpk _ => true
  | .scale _ => true
  | .unscale _ => true
  | .br _ => true
  | .bri _ => true
  | .call _ => true
  | .ret _ => true
  | .halt _ => true
  | .waita _ => true
  | .yield _ => true
  | .spawn _ => true
  | .ld _ => true
  | .ldIndexed _ => true
  | .st _ => true
  | .stIndexed _ => true
  | .atom _ => true
  | .cas _ => true
  | .stb _ => true
  | .stm _ => true
  | .stred _ => true
  | .pref _ => true
  | .fence _ => true
  | .tspawn _ => true
  | .tend _ => true
  | .tabort _ => true
  | .tstamp _ => true
  | .tbarrier _ => true
  | .tdirect _ => true
  | .gvt _ => true
  | .wait _ => true
  | .waitm _ => true
  | .waitt _ => true
  | .binit _ => true
  | .barr _ => true
  | .bwait _ => true
  | .cntrd _ => true
  | .xcopy _ => true
  | .xgath _ => true
  | .xscat _ => true
  | .xcoll _ => true
  | .xtask _ => true
  | .xsend _ => true
  | .xckpt _ => true
  | .xcancel _ => true
  | .wmassert _ => true
  | .wmretract _ => true
  | .wmmodify _ => true
  | .cssel _ => true
  | .csinfoSummary _ => true
  | .csinfoEntry _ => true
  | .csclrAll _ => true
  | .csclrRule _ => true
  | .rload _ => true
  | .dopen _ => true
  | .dopenWait _ => true
  | .dclose _ => true
  | .dbind _ => true
  | .dbindSet _ => true
  | .dunbind _ => true
  | .dstat _ => true
  | .ddesc _ => true
  | .glaunch _ => true
  | .glaunchDelta _ => true
  | .gstop _ => true
  | .gsnap _ => true
  | .grest _ => true
  | .gbank _ => true
  | .gpart _ => true
  | .gqueryStatus _ => true
  | .gquerySize _ => true
  | .gquerySpoil _ => true
  | .gqueryDump _ => true
  | .freshet _ => true
  | .trap _ => true
  | .eret _ => true
  | .brk _ => true
  | .msgi _ => true
  | .ctxsave _ => true
  | .ctxrest _ => true
  | .tlbinv _ => true
  | .idle _ => true
  | .signal _ => true
  | .ptsync _ => true
  | _ => false

end Sys2Proof
end

