-- ==== Sys2Proof/Decode.lean ====
section
/-! DEFINITION. The decoder from 64-bit words to instructions, and the encoder (spec 03_encoding R48 to R63). -/
namespace Sys2Proof
open Sys2Proof.Machine

/-- Why a word is no instruction of its form (R62, R63). -/
inductive DecodeErr where
  /-- F is 1 in thread form, or 0 in node form. -/
  | wrongForm
  /-- OP is reserved, or has only the other form. -/
  | noSuchOpcode
  /-- FN, a register role, a modifier, an order field or a reserved field breaks its instruction's description. -/
  | illegalFields
  deriving DecidableEq, Repr

/-- OP, bits 63:56 (R48). -/
def opOf (w : W) : Nat := (w.extractLsb' 56 8).toNat
/-- F, bit 55 (R48). -/
def formOf (w : W) : BitVec 1 := w.extractLsb' 55 1

/-- The fields of format T3 (R51). -/
def getT3 (w : W) : T3 :=
  ⟨w.extractLsb' 50 5, w.extractLsb' 46 4, w.extractLsb' 39 7, w.extractLsb' 32 7, w.extractLsb' 25 7, w.extractLsb' 18 7, w.extractLsb' 0 18⟩
/-- The fields of format TI (R51). -/
def getTI (w : W) : TI := ⟨w.extractLsb' 50 5, w.extractLsb' 46 4, w.extractLsb' 39 7, w.extractLsb' 32 7, w.extractLsb' 0 32⟩
/-- The fields of format TM (R51). -/
def getTM (w : W) : TM :=
  ⟨w.extractLsb' 50 5, w.extractLsb' 46 4, w.extractLsb' 39 7, w.extractLsb' 32 7, w.extractLsb' 29 3, w.extractLsb' 28 1, w.extractLsb' 27 1,
   w.extractLsb' 25 2, w.extractLsb' 0 25⟩
/-- The fields of format TB (R51). -/
def getTB (w : W) : TB := ⟨w.extractLsb' 50 5, w.extractLsb' 46 4, w.extractLsb' 39 7, w.extractLsb' 0 39⟩
/-- The fields of format TW (R51). -/
def getTW (w : W) : TW :=
  ⟨w.extractLsb' 50 5, w.extractLsb' 46 4, w.extractLsb' 42 4, w.extractLsb' 38 4, w.extractLsb' 34 4, w.extractLsb' 30 4, w.extractLsb' 0 30⟩
/-- The fields of format TX (R51). -/
def getTX (w : W) : TX :=
  ⟨w.extractLsb' 50 5, w.extractLsb' 46 4, w.extractLsb' 39 7, w.extractLsb' 32 7, w.extractLsb' 29 3, w.extractLsb' 28 1, w.extractLsb' 27 1,
   w.extractLsb' 24 3, w.extractLsb' 0 24⟩
/-- The fields of a node-form word (R58). -/
def getNW (w : W) : NW :=
  ⟨w.extractLsb' 50 5, w.extractLsb' 34 16, w.extractLsb' 18 16, w.extractLsb' 16 2, w.extractLsb' 15 1, w.extractLsb' 14 1, w.extractLsb' 13 1,
   w.extractLsb' 0 13⟩

/-- Integer opcodes 0x00 to 0x1C, thread form (R61). -/
def rowsInt : List (Nat × (W → Instr)) := [
  (0x00, fun w => .add (getT3 w)),
  (0x01, fun w => .sub (getT3 w)),
  (0x02, fun w => .mul (getT3 w)),
  (0x03, fun w => .mulh (getT3 w)),
  (0x04, fun w => .div (getT3 w)),
  (0x05, fun w => .rem (getT3 w)),
  (0x06, fun w => .min (getT3 w)),
  (0x07, fun w => .max (getT3 w)),
  (0x08, fun w => .abs (getT3 w)),
  (0x09, fun w => .neg (getT3 w)),
  (0x0a, fun w => .and (getT3 w)),
  (0x0b, fun w => .or (getT3 w)),
  (0x0c, fun w => .xor (getT3 w)),
  (0x0d, fun w => .andn (getT3 w)),
  (0x0e, fun w => .shl (getT3 w)),
  (0x0f, fun w => .shr (getT3 w)),
  (0x10, fun w => .sar (getT3 w)),
  (0x11, fun w => .rol (getT3 w)),
  (0x12, fun w => .popc (getT3 w)),
  (0x13, fun w => .clz (getT3 w)),
  (0x14, fun w => .ctz (getT3 w)),
  (0x15, fun w => .bfx (getTI w)),
  (0x16, fun w => .bfi (getTI w)),
  (0x17, fun w => .cmp (getT3 w)),
  (0x18, fun w => .sel (getT3 w)),
  (0x19, fun w => .addi (getTI w)),
  (0x1a, fun w => .madd (getT3 w)),
  (0x1b, fun w => .satn (getT3 w)),
  (0x1c, fun w => .hash (getT3 w))]

/-- Register opcodes 0x20 to 0x29, thread form (R61). -/
def rowsReg : List (Nat × (W → Instr)) := [
  (0x20, fun w => .mov (getT3 w)),
  (0x21, fun w => .movi (getTI w)),
  (0x22, fun w => .movhi (getTI w)),
  (0x23, fun w => if bit (getT3 w).fn.toNat 4 then .leaIndexed (getT3 w) else .lea (getTM w)),
  (0x24, fun w => .plog (getT3 w)),
  (0x25, fun w => .csrr (getT3 w)),
  (0x26, fun w => .csrw (getT3 w)),
  (0x27, fun w => .tsc (getT3 w)),
  (0x28, fun w => .qpeek (getT3 w)),
  (0x29, fun w => .qstat (getT3 w))]

/-- Floating and conversion opcodes 0x30 to 0x47, thread form (R61). -/
def rowsFloat : List (Nat × (W → Instr)) := [
  (0x30, fun w => .fadd (getT3 w)),
  (0x31, fun w => .fsub (getT3 w)),
  (0x32, fun w => .fmul (getT3 w)),
  (0x33, fun w => .fma (getT3 w)),
  (0x34, fun w => .fmin (getT3 w)),
  (0x35, fun w => .fmax (getT3 w)),
  (0x36, fun w => .fcmp (getT3 w)),
  (0x37, fun w => .frcp (getT3 w)),
  (0x38, fun w => .frsq (getT3 w)),
  (0x39, fun w => .fexp2 (getT3 w)),
  (0x3a, fun w => .flog2 (getT3 w)),
  (0x3b, fun w => .ftanh (getT3 w)),
  (0x3c, fun w => .fsigm (getT3 w)),
  (0x3d, fun w => .fclass (getT3 w)),
  (0x3e, fun w => .fscale (getT3 w)),
  (0x40, fun w => .fcvt (getT3 w)),
  (0x41, fun w => .icvt (getT3 w)),
  (0x42, fun w => .bxpack (getT3 w)),
  (0x43, fun w => .bxunpk (getT3 w)),
  (0x44, fun w => .mxpack (getT3 w)),
  (0x45, fun w => .mxunpk (getT3 w)),
  (0x46, fun w => .scale (getT3 w)),
  (0x47, fun w => .unscale (getT3 w))]

/-- Control opcodes 0x48 to 0x4F, thread form (R61). -/
def rowsControl : List (Nat × (W → Instr)) := [
  (0x48, fun w => .br (getTB w)),
  (0x49, fun w => .bri (getTB w)),
  (0x4a, fun w => .call (getTB w)),
  (0x4b, fun w => .ret (getTB w)),
  (0x4c, fun w => .halt (getT3 w)),
  (0x4d, fun w => .waita (getTM w)),
  (0x4e, fun w => .yield (getT3 w)),
  (0x4f, fun w => .spawn (getTB w))]

/-- Memory opcodes 0x50 to 0x58, thread form (R61). -/
def rowsMem : List (Nat × (W → Instr)) := [
  (0x50, fun w => if bit (getT3 w).fn.toNat 4 then .ldIndexed (getT3 w) else .ld (getTM w)),
  (0x51, fun w => if bit (getT3 w).fn.toNat 4 then .stIndexed (getT3 w) else .st (getTM w)),
  (0x52, fun w => .atom (getTM w)),
  (0x53, fun w => .cas (getTM w)),
  (0x54, fun w => .stb (getTX w)),
  (0x55, fun w => .stm (getTX w)),
  (0x56, fun w => .stred (getTX w)),
  (0x57, fun w => .pref (getTM w)),
  (0x58, fun w => .fence (getTM w))]

/-- Task and counter opcodes 0x60 to 0x6E, thread form (R61). -/
def rowsTask : List (Nat × (W → Instr)) := [
  (0x60, fun w => .tspawn (getTB w)),
  (0x61, fun w => .tend (getT3 w)),
  (0x62, fun w => .tabort (getT3 w)),
  (0x63, fun w => .tstamp (getT3 w)),
  (0x64, fun w => .tbarrier (getT3 w)),
  (0x65, fun w => .tdirect (getT3 w)),
  (0x66, fun w => .gvt (getT3 w)),
  (0x68, fun w => .wait (getTW w)),
  (0x69, fun w => .waitm (getTX w)),
  (0x6a, fun w => .waitt (getTX w)),
  (0x6b, fun w => .binit (getTM w)),
  (0x6c, fun w => .barr (getTM w)),
  (0x6d, fun w => .bwait (getTM w)),
  (0x6e, fun w => .cntrd (getT3 w))]

/-- Engine and rule opcodes, thread form (R61). -/
def rowsEngine : List (Nat × (W → Instr)) := [
  (0x70, fun w => .xcopy (getTX w)),
  (0x71, fun w => .xgath (getTX w)),
  (0x72, fun w => .xscat (getTX w)),
  (0x73, fun w => .xcoll (getTX w)),
  (0x74, fun w => .xtask (getTX w)),
  (0x75, fun w => .xsend (getTX w)),
  (0x76, fun w => .xckpt (getTX w)),
  (0x77, fun w => .xcancel (getTX w)),
  (0xb0, fun w => .wmassert (getTX w)),
  (0xb1, fun w => .wmretract (getTX w)),
  (0xb2, fun w => .wmmodify (getTX w)),
  (0xb9, fun w => .cssel (getTX w)),
  (0xba, fun w => if (getTX w).cls = 0 then .csinfoSummary (getTX w) else .csinfoEntry (getTX w)),
  (0xbb, fun w => if (getTX w).cls = 0 then .csclrAll (getTX w) else .csclrRule (getTX w)),
  (0xbc, fun w => .rload (getTX w))]

/-- Directory, graph and system opcodes, thread form (R61). -/
def rowsTable : List (Nat × (W → Instr)) := [
  (0xc0, fun w => if (getTX w).fn = 0 then .dopen (getTX w) else .dopenWait (getTX w)),
  (0xc1, fun w => .dclose (getTX w)),
  (0xc2, fun w => if (getTX w).cls = 0 then .dbind (getTX w) else .dbindSet (getTX w)),
  (0xc3, fun w => .dunbind (getTX w)),
  (0xc4, fun w => .dstat (getTX w)),
  (0xc5, fun w => .ddesc (getTX w)),
  (0xc8, fun w => if (getTX w).cls = 0 then .glaunch (getTX w) else .glaunchDelta (getTX w)),
  (0xc9, fun w => .gstop (getTX w)),
  (0xca, fun w => .gsnap (getTX w)),
  (0xcb, fun w => .grest (getTX w)),
  (0xcc, fun w => .gbank (getTX w)),
  (0xcd, fun w => .gpart (getTX w)),
  (0xce, fun w => if (getTX w).cls = 0 then .gqueryStatus (getTX w) else if (getTX w).cls = 1 then .gquerySize (getTX w)
    else if (getTX w).cls = 2 then .gquerySpoil (getTX w) else .gqueryDump (getTX w)),
  (0xcf, fun w => .freshet (getTX w)),
  (0xd0, fun w => .trap (getTI w)),
  (0xd1, fun w => .eret (getT3 w)),
  (0xd2, fun w => .brk (getTI w)),
  (0xd3, fun w => .msgi (getTX w)),
  (0xd4, fun w => .ctxsave (getTM w)),
  (0xd5, fun w => .ctxrest (getTM w)),
  (0xd6, fun w => .tlbinv (getTM w)),
  (0xd7, fun w => .idle (getT3 w)),
  (0xd8, fun w => .signal (getTM w)),
  (0xd9, fun w => .ptsync (getTM w))]

/-- Dataflow and match-network opcodes, node form (R61). -/
def rowsNode : List (Nat × (W → Instr)) := [
  (0x80, fun w => .steer (getNW w)),
  (0x81, fun w => .merge (getNW w)),
  (0x82, fun w => .gate (getNW w)),
  (0x83, fun w => .fcomp (getNW w)),
  (0x84, fun w => .repeat (getNW w)),
  (0x85, fun w => .delay (getNW w)),
  (0x86, fun w => .accum (getNW w)),
  (0x87, fun w => if (getNW w).fn = 0 then .gen (getNW w) else .genTrig (getNW w)),
  (0x88, fun w => .sink (getNW w)),
  (0x89, fun w => .src (getNW w)),
  (0x8a, fun w => .agen (getNW w)),
  (0x8b, fun w => .mload (getNW w)),
  (0x8c, fun w => .mstore (getNW w)),
  (0x8d, fun w => .rmw (getNW w)),
  (0x8e, fun w => .route (getNW w)),
  (0x8f, fun w => .merge2 (getNW w)),
  (0x90, fun w => .lut6 (getNW w)),
  (0x91, fun w => .fsm (getNW w)),
  (0x92, fun w => .tagset (getNW w)),
  (0x93, fun w => .tagget (getNW w)),
  (0x94, fun w => .falloc (getNW w)),
  (0x95, fun w => .ffree (getNW w)),
  (0x96, fun w => .chan (getNW w)),
  (0x97, fun w => .weir (getNW w)),
  (0x98, fun w => .bound (getNW w)),
  (0x99, fun w => .expert (getNW w)),
  (0x9a, fun w => .topk (getNW w)),
  (0x9b, fun w => .spill (getNW w)),
  (0xb3, fun w => .alpha (getNW w)),
  (0xb4, fun w => .joinb (getNW w)),
  (0xb5, fun w => .negj (getNW w)),
  (0xb6, fun w => .memb (getNW w)),
  (0xb7, fun w => .term (getNW w)),
  (0xb8, fun w => .score (getNW w))]

/-- The first row with an opcode. -/
def lookRow : List (Nat × (W → Instr)) → Nat → Option (W → Instr)
  | [], _ => none
  | r :: t, op => if op = r.1 then some r.2 else lookRow t op

/-- The opcode map of R61, thread form. -/
def threadRows : List (Nat × (W → Instr)) :=
  rowsInt ++ rowsReg ++ rowsFloat ++ rowsControl ++ rowsMem ++ rowsTask ++ rowsEngine ++ rowsTable

/-- A word read as thread form, before the checks of R62. -/
def rawThread (w : W) : Option Instr := (lookRow threadRows (opOf w)).map (· w)

/-- A word read as node form, before the checks of R63: the arithmetic and tile opcodes share one firing each (R59, R313). -/
def rawNode (w : W) : Option Instr :=
  if isArith (opOf w) then some (.nodeArithFire (w.extractLsb' 56 8) (getNW w))
  else if 0xa0 ≤ opOf w ∧ opOf w ≤ 0xab then some (.tileNodeFire (w.extractLsb' 56 8) (getNW w))
  else (lookRow rowsNode (opOf w)).map (· w)

/-- Decode a thread-form word: an instruction that passes every check of R62, or the check that fails. -/
def decodeThread (w : W) : Except DecodeErr Instr :=
  if formOf w = 1 then .error .wrongForm else
  match rawThread w with
  | none => .error .noSuchOpcode
  | some i => if legal i then .ok i else .error .illegalFields

/-- Decode a node-form word: a node instruction that passes the checks of R63 that the word alone decides. -/
def decodeNode (w : W) : Except DecodeErr Instr :=
  if formOf w = 0 then .error .wrongForm else
  match rawNode w with
  | none => .error .noSuchOpcode
  | some i => if legal i then .ok i else .error .illegalFields

/-- The instruction in a word of either form: bit 55 chooses the form (R48). -/
def decodeWord (w : W) : Except DecodeErr Instr := if formOf w = 0 then decodeThread w else decodeNode w

/-- Decode from bytes in memory order: one little-endian 64-bit word (R49), and the rest of the bytes. -/
def decodeBytes (bs : List Byte) : Except DecodeErr (Instr × List Byte) :=
  match decodeWord (w64 (ofBytes (bs.take 8))) with
  | .ok i => .ok (i, bs.drop 8)
  | .error e => .error e

/-- The instruction the decoder reads from a word numbered as the opcode table numbers it: every word is one
64-bit word (R48), so the bits above nbits are zero. -/
def decodeTableWord (nbits w : Nat) : Option Instr :=
  match decodeBytes (toBytes 8 (w % 2 ^ nbits)) with
  | .ok (i, _) => some i
  | .error _ => none

/-! ### The encoder -/

/-- A word of format T3 (R51). -/
def encT3 (op : BitVec 8) (x : T3) : W := op ++ 0#1 ++ x.fn ++ x.pg ++ x.d ++ x.a ++ x.b ++ x.c ++ x.md
/-- A word of format TI (R51). -/
def encTI (op : BitVec 8) (x : TI) : W := op ++ 0#1 ++ x.fn ++ x.pg ++ x.d ++ x.a ++ x.imm
/-- A word of format TM (R51). -/
def encTM (op : BitVec 8) (x : TM) : W := op ++ 0#1 ++ x.fn ++ x.pg ++ x.d ++ x.a ++ x.scope ++ x.acq ++ x.rel ++ x.rsv ++ x.off
/-- A word of format TB (R51). -/
def encTB (op : BitVec 8) (x : TB) : W := op ++ 0#1 ++ x.fn ++ x.pg ++ x.a ++ x.disp
/-- A word of format TW (R51). -/
def encTW (op : BitVec 8) (x : TW) : W := op ++ 0#1 ++ x.fn ++ x.pg ++ x.l ++ x.s ++ x.c ++ x.k ++ x.rsv
/-- A word of format TX (R51). -/
def encTX (op : BitVec 8) (x : TX) : W := op ++ 0#1 ++ x.fn ++ x.pg ++ x.a ++ x.b ++ x.scope ++ x.acq ++ x.rel ++ x.cls ++ x.imm
/-- A node-form word (R58). -/
def encNW (op : BitVec 8) (x : NW) : W := op ++ 1#1 ++ x.fn ++ x.t1 ++ x.t2 ++ x.tagm ++ x.urg ++ x.sl ++ x.sr ++ x.lit

/-- The word of an instruction, from the encoding tables of R51, R58 and R61; an event has none. -/
def encode : Instr → Option W
  | .add x => some (encT3 0x00 x)
  | .sub x => some (encT3 0x01 x)
  | .mul x => some (encT3 0x02 x)
  | .mulh x => some (encT3 0x03 x)
  | .div x => some (encT3 0x04 x)
  | .rem x => some (encT3 0x05 x)
  | .min x => some (encT3 0x06 x)
  | .max x => some (encT3 0x07 x)
  | .abs x => some (encT3 0x08 x)
  | .neg x => some (encT3 0x09 x)
  | .and x => some (encT3 0x0a x)
  | .or x => some (encT3 0x0b x)
  | .xor x => some (encT3 0x0c x)
  | .andn x => some (encT3 0x0d x)
  | .shl x => some (encT3 0x0e x)
  | .shr x => some (encT3 0x0f x)
  | .sar x => some (encT3 0x10 x)
  | .rol x => some (encT3 0x11 x)
  | .popc x => some (encT3 0x12 x)
  | .clz x => some (encT3 0x13 x)
  | .ctz x => some (encT3 0x14 x)
  | .bfx x => some (encTI 0x15 x)
  | .bfi x => some (encTI 0x16 x)
  | .cmp x => some (encT3 0x17 x)
  | .sel x => some (encT3 0x18 x)
  | .addi x => some (encTI 0x19 x)
  | .madd x => some (encT3 0x1a x)
  | .satn x => some (encT3 0x1b x)
  | .hash x => some (encT3 0x1c x)
  | .mov x => some (encT3 0x20 x)
  | .movi x => some (encTI 0x21 x)
  | .movhi x => some (encTI 0x22 x)
  | .lea x => some (encTM 0x23 x)
  | .leaIndexed x => some (encT3 0x23 x)
  | .plog x => some (encT3 0x24 x)
  | .csrr x => some (encT3 0x25 x)
  | .csrw x => some (encT3 0x26 x)
  | .tsc x => some (encT3 0x27 x)
  | .qpeek x => some (encT3 0x28 x)
  | .qstat x => some (encT3 0x29 x)
  | .fadd x => some (encT3 0x30 x)
  | .fsub x => some (encT3 0x31 x)
  | .fmul x => some (encT3 0x32 x)
  | .fma x => some (encT3 0x33 x)
  | .fmin x => some (encT3 0x34 x)
  | .fmax x => some (encT3 0x35 x)
  | .fcmp x => some (encT3 0x36 x)
  | .frcp x => some (encT3 0x37 x)
  | .frsq x => some (encT3 0x38 x)
  | .fexp2 x => some (encT3 0x39 x)
  | .flog2 x => some (encT3 0x3a x)
  | .ftanh x => some (encT3 0x3b x)
  | .fsigm x => some (encT3 0x3c x)
  | .fclass x => some (encT3 0x3d x)
  | .fscale x => some (encT3 0x3e x)
  | .fcvt x => some (encT3 0x40 x)
  | .icvt x => some (encT3 0x41 x)
  | .bxpack x => some (encT3 0x42 x)
  | .bxunpk x => some (encT3 0x43 x)
  | .mxpack x => some (encT3 0x44 x)
  | .mxunpk x => some (encT3 0x45 x)
  | .scale x => some (encT3 0x46 x)
  | .unscale x => some (encT3 0x47 x)
  | .br x => some (encTB 0x48 x)
  | .bri x => some (encTB 0x49 x)
  | .call x => some (encTB 0x4a x)
  | .ret x => some (encTB 0x4b x)
  | .halt x => some (encT3 0x4c x)
  | .waita x => some (encTM 0x4d x)
  | .yield x => some (encT3 0x4e x)
  | .spawn x => some (encTB 0x4f x)
  | .ld x => some (encTM 0x50 x)
  | .ldIndexed x => some (encT3 0x50 x)
  | .st x => some (encTM 0x51 x)
  | .stIndexed x => some (encT3 0x51 x)
  | .atom x => some (encTM 0x52 x)
  | .cas x => some (encTM 0x53 x)
  | .stb x => some (encTX 0x54 x)
  | .stm x => some (encTX 0x55 x)
  | .stred x => some (encTX 0x56 x)
  | .pref x => some (encTM 0x57 x)
  | .fence x => some (encTM 0x58 x)
  | .tspawn x => some (encTB 0x60 x)
  | .tend x => some (encT3 0x61 x)
  | .tabort x => some (encT3 0x62 x)
  | .tstamp x => some (encT3 0x63 x)
  | .tbarrier x => some (encT3 0x64 x)
  | .tdirect x => some (encT3 0x65 x)
  | .gvt x => some (encT3 0x66 x)
  | .wait x => some (encTW 0x68 x)
  | .waitm x => some (encTX 0x69 x)
  | .waitt x => some (encTX 0x6a x)
  | .binit x => some (encTM 0x6b x)
  | .barr x => some (encTM 0x6c x)
  | .bwait x => some (encTM 0x6d x)
  | .cntrd x => some (encT3 0x6e x)
  | .xcopy x => some (encTX 0x70 x)
  | .xgath x => some (encTX 0x71 x)
  | .xscat x => some (encTX 0x72 x)
  | .xcoll x => some (encTX 0x73 x)
  | .xtask x => some (encTX 0x74 x)
  | .xsend x => some (encTX 0x75 x)
  | .xckpt x => some (encTX 0x76 x)
  | .xcancel x => some (encTX 0x77 x)
  | .wmassert x => some (encTX 0xb0 x)
  | .wmretract x => some (encTX 0xb1 x)
  | .wmmodify x => some (encTX 0xb2 x)
  | .cssel x => some (encTX 0xb9 x)
  | .csinfoSummary x => some (encTX 0xba x)
  | .csinfoEntry x => some (encTX 0xba x)
  | .csclrAll x => some (encTX 0xbb x)
  | .csclrRule x => some (encTX 0xbb x)
  | .rload x => some (encTX 0xbc x)
  | .dopen x => some (encTX 0xc0 x)
  | .dopenWait x => some (encTX 0xc0 x)
  | .dclose x => some (encTX 0xc1 x)
  | .dbind x => some (encTX 0xc2 x)
  | .dbindSet x => some (encTX 0xc2 x)
  | .dunbind x => some (encTX 0xc3 x)
  | .dstat x => some (encTX 0xc4 x)
  | .ddesc x => some (encTX 0xc5 x)
  | .glaunch x => some (encTX 0xc8 x)
  | .glaunchDelta x => some (encTX 0xc8 x)
  | .gstop x => some (encTX 0xc9 x)
  | .gsnap x => some (encTX 0xca x)
  | .grest x => some (encTX 0xcb x)
  | .gbank x => some (encTX 0xcc x)
  | .gpart x => some (encTX 0xcd x)
  | .gqueryStatus x => some (encTX 0xce x)
  | .gquerySize x => some (encTX 0xce x)
  | .gquerySpoil x => some (encTX 0xce x)
  | .gqueryDump x => some (encTX 0xce x)
  | .freshet x => some (encTX 0xcf x)
  | .trap x => some (encTI 0xd0 x)
  | .eret x => some (encT3 0xd1 x)
  | .brk x => some (encTI 0xd2 x)
  | .msgi x => some (encTX 0xd3 x)
  | .ctxsave x => some (encTM 0xd4 x)
  | .ctxrest x => some (encTM 0xd5 x)
  | .tlbinv x => some (encTM 0xd6 x)
  | .idle x => some (encT3 0xd7 x)
  | .signal x => some (encTM 0xd8 x)
  | .ptsync x => some (encTM 0xd9 x)
  | .nodeArithFire op x => some (encNW op x)
  | .steer x => some (encNW 0x80 x)
  | .merge x => some (encNW 0x81 x)
  | .gate x => some (encNW 0x82 x)
  | .fcomp x => some (encNW 0x83 x)
  | .repeat x => some (encNW 0x84 x)
  | .delay x => some (encNW 0x85 x)
  | .accum x => some (encNW 0x86 x)
  | .gen x => some (encNW 0x87 x)
  | .genTrig x => some (encNW 0x87 x)
  | .sink x => some (encNW 0x88 x)
  | .src x => some (encNW 0x89 x)
  | .tagset x => some (encNW 0x92 x)
  | .tagget x => some (encNW 0x93 x)
  | .route x => some (encNW 0x8e x)
  | .bound x => some (encNW 0x98 x)
  | .agen x => some (encNW 0x8a x)
  | .mload x => some (encNW 0x8b x)
  | .mstore x => some (encNW 0x8c x)
  | .rmw x => some (encNW 0x8d x)
  | .merge2 x => some (encNW 0x8f x)
  | .lut6 x => some (encNW 0x90 x)
  | .fsm x => some (encNW 0x91 x)
  | .falloc x => some (encNW 0x94 x)
  | .ffree x => some (encNW 0x95 x)
  | .chan x => some (encNW 0x96 x)
  | .weir x => some (encNW 0x97 x)
  | .expert x => some (encNW 0x99 x)
  | .topk x => some (encNW 0x9a x)
  | .spill x => some (encNW 0x9b x)
  | .alpha x => some (encNW 0xb3 x)
  | .joinb x => some (encNW 0xb4 x)
  | .negj x => some (encNW 0xb5 x)
  | .memb x => some (encNW 0xb6 x)
  | .term x => some (encNW 0xb7 x)
  | .score x => some (encNW 0xb8 x)
  | .tileNodeFire op x => some (encNW op x)
  | .illegalInstructionWord _ => none
  | .expertDrain _ _ => none
  | .scoreReply _ _ _ => none
  | .tmma _ => none
  | .tmms _ => none
  | .tdecompDense _ => none
  | .tdecompPacked _ => none
  | .tresid _ => none
  | .tzero _ => none
  | .tcvt _ => none
  | .tscale _ => none
  | .tred _ => none
  | .ttrans _ => none
  | .ttopk _ => none
  | .ringdefTiles _ => none
  | .ringdefRing _ => none
  | .ringdefTasks _ => none
  | .tact _ => none
  | .tokenArrival _ _ => none
  | .tokenAccept _ _ _ => none
  | .creditReturn _ _ => none
  | .loadComplete _ _ => none
  | .storeRetire _ _ => none
  | .pageWalk _ => none
  | .requesterResume _ _ => none
  | .activeMessage _ => none
  | .chunkWritten _ _ => none
  | .engineReply _ => none
  | .tileTaskCheck _ => none
  | .tileTaskIssue _ _ => none
  | .tileTaskRetire _ => none
  | .dotEngineFaultStop _ => none
  | .taskCommit => none
  | .taskIrrevocable => none
  | .firingStart _ => none
  | .deltaApply _ => none
  | .deltaInject _ => none
  | .bankPass _ => none
  | .bankTokenArrival _ => none
  | .deltaDrainComplete _ => none
  | .freshetNodeReconfig _ _ => none
  | .snapNodeSave _ _ => none
  | .linkTokenRecord _ _ => none
  | .snapForcedSave _ => none
  | .drainComplete _ => none
  | .stallNoeos _ => none
  | .quantumExpiry _ => none
  | .requestAging _ _ => none
  | .regionGrant _ => none
  | .preempt _ => none
  | .schedulerRestore _ => none
  | .trapResume _ => none
  | .trapSkip _ => none
  | .trapHandler _ => none
  | .trapEnd _ => none
  | .threadWake _ => none
  | .parkTimeout _ => none
  | .dopenTimeout _ => none
  | .stallResume _ => none
  | .barrierArrival _ => none
  | .doorbell _ _ => none
  | .queueConfigWrite _ _ _ => none
  | .queueStatusClear _ => none
  | .errcntClear _ _ => none
  | .registerWrite _ _ _ _ => none
  | .nop _ => none
  | .thread _ => none
  | .delta _ => none
  | .indirect _ => none
  | .waitsig _ => none
  | .write _ => none
  | .commandComplete _ => none
  | .hostApertureRead _ _ _ => none
  | .hostApertureWrite _ _ _ => none
  | .hostReadTimeout _ _ => none
  | .peerRequest _ => none
  | .flitReceive _ _ => none
  | .portDown _ => none
  | .reduceContribution _ _ _ => none
  | .nvmeDoorbell _ _ _ => none
  | .nvmeCompletion _ _ _ => none
  | .patrolScrub _ _ => none
  | .reset => none
  | .powerOnBoot => none
  | .kernelImageLoad _ => none
  | .pldmFirmwareUpdate _ => none
  | .sensorSample _ => none
  | .vcoreRemoved => none
  | .vauxRemoved => none
  | .eventLogRead _ => none
  | .attestationReport _ => none
  | .measurementExtend _ _ => none
  | .keySlotWrite _ _ _ => none
  | .keySlotRead _ _ => none
  | .keySlotClear _ => none
  | .debugNonceRequest _ => none
  | .debugUnlock _ => none
  | .debugExpiry => none
  | .illegalCommandEntry _ => none
  | .flitReplay _ => none
  | .hostAtomicop _ _ => none
  | .debugPortAccess _ => none

end Sys2Proof
end

