-- ==== Sys2Proof/Machine/State.lean ====
section
/-! DEFINITION. The state of Collux Ryino: every piece of state the spec names, grouped by the part of the machine that owns it. -/
namespace Sys2Proof.Machine

/-! ### Tokens -/

/-- The flags of a token, in the order of R36. -/
structure Flg where
  scl : Bool
  eos : Bool
  eor : Bool
  mrk : Bool
  frs : Bool
  deriving DecidableEq, Repr

/-- A token: value, tag, flags (R36, R80). `seq` is the insertion sequence a MEMB token carries (R274). -/
structure Tok where
  v : W
  tag : Nat
  flg : Flg
  seq : Nat
  deriving DecidableEq, Repr

/-! ### Threads -/

/-- The state of a thread (R41). -/
inductive TState where
  | runnable
  | stalled
  | parked
  | trapped
  | halted
  deriving DecidableEq, Repr

/-- What a q register is bound to (R73, R338): direction, IID, CHAN node index; the capacity of the channel while its invocation does not exist
yet (R84). -/
structure QBind where
  out : Bool
  iid : Nat
  node : Nat
  cap : Nat
  deriving DecidableEq, Repr

/-- The named system values that a thread holds (R75 to R79). tid, cid, gvt and gtsc are read from elsewhere. -/
structure Sys where
  ts : W
  fflags : W
  xpc : W
  xcause : W
  xval : W
  pw : W
  ctx : W
  owner : W
  prio : W
  quant : W
  intmask : W
  intpend : W
  deriving DecidableEq, Repr

/-- The kinds of access that count on L or S (R314), and the release fence that later stores wait for (R167). -/
inductive PKind where
  | load
  | store
  | atom
  | cas
  | stb
  | stm
  | stred
  | binit
  | barr
  | signal
  /-- A block conversion whose source is still to be read; one that has read it and waits to leave L in its order; one that counts on S
  only, for the write of its destination (R133, R314). -/
  | conv
  | convr
  | convw
  | fence
  /-- A directory or rule command that acquires when it completes (R257, R260, R281). -/
  | acqCmd
  deriving DecidableEq, Repr

/-- One outstanding access of a thread, in program order. -/
structure Pend where
  /-- Its place in the order of issue. -/
  no : Nat
  kind : PKind
  /-- FN of the word. -/
  fn : Nat
  /-- The specifier in D, written at completion. -/
  d : Nat
  /-- Its virtual address. -/
  va : Nat
  /-- Bytes of one access. -/
  n : Nat
  /-- Physical addresses: of the access, of the destinations of STM and STRED still to write, or of each source byte of a
  conversion. -/
  pas : List Nat
  /-- The barrier object of STB, or each destination byte of a conversion. -/
  pas2 : List Nat
  /-- The bytes that a conversion has still to write. -/
  buf : List Byte
  data : W
  data2 : W
  scope : Nat
  acq : Bool
  rel : Bool
  /-- MD of a conversion. -/
  md : Nat
  /-- CIMM of a conversion. -/
  cimm : Nat
  /-- The access has been performed and waits to retire in order. -/
  done : Bool
  /-- What it returned. -/
  val : W
  /-- The flags it raised. -/
  flags : Nat
  /-- It met poison (R163). -/
  poison : Bool
  /-- The addresses it reaches whose page is mapped uncached (R153). -/
  unc : List Nat
  deriving DecidableEq, Repr

/-- An active message (R32), with what the sending core passes beside it. -/
structure Msg where
  /-- The major opcode. -/
  op : Nat
  fn : Nat
  cls : Nat
  imm : Nat
  scope : Nat
  acq : Bool
  rel : Bool
  /-- The sender's source number, owner, context and privilege. -/
  tid : Nat
  owner : Nat
  ctxid : Nat
  prv : Bool
  modul : Nat
  /-- The address of the word that sent it (R325 LOC). -/
  pc : W
  /-- The sender's accesses with a lower `no` come before it (R190, R197). -/
  no : Nat
  opnd : List W
  reply : W
  /-- The h operand: V and INDEX, and its register. -/
  hv : Bool
  hidx : Nat
  hreg : Nat
  /-- The values of A and B, and the register that takes the result. -/
  a : W
  b : W
  d : Nat
  deriving DecidableEq, Repr

/-- What a STALLED or PARKED thread waits for (R41, R73, R100). -/
inductive Why where
  /-- Nothing: the thread is not waiting. -/
  | none
  /-- A head token on an inbound q register. -/
  | head (q : Nat)
  /-- A free slot on an outbound q register. -/
  | space (q : Nat)
  /-- Counter 0 L, 1 S, 2 C or 3 K is at 63 (R314). -/
  | counter (which : Nat)
  /-- The limits of WAIT (R315). -/
  | limits (l s c k : Nat)
  /-- A load into a register that the instruction writes (R72). -/
  | loaded (spec : Nat)
  /-- The task is the oldest uncommitted task, and the networks of its deltas are settled (R175). -/
  | irrevocable
  /-- TEND, HALT or TABORT: the task may commit, or has been withdrawn (R177); D of TEND, none for HALT. -/
  | commit (d : Option Nat)
  /-- gvt is above a timestamp (R181). -/
  | gvt (a : W)
  /-- Fewer than 4,096 uncommitted tasks on the die (R177). -/
  | taskRoom
  /-- No XCKPT runs (R180). -/
  | ckpt
  /-- No task below a timestamp is uncommitted; then D takes the old BTS (R180). -/
  | barrierTs (d : Nat) (a old : W)
  /-- A versioned way of a set in the shard's slice (R175). -/
  | way (line : Nat)
  /-- Chunk bits of a tile (R321): entry, CLS, mask. -/
  | chunks (tile cls : Nat) (mask : W)
  /-- A tile state (R261). -/
  | tileState (tile st : Nat)
  /-- The flags of outstanding accesses, which fflags takes first (R76). -/
  | flags
  /-- Earlier loads, earlier stores, performed (R167, R194, R198, R342). -/
  | fence (loads stores : Bool)
  /-- Room in an engine's inbox for a message: the counter has been raised (R214). -/
  | inbox (eng : Nat) (m : Msg)
  /-- Room in an engine's inbox for the messages of CTXREST's resume records (R214, R344). -/
  | room (eng n : Nat)
  /-- Room in the tile-task ring for a record: K has been raised (R215). -/
  | ring (m : Msg)
  /-- Room in a TLB slice's miss queue (R155). -/
  | tlb (slice : Nat)
  /-- WAITA: the watched word at a PA, the expected value, the timeout, the start, D, SCOPE and ACQ; woken (R100). -/
  | watch (pa : Nat) (expect timeout start : W) (d : Nat) (woken : Bool)
  /-- BWAIT: the object at a PA, the awaited GEN, the timeout, the start, D; woken (R320). -/
  | barrier (pa : Nat) (gen : Nat) (timeout start : W) (d : Nat) (woken : Bool)
  /-- IDLE (R341). -/
  | idle
  /-- DOPEN.wait: the order number of its message (R257). -/
  | name (no : Nat)
  deriving DecidableEq, Repr

/-- A hardware thread of a control core (R70 to R79, R314). -/
structure Thread where
  /-- g1 to g63; an unlisted register holds 0 (R70). -/
  g : Tab W
  /-- p1 to p7; an unlisted predicate is false (R71). -/
  p : Tab Bool
  /-- Bound q registers (R73). -/
  q : Tab QBind
  /-- h registers; an unlisted one holds 0 (R74). -/
  h : Tab (BitVec 16)
  /-- h registers that await a DOPEN (R74). -/
  hpend : List Nat
  pc : W
  sys : Sys
  /-- HND (R328). -/
  hnd : Bool
  st : TState
  why : Why
  /-- Outstanding accesses in program order; L and S are read from it (R314). -/
  pend : List Pend
  /-- C and K (R314). -/
  c : Nat
  k : Nat
  /-- Imprecise traps due at the next boundary: code and value (R163, R256). -/
  imp : List (Nat × W)
  /-- Bytes that a chunk overwrote while WAITM waited for it, as they stood: a plain load that no acquire orders after the wait may still return
  them (R191, R321, R378; log 28). -/
  stale : Tab Byte
  /-- The module whose graphs and data the thread names (R21, R238). -/
  modul : Nat
  /-- The order number at its start: a reply to a command sent before it counts for no counter of this thread. -/
  born : Nat
  deriving DecidableEq, Repr

/-! ### Tasks -/

/-- A delta that a task buffers or the Basin applies (R283): 0 assert, 1 retract, 2 modify. -/
structure Delta where
  net : Nat
  kind : Nat
  image : List Byte
  wid : Nat
  deriving DecidableEq, Repr

/-- An uncommitted task (R174 to R179). -/
structure Task where
  /-- Tells apart tasks of one timestamp, in spawn order: the model's own field. -/
  id : Nat
  ts : Nat
  /-- The thread that runs it; none while it is saved out (R343). -/
  tid : Option Nat
  entry : W
  arg1 : W
  arg2 : W
  aborts : Nat
  irrev : Bool
  /-- Lines read (R174). -/
  reads : List Nat
  /-- Versioned lines: line number to bytes by offset; the listed offsets are the byte mask (R150). -/
  vlines : Tab (Tab Byte)
  deltas : List Delta
  /-- The Basin entry of a firing: die × 65,536 + index (R282). -/
  firing : Option Nat
  /-- The network whose firing it is, which a withdrawal does not change (R283). -/
  net : Option Nat
  withdrawn : Bool
  /-- The shard of its thread. -/
  shard : Nat
  /-- The thread that a CTXSAVE saved it out of (R343). -/
  home : Nat
  deriving DecidableEq, Repr

/-! ### Memory and translation -/

/-- A TLB entry (R154, R155): context, VA of the page, page size as a power of two, frame, permissions, MT, D. -/
structure TlbEnt where
  ctxid : Nat
  page : Nat
  size : Nat
  frame : Nat
  r : Bool
  w : Bool
  x : Bool
  u : Bool
  mt : Nat
  dirty : Bool
  deriving DecidableEq, Repr

/-- A miss that waits for a walk (R155): context, VA, whether it writes, fetches, and is privileged. -/
structure Miss where
  ctxid : Nat
  va : Nat
  write : Bool
  fetch : Bool
  prv : Bool
  deriving DecidableEq, Repr

/-- A context descriptor as the hard cores hold it (R327). -/
structure CtxDesc where
  root : Nat
  htab : Nat
  hvec : W
  fring : W
  owner : Nat
  flags : Nat
  fwr : Nat
  ovf : Nat
  rarea : W
  qwin : Nat
  deriving DecidableEq, Repr

/-- A scratchpad bank's state (R144). -/
inductive BankSt where
  | held
  | passing
  | awaiting
  deriving DecidableEq, Repr

/-- A scratchpad bank: HOLDER, state, the receiver its token names, accesses queued at its ports (R144). The receiver of a bank whose token
nobody has passed since its region or interleave was set is `noReceiver`. -/
structure Bank where
  holder : Nat
  st : BankSt
  receiver : Nat
  port : Nat
  deriving DecidableEq, Repr

/-- Memory, caches and translation (R136 to R163). -/
structure Mem where
  /-- Bytes by 52-bit physical address; an unlisted byte reads 0. -/
  bytes : List Host.Cell
  /-- Poisoned 64-byte lines by number (R162). -/
  poison : Tab Bool
  /-- Working channels of each stack group, as a mask; an unlisted group has all six (R151). -/
  channels : Tab Nat
  /-- Lines held in each set of each slice, most recent first; a poisoned eviction keeps its mark (R149). -/
  slices : Tab (List Nat)
  /-- Corrected errors of each M-cell, slice or channel (R161). -/
  corrected : Tab Nat
  /-- TLB slices, most recently used first (R155). -/
  tlb : Tab (List TlbEnt)
  /-- Walks and waiting misses of each slice, in arrival order (R155). -/
  misses : Tab (List Miss)
  /-- Context descriptors by CTXID (R327). -/
  ctx : Tab CtxDesc
  /-- Base of the context-descriptor table named at boot (R327). -/
  ctxBase : Nat
  /-- PART of each core whose PART is not the reset value (R139). -/
  part : Tab Nat
  /-- Banks: core × 16 + bank (R144). -/
  banks : Tab Bank
  /-- The cids of packages that cannot be reached (R353). -/
  unreach : List Nat
  deriving DecidableEq, Repr

/-! ### Tables: tiles, handles, names -/

/-- The state of a tile-table entry (R248). -/
inductive TileSt where
  | empty
  | filling
  | ready
  | draining
  deriving DecidableEq, Repr

/-- A tile-table entry (R247). -/
structure TileEnt where
  bitmap : W
  owner : Nat
  handle : Nat
  size : Nat
  offset : Nat
  flags : Nat
  poison : Bool
  st : TileSt
  deriving DecidableEq, Repr

/-- An operand-ring descriptor (R301): V, FIRST, COUNT, HEAD, TAIL. -/
structure ORing where
  v : Bool
  first : Nat
  count : Nat
  head : Nat
  tail : Nat
  deriving DecidableEq, Repr

/-- An object descriptor, resolved (R250). -/
structure Desc where
  base : W
  extent : Nat
  wr : Bool
  fmt : Nat
  rank : Nat
  dim : List Nat
  stride : List Int
  /-- The SCALE field, bytes 55:48. -/
  scale : W
  sparse : Nat
  drop : Nat
  gen : Nat
  deriving DecidableEq, Repr

/-- An open handle-table entry (R252): the descriptor and the object it keeps open. -/
structure Handle where
  desc : Desc
  obj : Nat
  deriving DecidableEq, Repr

/-- An object record of the directory (R253). -/
structure Obj where
  desc : Desc
  owner : Nat
  /-- The context of the binder, in which the reclaim slot is written. -/
  ctxid : Nat
  prv : Bool
  opens : Nat
  bound : Bool
  reclaim : W
  deriving DecidableEq, Repr

/-- A name entry of the directory (R253). -/
structure NameEnt where
  name : List Byte
  owner : Nat
  obj : Nat
  deriving DecidableEq, Repr

/-! ### Active messages and engines -/

/-- An open that waits for its name (R254, R257). -/
structure WaitOpen where
  msg : Msg
  name : List Byte
  timeout : W
  start : W
  deriving DecidableEq, Repr

/-- A command an engine has started (R185, R186). -/
structure Cmd where
  id : Nat
  eng : Nat
  msg : Msg
  /-- The tile it writes and the tile it reads: core × 256 + index. -/
  dst : Option Nat
  src : Option Nat
  /-- KEEP of XCOPY (R185); an XCKPT that has set BTS (R360). -/
  keep : Bool
  /-- Chunks, rows or elements in all, and the chunks completed as a mask. -/
  total : Nat
  chunks : Nat
  /-- The send buffer of XCOLL. -/
  data : List Byte
  /-- STATUS and CODE once it has stopped early (R183). -/
  stop : Option (Nat × Nat)
  /-- XCANCELs that wait for its reply (R186): thread and order number. -/
  cancels : List (Nat × Nat)
  /-- The row indices of XGATH and XSCAT, the member list of XCOLL, the extents of XCKPT: PA, length, LBA. -/
  list : List Nat
  /-- The tensor of the handle as it stood at the start. -/
  desc : Option Desc
  /-- Contributions by the smallest rank that each covers, with the ranks it covers (R356). -/
  parts : Tab (List Nat × List Byte)
  /-- BTS as XCKPT found it (R360). -/
  saved : W
  /-- Chunks that may still be in flight on the lanes of its BTE when a CTXSAVE stops it (R343). -/
  flight : Nat
  deriving DecidableEq, Repr

/-- A slot of a tile-task ring (R215, R296): the record, whether it has entered the window and been checked, whether it has left; whether it stays
there unissued because its thread is saved out (R343). -/
structure RSlot where
  msg : Msg
  checked : Bool
  left : Bool
  held : Bool
  deriving DecidableEq, Repr

/-- The tile-task ring of a shard (R296): base VA, context, log2 of records, 0 while undefined, head and tail counts, slots from
the head. -/
structure TaskRing where
  base : W
  ctxid : Nat
  log : Nat
  head : Nat
  tail : Nat
  slots : List RSlot
  /-- RINGDEF.tasks records that wait for the ring to empty (R312). -/
  next : List Msg
  deriving DecidableEq, Repr

/-- A record that a dot engine runs (R297 to R300), or a tile node's (R313). -/
structure DotRun where
  id : Nat
  msg : Msg
  /-- The invocation, node and tag of a tile node; none for a tile task. -/
  node : Option (Nat × Nat × Nat)
  /-- The descriptors of its tiles as they stood at issue, by tile-table key. -/
  descs : Tab Desc
  /-- Output chunks still to write: chunk number, and bytes by offset in the tile. -/
  out : List (Nat × List (Nat × Byte))
  computed : Bool
  chunks : Nat
  flags : Nat
  /-- DONE of the reply where it is not the chunk count (R308, R312). -/
  doneWord : Option Nat
  /-- STATUS, CODE and the record's VALUE once it has stopped (R300, R310). -/
  stop : Option (Nat × Nat × W)
  /-- XCANCELs that wait for its reply (R186): thread and order number. -/
  cancels : List (Nat × Nat)
  deriving DecidableEq, Repr

/-- The engines' state (R214, R215, R296, R356, R360). -/
structure Engines where
  /-- Inboxes by source number, first to start first. -/
  inbox : Tab (List Msg)
  /-- Commands that have started. -/
  cmds : List Cmd
  /-- Tile-task rings by shard. -/
  rings : Tab TaskRing
  /-- Dot engines: core × 4 + cell. -/
  dots : Tab DotRun
  /-- DENSE_FALLBACK of each shard (R322). -/
  fallback : Tab Nat
  /-- STB and collective arrivals whose data is performed: barrier PA; the thread and `no` of the STB (R171). -/
  arrivals : List (Nat × Option (Nat × Nat))
  /-- Writes of commands without REL that their completions have passed: command, chunk, the PAs of pages mapped uncached, bytes by PA (R197). -/
  late : List (Nat × Nat × List Nat × List (Nat × Byte))
  deriving DecidableEq, Repr

/-- The directory, the handle tables and the tile tables (R247 to R262). -/
structure Tables where
  /-- core × 256 + index. -/
  tiles : Tab TileEnt
  /-- core × 16 + descriptor. -/
  orings : Tab ORing
  /-- CTXID × 4,096 + index. -/
  handles : Tab Handle
  names : List NameEnt
  objs : Tab Obj
  nextObj : Nat
  gen : Nat
  waits : List WaitOpen
  /-- The thread that CTXSAVE last saved with a task of a timestamp, key 2 × ts, or with a binding to an IID, key 2 × IID + 1 (R344). A block
  does not say it: the model's own field. -/
  homes : Tab Nat
  deriving DecidableEq, Repr

/-! ### Fabric: invocations and networks -/

/-- Where a node sits (R33, R262): core as die × 384 + y × 24 + x; element 0 to 3 C-cells, 4 M-cell, 6 AG cell, 7 weir,
8 Basin port; slot as LOC numbers it (R325). `rx` and `ry` are relative to the origin. -/
structure Place where
  core : Nat
  elem : Nat
  slot : Nat
  rx : Nat
  ry : Nat
  deriving DecidableEq, Repr

/-- A configured node: its word, its extension words, its place (R60, R235). -/
structure Node where
  word : W
  ext : List W
  place : Place
  deriving DecidableEq, Repr

/-- One frame slot: the values, flags and presence bits of L, R and P for one tag (R35, R36). `lseq` and `rseq` are the
insertion sequences carried by the tokens present (R223, R274). -/
structure Slot where
  l : W
  r : W
  p : W
  lf : Flg
  rf : Flg
  pf : Flg
  hasL : Bool
  hasR : Bool
  hasP : Bool
  lseq : Nat
  rseq : Nat
  deriving DecidableEq, Repr

/-- A beta-memory entry of MEMB (R273). -/
structure Beta where
  m : W
  tts : List Nat
  seq : Nat
  count : Nat
  deriving DecidableEq, Repr

/-- The run of an AG cell (R159, R225): descriptor handle, next index, flags of the token that started it, its tag. -/
structure AgRun where
  next : Nat
  handle : Nat
  tok : Tok
  deriving DecidableEq, Repr

/-- Node state (R81, R82, R207, R210, R223, R317), for whichever of it the node's opcode keeps. -/
structure NodeSt where
  /-- ACC, CUR or AUX (R81). -/
  acc : W
  /-- CNT, REM, or the copies still to send. -/
  cnt : Nat
  /-- STATE of FSM. -/
  st : Nat
  /-- A run is in progress: REPEAT, GEN_TRIG. -/
  busy : Bool
  /-- DELAY line, CHAN ring or TOPK group, oldest first. -/
  line : List Tok
  /-- Head index of DELAY (R82), HEAD of CHAN (R207): the entry that the next token leaves from. -/
  head : Nat
  /-- BASE of CHAN (R207). -/
  ring : Nat
  /-- DELAY or TOPK is flushing. -/
  flush : Bool
  /-- Emissions since launch, for the tag of GEN and SRC (R219). -/
  emits : Nat
  /-- SENT of SRC. -/
  sent : Bool
  /-- Busy lanes of FALLOC (R230). -/
  lanes : List Nat
  /-- EXPERT queues, spilled tokens and DRP by destination (R210). -/
  queues : Tab (List Tok)
  spill : Tab (List Tok)
  drops : Tab Nat
  /-- Round-robin position of EXPERT. -/
  rr : Nat
  /-- Tokens still to send for one input: target 1 or 2 and token (R271). -/
  outs : List (Nat × Tok)
  /-- MEMB entries in ascending insertion sequence. -/
  beta : List Beta
  /-- The 32-bit constant of ALPHA. -/
  const : Nat
  /-- SCORE: pending table index by tag (R275). -/
  score : Tab Nat
  /-- SPILL: entries written by destination (R233). -/
  wrote : Tab Nat
  /-- AG run, and the retained address or token of a stopped requester (R159). -/
  run : Option AgRun
  retained : Option Tok
  /-- Send times for the weir's rate, newest first (R232). -/
  sends : List Nat
  /-- The owner of the region that sent the token at a weir's L, by tag, where it is another region (R44). -/
  senders : Tab Nat
  deriving DecidableEq, Repr

/-- Protocol state of a node (R243, R244, R335) and its counters. -/
structure NodeCtl where
  /-- Listed in a drain delta: no free slots are returned to its producers. -/
  hold : Bool
  /-- Fields where FRS stands: 0 L, 1 R, 2 P. -/
  frs : List Nat
  /-- The node has taken its new words in this wave. -/
  waved : Bool
  /-- Fields where a marker stands. -/
  marks : List Nat
  /-- The node has saved, and fires no more. -/
  saved : Bool
  /-- A source that has stopped. -/
  stopped : Bool
  /-- The stall word (R317). -/
  stall : W
  /-- The element is blocked by an illegal word (R63). -/
  blocked : Bool
  /-- EOS has been consumed here as a sink (R222). -/
  ended : Bool
  /-- A channel that the thread writes: the FRS token of a wave waits for a slot (R208, R244). -/
  owed : Bool
  deriving DecidableEq, Repr

/-- A token-buffer entry (R80): the token, its producer, and the targets still pending. -/
structure TBuf where
  tok : Tok
  node : Nat
  pt1 : Bool
  pt2 : Bool
  deriving DecidableEq, Repr

/-- A token on its route (R39): producer and which of its targets, destination node and field. -/
structure Link where
  tok : Tok
  node : Nat
  which : Nat
  dst : Nat
  field : Nat
  deriving DecidableEq, Repr

/-- What an invocation is doing (R241, R332 to R335). -/
inductive Phase where
  /-- Running. -/
  | run
  /-- Draining for a command or the scheduler (R334). -/
  | drain
  /-- In a snapshot (R335). -/
  | snap
  /-- A drain delta waits for its listed nodes (R243). -/
  | delta
  /-- In a freshet wave (R244). -/
  | wave
  /-- Held out of the fabric (R332, R387). -/
  | out
  deriving DecidableEq, Repr

/-- Who asked for the save in progress. -/
inductive Saver where
  | none
  | command
  | scheduler
  deriving DecidableEq, Repr

/-- The region of an invocation (R42, R330 to R332). -/
structure Region where
  die : Nat
  x0 : Nat
  y0 : Nat
  w : Nat
  h : Nat
  level : Nat
  prio : Nat
  quant : Nat
  granted : Nat
  expired : Bool
  /-- The slot of RAREA (R327). -/
  slot : Nat
  /-- The quiescence window W. -/
  win : Nat
  /-- PART as it stood when the invocation was held out (R139). -/
  part : Nat
  /-- When its present quantum began (R331). -/
  began : Nat
  /-- The VA of its slot of RAREA, as it stood at the grant (R330). -/
  dump : W
  /-- PART as it stood when its frames and queues were laid out (R146). -/
  laid : Nat
  deriving DecidableEq, Repr

/-- An invocation (R31, R238). -/
structure Inv where
  k : Nat
  owner : Nat
  ctxid : Nat
  /-- The launching thread. -/
  tid : Nat
  scope : Nat
  modul : Nat
  image : List Byte
  /-- An invocation of a rules section (R264). -/
  network : Bool
  /-- It uses an entry of the placement cache (R69, R262). -/
  cached : Bool
  region : Region
  phase : Phase
  nodes : Tab Node
  /-- node × 65,536 + tag. -/
  frames : Tab Slot
  /-- Sent and not yet returned slots: a producer's counter is the capacity, at most 255, less these (R37, R208).
  Key: ((producer × 2 + which) × 65,536 + tag), with tag 0 for all but an all-to-all channel. -/
  used : Tab Nat
  /-- Freed slots on the credit wire: keys of `used`. -/
  credits : List Nat
  tbuf : List TBuf
  links : List Link
  nst : Tab NodeSt
  ctl : Tab NodeCtl
  /-- Spoil-queue read and write indices and overflow count (R213). -/
  spoil : Nat × Nat × Nat
  /-- The detector (R318): cycle and GTSC of the last activity, raised since. -/
  active : Nat
  fired : Nat
  raised : Bool
  /-- Unresolved PAGE records (R159). -/
  pages : Nat
  /-- The command in progress (R246). -/
  cmd : Option Msg
  /-- The save in progress: who asked, and the tokens recorded on links. -/
  saver : Saver
  links2 : List Link
  /-- New words of the delta or freshet in progress, by node (R242). -/
  words : Tab (List W)
  deriving DecidableEq, Repr

/-- A rule of a network's copy of its rule table (R266). -/
structure Rule where
  rule : Nat
  sal : Int
  act : Nat
  deriving DecidableEq, Repr

/-- A scorer slot (R265, R267): the name's VA and bytes, the held handle and GEN. -/
structure Scorer where
  va : W
  name : List Byte
  handle : Nat
  gen : Nat
  deriving DecidableEq, Repr

/-- A network's copies and Basin state (R265 to R267, R283). -/
structure Net where
  mere : W
  mcap : Nat
  stab : W
  scap : Nat
  fsh : Nat
  rules : List Rule
  root : Nat
  consts : List Nat
  scorers : Tab Scorer
  /-- The Mere's slots that are not free, as the Basin knows them: RETRACTED, the timetag, and the record as the Basin wrote it, which a
  program's store into the Mere does not change (R268, R269). -/
  wm : Tab (Bool × Nat × List Byte)
  n : Nat
  t : Nat
  free : Nat
  stale : Nat
  /-- The delta queue: tokens to inject at ROOT (R206, R283). -/
  queue : List W
  /-- Node indices of TERMs stalled for Basin room, reported once per stall (R276). -/
  full : List Nat
  deriving DecidableEq, Repr

/-- The state of a Basin entry (R278); FREE entries are not listed. -/
inductive BasinSt where
  | ready
  | firing
  | fired
  deriving DecidableEq, Repr

/-- A Basin entry (R277). -/
structure Basin where
  rule : Nat
  sal : Int
  score : Nat
  st : BasinSt
  n : Nat
  net : Nat
  m : W
  tts : List Nat
  ts : Nat
  deriving DecidableEq, Repr

/-- A firing selected and not yet started (R282): entry, timestamp, record VA, and the CSSEL that selected it. -/
structure Firing where
  entry : Nat
  ts : Nat
  recva : W
  msg : Msg
  act : W
  data : W
  deriving DecidableEq, Repr

/-- A waiting grant request (R330, R331). -/
structure Request where
  die : Nat
  origin : Option (Nat × Nat)
  w : Nat
  h : Nat
  level : Nat
  prio : Nat
  quant : Nat
  since : Nat
  /-- A launch or restore message, or the held-out invocation to restore. -/
  msg : Option Msg
  iid : Nat
  deriving DecidableEq, Repr

/-- An entry of the placement cache (R262). -/
structure Placed where
  image : List Byte
  w : Nat
  h : Nat
  /-- Node records of R262, by node index. -/
  recs : List W
  users : Nat
  last : Nat
  deriving DecidableEq, Repr

/-- A module the loader has placed (R65 to R68): the VAs of its thread code and data, its graph and rules sections by index. -/
structure Modul where
  code : W
  data : W
  sections : List (Nat × List Byte)
  deriving DecidableEq, Repr

/-- What a save area has no place for and the hard cores keep of a save (R139, R247, R301; log 78): the context and VA of the area, the image id
and base tag of the invocation, its PART, and the tile-table entries and operand rings of its cores, by their place in the region. -/
structure Saved where
  ctxid : Nat
  va : W
  image : List Byte
  base : Nat
  part : Nat
  tiles : Tab TileEnt
  rings : Tab ORing
  deriving DecidableEq, Repr

/-- The fabric, the networks, the Basins and the region scheduler. -/
structure Fabric where
  /-- Live and held-out invocations by IID. -/
  invs : Tab Inv
  nets : Tab Net
  /-- die × 65,536 + index. -/
  basin : Tab Basin
  firings : List Firing
  reqs : List Request
  /-- The next tag each die's allocator grants (R38). -/
  tags : Tab Nat
  placed : List Placed
  /-- The PA of the placement cache's region of device memory, once it is reserved (R262). -/
  cacheAt : Option Nat
  modules : Tab Modul
  /-- What the hard cores keep of each save, newest first. -/
  saves : List Saved
  /-- Performance counters: core × 8 + counter (R323). -/
  perf : Tab Nat
  /-- Insertion sequence of each core's MEMB nodes (R273). -/
  seq : Tab Nat
  deriving DecidableEq, Repr

/-! ### Outside: host, links, storage -/

/-- A function page (R346). -/
structure FnPage where
  actx : Nat
  abase : W
  errcnt : Nat
  deriving DecidableEq, Repr

/-- An open indirect buffer (R217): address, entries, next entry, the INDIRECT command that opened it. -/
structure IBuf where
  va : W
  count : Nat
  next : Nat
  cmd : Nat
  deriving DecidableEq, Repr

/-- A command queue (R216, R347), with the function it is assigned to (R345). -/
structure Queue where
  fnc : Nat
  wr : Nat
  base : W
  size : Nat
  ridxa : W
  status : Nat
  qctx : Nat
  rd : Nat
  /-- Open indirect buffers, innermost first. -/
  bufs : List IBuf
  deriving DecidableEq, Repr

/-- A command of a command queue, dispatched and not yet completed (R348, R349): its queue, its 64 bytes, whether what it waits for is
over; the thread of THREAD and the order number of that run; the INDIRECT whose last entry it is; its result word. -/
structure HCmd where
  id : Nat
  q : Nat
  bytes : List Byte
  finished : Bool
  tid : Option Nat
  run : Nat
  lastOf : Option Nat
  result : W
  deriving DecidableEq, Repr

/-- What a request from outside received: the completion of a host read, the answer of the Wellhead or of the debug port. -/
inductive Reply where
  | none
  /-- Data, and the EP bit (R351). -/
  | data (bytes : List Byte) (ep : Bool)
  /-- Unsupported Request (R345, R351). -/
  | unsupported
  /-- The Wellhead refuses the request (R369, R370). -/
  | refused
  deriving DecidableEq, Repr

/-- A flit that waits to leave (R354): DST, CLS, KIND and the 240 bytes of payload. -/
structure Flit where
  dst : Nat
  cls : Nat
  kind : Nat
  payload : List Byte
  deriving DecidableEq, Repr

/-- A scale-up port (R354): up, the next SEQ to send and the SEQ expected, flits kept for replay with the times each was
resent, credits by class, flits received in order. -/
structure Port where
  up : Bool
  send : Nat
  expect : Nat
  replay : List (List Byte × Nat)
  credit : Tab Nat
  inq : List (List Byte)
  /-- Flits that wait to leave, in the order of their offer. -/
  outq : List Flit
  /-- Credits of taken flits that no flit has returned yet, by class. -/
  owed : Tab Nat
  /-- The shares that classes have left in this round: the deficit round-robin of R355. -/
  share : Tab Nat
  /-- Flits sent since the last of management; the last flit was of the storage class (R355). -/
  since : Nat
  stored : Bool
  deriving DecidableEq, Repr

/-- An NVMe queue pair of a storage bridge (R359): the PAs and the sizes in entries of its two queues in device memory, the completion that is
posted next, and the thread and vector its completion queue names. Its doorbell register stands at its address in the peer window. -/
structure NvmeQ where
  sq : Nat
  sqSize : Nat
  cq : Nat
  cqSize : Nat
  tail : Nat
  tid : Option Nat
  vec : Nat
  deriving DecidableEq, Repr

/-- The kernel's entry for a context, from which THREAD and DELTA take their terms (R349). -/
structure CtxTerms where
  ctx : W
  owner : W
  prio : W
  quant : W
  pw : W
  deriving DecidableEq, Repr

/-- A chunk that an XCKPT has streamed to a bridge (R360): the bridge's cid, the namespace, the starting LBA of its extent, the byte offset
there, and the bytes. -/
structure Streamed where
  bridge : Nat
  ns : Nat
  lba : Nat
  off : Nat
  bytes : List Byte
  deriving DecidableEq, Repr

/-- The host side, the ports and the bridges. -/
structure Outside where
  pages : Tab FnPage
  queues : Tab Queue
  /-- The queue that a command was taken from last (R216). -/
  last : Nat
  cmds : List HCmd
  /-- MSI-X vectors raised: function × 64 + vector, newest first (R348). -/
  msix : List Nat
  reply : Reply
  /-- Ports that differ from a fresh one, by number (R354). -/
  ports : Tab Port
  /-- Port masks by destination cid (R355). -/
  route : Tab Nat
  /-- bridge cid × 64 + queue pair (R359). -/
  nvme : Tab NvmeQ
  /-- The kernel's entries by CTXID (R349). -/
  terms : Tab CtxTerms
  /-- What the storage bridges have been sent, newest first (R360). -/
  stream : List Streamed
  deriving DecidableEq, Repr

/-! ### Wellhead -/

/-- An event-log record (R325, R366). -/
structure LogRec where
  gtsc : Nat
  src : Nat
  code : Nat
  kind : Nat
  log : Nat
  loc : Nat
  value : Nat
  deriving DecidableEq, Repr

/-- How far the package has booted (R363, R364). -/
inductive Boot where
  /-- VAUX removed; or the hold of a trip has ended and the Wellhead is still to start from its ROM (R363, R365). -/
  | off
  /-- VCORE removed: the Wellhead, fed by VAUX, holds (R10, R365). -/
  | dark
  /-- ROM recovery (R364). -/
  | recovery
  /-- Firmware, dies, Bench strip and hard cores run; the hard core of die 0 waits for a resident kernel. -/
  | waiting
  /-- The resident kernel runs. -/
  | running
  deriving DecidableEq, Repr

/-- A tenant key slot (R369). -/
structure KeySlot where
  owner : Nat
  key : List Byte
  deriving DecidableEq, Repr

/-- The Wellhead (R361 to R370). -/
structure Wellhead where
  /-- Package flash; an unlisted byte reads 0xff (R361). -/
  flash : Tab Byte
  /-- Fuses (R367). -/
  device : List Byte
  fwRoot : List Byte
  dbgRoot : List Byte
  lifecycle : Nat
  fuses : Nat
  /-- The event log, oldest first (R366). -/
  log : List LogRec
  /-- The common clock in MHz, and the trip (R365). -/
  mhz : Nat
  tripped : Bool
  boot : Boot
  slot : Nat
  /-- mx0 to mx7; an unlisted register is 32 zero bytes (R368). -/
  mx : Tab (List Byte)
  keys : Tab KeySlot
  nonce : Option (List Byte)
  /-- The debug port: level and expiry (R370); halted control cores. -/
  debug : Option (Nat × Nat)
  halted : List Nat
  /-- A thread of a halted core that may issue one word. -/
  stepping : Option Nat
  /-- The next signature index and the end of the reserved block (R367). -/
  nextSig : Nat
  endSig : Nat
  /-- Working channels of each stack group, as boot reported them to the resident kernel (R151). -/
  groups : List Nat
  /-- Event-log records that newer ones have overwritten (R366). -/
  logged : Nat
  /-- Threads whose BRK has gone to the open debug port (R340). -/
  breaks : List Nat
  deriving DecidableEq, Repr

/-! ### The machine -/

/-- What has happened in the present cycle and bounds what else may happen in it. -/
inductive Issuer where
  /-- A control core has issued (R41). -/
  | control (shard : Nat)
  /-- A C-cell or M-cell, the dot block of a C-cell, an AG cell of a die has fired (R40). -/
  | cell (core elem : Nat)
  | dot (core elem : Nat)
  | ag (die slot : Nat)
  /-- A token has entered an empty queue of a node: of EXPERT's destination d, else d is 0 (R208). -/
  | queued (iid node d : Nat)
  /-- An entry of a C-cell's token buffer has been released (R39, R80). -/
  | freed (core elem : Nat)
  /-- A shard's scheduler has issued a record; a record has been written at the ring's tail (R296). -/
  | issued (shard : Nat)
  | wrote (shard : Nat)
  /-- A tile left a state that it had when the cycle began (R296). -/
  | tile (key : Nat) (st : TileSt)
  /-- A vector has been posted to a thread (R79). -/
  | posted (tid vec : Nat)
  /-- An XCANCEL has reached a command or run: its chunk of this cycle still completes (R186). -/
  | cancelled (id : Nat)
  /-- A token has entered the spoil queue of an invocation's region (R213). -/
  | spoiled (iid : Nat)
  /-- A node has saved in a snapshot (R382). -/
  | saving (iid node : Nat)
  deriving DecidableEq, Repr

/-- What comes from outside the package, beside the events of the opcode table. -/
inductive Input where
  /-- The host reads, writes a BAR0 offset of a function (R345 to R347). -/
  | barRead (fnc off : Nat)
  | barWrite (fnc off v : Nat)
  /-- The resident kernel sets its entry for a context (R349). -/
  | terms (ctxid : Nat) (t : CtxTerms)
  /-- The Wellhead writes an entry of the switch's routing table (R355). -/
  | route (cid mask : Nat)
  /-- An agent of the package offers a flit to the links (R354, R355). -/
  | offer (f : Flit)
  /-- A port sends its next flit. -/
  | send (port : Nat)
  /-- The oldest flit that a port has received is taken, and its credit is due. -/
  | take (port : Nat)
  /-- Reads of a line of the host window come back failed, or no longer do (R352). -/
  | hostLine (line : Nat) (fails : Bool)
  /-- A package can, or cannot, be reached (R353). -/
  | reach (cid : Nat) (reachable : Bool)
  /-- A bridge's queue pair is created with its queues, thread and vector (R359). -/
  | queuePair (bridge qp : Nat) (q : NvmeQ)
  /-- A collective ends early at another member: STATUS and CODE (R358). -/
  | member (cmd status code : Nat)
  /-- The training of a stack group's channels, as the next boot finds it (R151, R363). -/
  | training (group mask : Nat)
  /-- Boot reserves the region of device memory for the placement cache (R262). -/
  | cacheRegion (pa : Nat)
  /-- Power is lost while the fuses are blown, up to a count; while a firmware update writes its slot, after so many bytes, or its marker copy,
  which is left torn (R363, R364). -/
  | fuseLoss (image : List Byte) (count : Nat)
  | updateLoss (image : List Byte) (written : Nat) (torn : Option (List Byte))
  /-- A token that another region sends arrives at a weir's L, with the owner of that region (R42, R44). -/
  | stream (iid node : Nat) (tok : Tok) (owner : Nat)
  deriving DecidableEq, Repr

/-- One turn of the agenda: who acts next. -/
inductive Turn where
  /-- A thread issues its next word. -/
  | thread (tid : Nat)
  /-- A node fires for a tag. -/
  | fire (iid node tag : Nat)
  /-- An event of an engine, the fabric, the resident kernel, the host, a link or the Wellhead. -/
  | happen (e : Instr)
  /-- The resident kernel loads a `.cxo` file as a module, with its thread code and data at two VAs of the context of a HALTED thread, which
  starts at the entry (R15, R65). -/
  | load (tid modul : Nat) (code data : W) (file : List Byte)
  /-- The resident kernel tears a context down: its open handles close (R252). -/
  | teardown (ctxid : Nat)
  /-- Something else comes from outside. -/
  | input (e : Input)
  /-- Time passes: nanoseconds of the GTSC and core-clock cycles. -/
  | tick (ns cycles : Nat)
  deriving DecidableEq, Repr

/-- The machine: everything the spec gives it, and the agenda that says who acts next. -/
structure State where
  /-- The turns still to be taken, in order: the model's own field. When it is empty the next cycle is planned (log 1). -/
  agenda : List Turn
  /-- The thread whose word is being issued: the model's own field. -/
  cur : Nat
  /-- The node whose word is firing, IID, node and tag: the model's own field. -/
  site : Nat × Nat × Nat
  /-- Free values taken so far: the model's own field. -/
  fresh : Nat
  /-- The next identifier of a command or run: the model's own field. -/
  nextId : Nat
  /-- Threads by source number (R33); an unlisted thread is as after reset. -/
  threads : Tab Thread
  /-- The thread that issued last on each control core (R41). -/
  rr : Tab Nat
  /-- What has happened in this cycle (R40, R41, R79, R80, R208, R296). -/
  shot : List Issuer
  /-- IID and node of each slot that has been ready since an earlier cycle (R40). -/
  elder : List (Nat × Nat)
  /-- cid (R75). -/
  cid : Nat
  /-- The GTSC in nanoseconds (R7). -/
  gtsc : Nat
  /-- Core-clock cycles (R40). -/
  cycle : Nat
  /-- The package's barrier timestamp (R180). -/
  bts : W
  /-- Uncommitted tasks, oldest first (R34). -/
  tasks : List Task
  mem : Mem
  tab : Tables
  eng : Engines
  fab : Fabric
  out : Outside
  well : Wellhead
  deriving DecidableEq, Repr

/-- Why the machine stops with a fault. -/
inductive Fault where
  /-- Raised by PEER_REQUEST and DEBUG_PORT_ACCESS at a physical address the map reserves (R136): no memory is there, and the
  spec says only how translated accesses fail. Safe: the machine stops. -/
  | reservedAddress (pa : Nat)
  deriving DecidableEq, Repr

/-- Why a step gives no next state. -/
inductive Refusal where
  /-- The instruction has no meaning in this model yet: raised only by its arm of exec. Safe. -/
  | notModelled (mnemonic : String)
  /-- Raised by ACTIVE_MESSAGE when the message an engine takes is an XSEND's: R184 leaves its effect to the engine's own
  description, and no engine describes one. Safe: the machine stops. -/
  | engineDefined (src : Nat)
  deriving DecidableEq, Repr

/-- Clear flags. -/
def Flg.zero : Flg := ⟨false, false, false, false, false⟩

/-- The partition word of reset: RF 16, SP 40, ACC 8 (R77). -/
def pwReset : W := 0x00082810#64

/-- The system values of a thread before the resident kernel sets any (R75): quant 1,000,000, prio 1, pw as R77. -/
def Sys.reset : Sys := ⟨0, 0, 0, 0, 0, pwReset, 0, 0, 1, 1000000, 0, 0⟩

/-- A thread after reset: HALTED, nothing outstanding (R41, R70 to R79). -/
def Thread.reset : Thread := ⟨[], [], [], [], [], 0, Sys.reset, false, .halted, .none, [], 0, 0, [], [], 0, 0⟩

/-- A tile-table entry after reset (R247). -/
def TileEnt.reset : TileEnt := ⟨0, 0, 0, 0, 0, 0, false, .empty⟩

/-- No IID: these have 18 bits. -/
def noReceiver : Nat := 2 ^ 18

/-- An operand-ring descriptor after reset (R301). -/
def ORing.reset : ORing := ⟨false, 0, 0, 0, 0⟩

/-- A bank that no invocation has used. -/
def Bank.reset : Bank := ⟨0, .held, noReceiver, 0⟩

/-- An empty frame slot (R35). -/
def Slot.zero : Slot := ⟨0, 0, 0, .zero, .zero, .zero, false, false, false, 0, 0⟩

/-- Node state as launch leaves it, before the node's own initial values (R223). -/
def NodeSt.zero : NodeSt := ⟨0, 0, 0, false, [], 0, 0, false, 0, false, [], [], [], [], 0, [], [], 0, [], [], none, none, [], []⟩

/-- Protocol state of a node at launch. -/
def NodeCtl.zero : NodeCtl := ⟨false, [], false, [], false, false, 0, false, false, false⟩

/-- A port after reset: up, SEQ 0, 15 credits for each class, a management flit due first. -/
def Port.reset : Port := ⟨true, 0, 0, [], [], [], [], [], [], 63, false⟩

/-- A function page after reset (R346). -/
def FnPage.reset : FnPage := ⟨0, 0, 0⟩

/-- A queue page after reset (R347). -/
def Queue.reset : Queue := ⟨0, 0, 0, 0, 0, 0, 0, 0, []⟩

/-- An NVMe queue pair that nothing has configured. -/
def NvmeQ.reset : NvmeQ := ⟨0, 0, 0, 0, 0, none, 0⟩

/-- Memory after reset: nothing listed, every channel trained, caches and TLBs empty. -/
def Mem.reset : Mem := ⟨[], [], [], [], [], [], [], [], 0, [], [], []⟩

/-- Tables after reset: tile entries zero, handle tables and directory empty, generation 1 (R247, R253). -/
def Tables.reset : Tables := ⟨[], [], [], [], [], 0, 1, [], []⟩

/-- Engines after reset: inboxes empty, rings undefined (R296). -/
def Engines.reset : Engines := ⟨[], [], [], [], [], [], []⟩

/-- The fabric after reset: no invocation, Basins FREE, placement cache empty (R69, R278). -/
def Fabric.reset : Fabric := ⟨[], [], [], [], [], [], [], none, [], [], [], []⟩

/-- The host side after reset (R346, R347). -/
def Outside.reset : Outside := ⟨[], [], 63, [], [], .none, [], [], [], [], []⟩

/-- The Wellhead after the package has booted: mx registers and key slots zero, clock 3,000 MHz, debug port closed. -/
def Wellhead.reset : Wellhead :=
  ⟨[], List.replicate 32 0, List.replicate 32 0, List.replicate 32 0, 0, 0, [], 3000, false, .running, 0, [], [], none, none, [], none, 0, 0,
    List.replicate 32 6, 0, []⟩

/-- The machine right after reset. -/
def State.reset : State :=
  { agenda := [], cur := 0, site := (0, 0, 0), fresh := 0, nextId := 0, threads := [], rr := [], shot := [], elder := [], cid := 0, gtsc := 0, cycle := 0,
    bts := allOnes, tasks := [], mem := .reset, tab := .reset, eng := .reset, fab := .reset, out := .reset, well := .reset }

end Sys2Proof.Machine
end

