-- ==== Sys2Proof/Machine/Memory.lean ====
section
/-! DEFINITION. The physical map, the bytes of memory, poison, and the line bookkeeping of the slices (spec 08_memories). -/
namespace Sys2Proof.Machine

/-- 2^30. -/
def gib : Nat := 1073741824

/-- What a byte that nothing has written reads as (log 6). -/
def unlisted : Byte := 0

/-- The memory a physical address reaches (R136). -/
inductive PaKind where
  | lp6
  | pool
  | host
  | peer
  | reserved
  deriving DecidableEq, Repr

/-- Working channels of a stack group, six unless the group lists fewer (R151). -/
def Mem.trained (m : Mem) (g : Nat) : Nat := popc 6 (Tab.getD m.channels g 63)

/-- Base of the pools in the physical map (R136). -/
def poolBase : Nat := 0x010000000000

/-- Does an address lie in a core's pool (R136, R142)? -/
def inPool (pa : Nat) : Bool :=
  decide (poolBase ≤ pa) && decide (pa < poolBase + 8 * gib) && decide ((pa - poolBase) % (2 * gib) < 0x60000000)

/-- The kind of a physical address (R136, R142, R151). -/
def Mem.kind (m : Mem) (pa : Nat) : PaKind :=
  if pa < 768 * gib then
    if pa % (24 * gib) < m.trained (pa / (24 * gib)) * (4 * gib) then .lp6 else .reserved
  else if inPool pa then .pool
  else if 0x8000000000000 ≤ pa ∧ pa < 0xc000000000000 then .host
  else if 0xc000000000000 ≤ pa ∧ pa < 0x10000000000000 then .peer
  else .reserved

/-- A core's number: die × 384 + y × 24 + x. -/
def coreNo (die y x : Nat) : Nat := die * 384 + y * 24 + x

/-- The core and pool offset of a pool address (R142). -/
def poolAt (pa : Nat) : Nat × Nat :=
  let o := pa - poolBase
  (o / (2 * gib) * 384 + o % (2 * gib) / 0x400000, o % 0x400000)

/-- The physical address of a pool offset of a core (R142). -/
def poolPa (core p : Nat) : Nat := poolBase + core / 384 * (2 * gib) + core % 384 * 0x400000 + p

/-- PART of reset: SPI 0, RF 16, SP 40, ACC 8 (R139). -/
def partReset : Nat := 0x082810

/-- PART of a core (R139). -/
def Mem.partOf (m : Mem) (core : Nat) : Nat := Tab.getD m.part core partReset

/-- The three parts of a partition word, in granules, and SPI (R77, R139). -/
def partRF (p : Nat) : Nat := bits p 6 0
def partSP (p : Nat) : Nat := bits p 14 8
def partACC (p : Nat) : Nat := bits p 22 16
def partSPI (p : Nat) : Nat := bits p 25 23

/-- The bank and the byte within it that a pool offset reaches (R140). -/
def bankByte (part p : Nat) : Nat × Nat :=
  let rf := partRF part
  let i := 2 ^ partSPI part
  let g0 := 4 * ((rf + 3) / 4)
  let gend := g0 + 4 * i * ((rf + partSP part - g0) / (4 * i))
  if p < g0 * 65536 ∨ gend * 65536 ≤ p ∨ 64 < gend then (p / 262144, p % 262144)
  else
    let q := p - g0 * 65536
    let grp := q / (i * 262144)
    let l := q % (i * 262144) / 64
    (g0 / 4 + grp * i + l % i, l / i * 64 + p % 64)

/-- The key under which a byte is stored: a pool byte keeps its bank and byte under every partition (R146). -/
def Mem.key (m : Mem) (pa : Nat) : Nat :=
  if inPool pa then
    let c := poolAt pa
    let b := bankByte (m.partOf c.1) c.2
    poolPa c.1 (b.1 * 262144 + b.2)
  else pa

/-- Read one byte at a physical address. -/
def Mem.rd (m : Mem) (pa : Nat) : Byte := Tab.getD m.bytes (m.key pa) unlisted

/-- Write one byte at a physical address, keeping the canonical form. -/
def Mem.wr (m : Mem) (pa : Nat) (v : Byte) : Mem := { m with bytes := Tab.set m.bytes unlisted (m.key pa) v }

/-- Read n bytes from rising addresses. -/
def Mem.rds (m : Mem) (pa : Nat) : Nat → List Byte
  | 0 => []
  | n + 1 => m.rd pa :: m.rds (pa + 1) n

/-- Write bytes to rising addresses. -/
def Mem.wrs (m : Mem) (pa : Nat) : List Byte → Mem
  | [] => m
  | b :: bs => (m.wr pa b).wrs (pa + 1) bs

/-- Read a little-endian number of n bytes (R103). -/
def Mem.word (m : Mem) (pa n : Nat) : Nat := ofBytes (m.rds pa n)

/-- The memory in canonical form: rising addresses, no entry that an unlisted byte already reads as. -/
def Mem.wf (m : Mem) : Bool := Tab.rising m.bytes && Tab.lean m.bytes unlisted

/-- Does an address lie in the peer window of a package that cannot be reached (R353)? -/
def Mem.away (m : Mem) (pa : Nat) : Bool :=
  decide (0xc000000000000 ≤ pa) && decide (pa < 0x10000000000000) && decide (pa / 2 ^ 40 % 1024 ∈ m.unreach)

/-- Does a read of an address meet poison: its line is poisoned (R162), a read of the host window comes back failed (R352), or its package
cannot be reached (R353)? -/
def Mem.bad (m : Mem) (pa : Nat) : Bool := Tab.getD m.poison (m.key pa / 64) false || m.away pa

/-- Is any of n bytes poisoned? -/
def Mem.bads (m : Mem) (pa n : Nat) : Bool :=
  (upto 0 ((pa % 64 + n + 63) / 64)).any fun i => m.bad (pa / 64 * 64 + i * 64)

/-- Set or clear the poison of a line. -/
def Mem.setBad (m : Mem) (pa : Nat) (v : Bool) : Mem := { m with poison := Tab.set m.poison false (m.key pa / 64) v }

/-- The lines that a store of n bytes at an address covers whole: their poison clears (R162). -/
def wholeLines (pa n : Nat) : List Nat :=
  ((upto 0 (n / 64)).map fun i => (pa + 63) / 64 * 64 + i * 64).filter fun a => decide (a + 64 ≤ pa + n)

/-- Store bytes: the lines covered whole lose their poison (R162); a store to a package that cannot be reached is dropped (R353). -/
def Mem.store (m : Mem) (pa : Nat) (bs : List Byte) : Mem :=
  if m.away pa then m else (wholeLines pa bs.length).foldl (fun m a => m.setBad a false) (m.wrs pa bs)

/-- The home slice of an LP6 line: die × 32 + shard (R149). -/
def homeSlice (pa : Nat) : Nat :=
  let g := pa / (24 * gib)
  g / 8 * 32 + 4 * (g % 8) + fld (hash64 (w64 (pa / 64)) 0) 1 0

/-- The set of a line in a slice (R149). -/
def sliceSet (slice line : Nat) : Nat := slice * 16384 + line % 16384

/-- Bring a line into its home slice as the most recently used of the ways that its set has for home lines (R149, R150, R166). -/
def Mem.touch (m : Mem) (pa ways : Nat) : Mem :=
  let k := sliceSet (homeSlice pa) (pa / 64)
  let old := Tab.getD m.slices k []
  { m with slices := Tab.put m.slices k ((pa / 64 :: old.filter (fun l => decide (l ≠ pa / 64))).take ways) }

/-- Versioned lines have taken ways of a line's set in a slice: the least recently used home lines leave (R150). -/
def Mem.squeeze (m : Mem) (slice line ways : Nat) : Mem :=
  { m with slices := Tab.set m.slices [] (sliceSet slice line) ((Tab.getD m.slices (sliceSet slice line) []).take ways) }

/-- The channel that holds an LP6 address, group × 6 + channel, and the address within that channel (R151). -/
def lp6At (m : Mem) (pa : Nat) : Nat × Nat :=
  let g := pa / (24 * gib)
  let u := pa % (24 * gib)
  let work := (upto 0 6).filter fun c => bit (Tab.getD m.channels g 63) c
  (g * 6 + work.getD (u / 4096 % work.length) 0, u / (work.length * 4096) * 4096 + u % 4096)

/-- Does a page frame touch a reserved address (R136, R142, R151)? -/
def Mem.frameReserved (m : Mem) (f size : Nat) : Bool :=
  if f + size ≤ 768 * gib then
    [f / (24 * gib), (f + size - 1) / (24 * gib)].any fun g =>
      decide (m.trained g < 6) && decide (g * (24 * gib) + m.trained g * (4 * gib) < f + size) && decide (f < (g + 1) * (24 * gib))
  else if poolBase ≤ f ∧ f + size ≤ poolBase + 8 * gib then
    decide (0x60000000 < (f - poolBase) % (2 * gib) + size)
  else if 0x8000000000000 ≤ f ∧ f + size ≤ 0x10000000000000 then false
  else true

end Sys2Proof.Machine
end

