-- ==== Sys2Proof/Machine/Layout.lean ====
section
/-! DEFINITION. Configured nodes, and the bytes of their frames and queues in a core's pool (spec 02_machine R35, R36, 08_memories R138,
11_queues R207, 04_registers R82). -/
namespace Sys2Proof.Machine

/-- The little-endian number of n bytes at an offset. -/
def leAt (bs : List Byte) (at_ n : Nat) : Nat := ofBytes ((bs.drop at_).take n)

/-! ### Invocations -/

/-- An invocation by IID. -/
def State.inv (s : State) (iid : Nat) : Option Inv := Tab.look s.fab.invs iid

/-- Replace an invocation. -/
def State.putInv (s : State) (iid : Nat) (i : Inv) : State := { s with fab := { s.fab with invs := Tab.put s.fab.invs iid i } }

/-- Update an invocation when it lives. -/
def State.onInv (s : State) (iid : Nat) (f : Inv → Inv) : State :=
  match s.inv iid with
  | some i => s.putInv iid (f i)
  | none => s

/-- Node state and protocol state of a node. -/
def Inv.st (i : Inv) (n : Nat) : NodeSt := Tab.getD i.nst n .zero
def Inv.ct (i : Inv) (n : Nat) : NodeCtl := Tab.getD i.ctl n .zero

/-- Update the node state, the protocol state of a node. -/
def Inv.onSt (i : Inv) (n : Nat) (f : NodeSt → NodeSt) : Inv := { i with nst := Tab.put i.nst n (f (i.st n)) }
def Inv.onCt (i : Inv) (n : Nat) (f : NodeCtl → NodeCtl) : Inv := { i with ctl := Tab.put i.ctl n (f (i.ct n)) }

/-- The frame slot of a node for a tag, and its replacement. -/
def Inv.slot (i : Inv) (n tag : Nat) : Slot := Tab.getD i.frames (n * 65536 + tag) .zero
def Inv.putSlot (i : Inv) (n tag : Nat) (x : Slot) : Inv := { i with frames := Tab.set i.frames .zero (n * 65536 + tag) x }

/-- The base tag of an invocation (R236). -/
def baseTag (iid : Nat) : Nat := iid % 65536

/-- The opcode and the node-form fields of a configured node. -/
def Node.op (n : Node) : Nat := opOf n.word
def Node.w (n : Node) : NW := getNW n.word

/-- The extension word of a CHAN, WEIR, EXPERT or SPILL node. -/
def Node.ext1 (n : Node) : W := n.ext.headD 0

/-- Capacity of a channel in tokens (R206): 16 at depth 0, else 32 for each tile. -/
def chanCap (n : Node) : Nat := let d := fld n.ext1 8 0; if d = 0 then 16 else 32 * d

/-- The depth of a DELAY line (R82). -/
def delayDepth (n : Node) : Nat := n.w.lit.toNat % 32 + 1

/-- The configuration of an EXPERT node: destinations, capacity, mode (R210, R233). -/
def exDests (n : Node) : Nat := fld n.ext1 7 0 + 1
def exCap (n : Node) : Nat := fld n.ext1 22 10 + 1
def exMode (n : Node) : Nat := fld n.ext1 9 8

/-- The first tile of an EXPERT's queues, in 512-byte units of the scratchpad (R233). -/
def exBase (n : Node) : Nat := fld n.ext1 45 32

/-- Capacity of a beta memory (R273). -/
def membCap (lit : Nat) : Nat := 2 ^ (bits lit 6 3 + 6)

/-- Scratchpad bytes that a node takes (R82, R207, R210, R223, R273). -/
def scratchNeed (nd : Node) : Nat :=
  match nd.op with
  | 0x85 => 16 * delayDepth nd
  | 0x96 => 512 * fld nd.ext1 8 0
  | 0x99 => 16 * exDests nd * exCap nd
  | 0x9a => 128
  | 0xb6 => 48 * membCap nd.w.lit.toNat
  | _ => 0

/-- Sum of a measure over nodes. -/
def sumOver (t : Tab Node) (f : Node → Nat) : Nat := t.foldl (fun a e => a + f e.2) 0

/-! ### Tokens and slots as bytes (R36, R82, R207) -/

/-- The five flag bits of a token in the order of R36. -/
def Flg.bits (f : Flg) : Nat := b2n f.scl * 16 + b2n f.eos * 8 + b2n f.eor * 4 + b2n f.mrk * 2 + b2n f.frs
def flgOf (n : Nat) : Flg := ⟨bit n 4, bit n 3, bit n 2, bit n 1, bit n 0⟩

/-- The 16 bytes of a token entry (R82, R207), and the token in them. -/
def tokBytes (t : Tok) : List Byte := toBytes 8 t.v.toNat ++ toBytes 2 t.tag ++ toBytes 1 t.flg.bits ++ toBytes 5 0
def tokOfBytes (bs : List Byte) : Tok := ⟨w64 (leAt bs 0 8), leAt bs 8 2, flgOf (leAt bs 10 1 % 32), 0⟩

/-- The status word of a frame slot, and the 32 bytes of the slot (R35, R36). -/
def slotStatus (tag : Nat) (x : Slot) : Nat :=
  tag * 2 ^ 48 + x.lf.bits * 2 ^ 43 + x.rf.bits * 2 ^ 38 + x.pf.bits * 2 ^ 33 + b2n x.hasP * 2 ^ 32 + b2n x.hasR * 2 ^ 31 + b2n x.hasL * 2 ^ 30
def slotBytes (tag : Nat) (x : Slot) : List Byte :=
  toBytes 8 x.l.toNat ++ toBytes 8 x.r.toNat ++ toBytes 8 x.p.toNat ++ toBytes 8 (slotStatus tag x)
def slotOfBytes (bs : List Byte) : Slot :=
  let w := leAt bs 24 8
  let f := fun (hi : Nat) => flgOf (Machine.bits w (hi + 4) hi)
  let has := fun (b : Nat) => bit w b
  { l := if has 30 then w64 (leAt bs 0 8) else 0, r := if has 31 then w64 (leAt bs 8 8) else 0, p := if has 32 then w64 (leAt bs 16 8) else 0,
    lf := if has 30 then f 43 else .zero, rf := if has 31 then f 38 else .zero, pf := if has 32 then f 33 else .zero,
    hasL := has 30, hasR := has 31, hasP := has 32, lseq := 0, rseq := 0 }

/-! ### Where they lie (R35, R138; log 19) -/

/-- A node that has a frame on a core: every node but those of AG cells and Basin ports. -/
def Node.onCore (nd : Node) (core : Nat) : Bool :=
  decide (nd.place.core = core) && decide (nd.place.elem ≠ 6) && decide (nd.place.elem ≠ 8)

/-- The nodes of an invocation with a frame on a core, in node order. -/
def Inv.nodesOn (i : Inv) (core : Nat) : Tab Node := i.nodes.filter fun e => e.2.onCore core

/-- The entries of a table before a key. -/
def before (t : Tab Node) (n : Nat) : Tab Node := t.takeWhile fun e => decide (e.1 ≠ n)

/-- The nodes of a core that the placer gives scratchpad space: channels, whose rings are whole tiles, then the others; an EXPERT names its
own by QBASE. -/
def packed (here : Tab Node) : Tab Node :=
  here.filter (fun e => decide (e.2.op = 0x96)) ++ here.filter (fun e => decide (e.2.op ≠ 0x96 ∧ e.2.op ≠ 0x99))

/-- The scratchpad bytes that an EXPERT's queues begin at and end before (R233). -/
def exSpan (nd : Node) : Nat × Nat := (exBase nd * 512, exBase nd * 512 + scratchNeed nd)

/-- Where the placer's space begins: at the start of the scratchpad if it ends before the first EXPERT's queues, else after the last's, in
whole tiles. -/
def packFrom (here : Tab Node) : Nat :=
  let ex := (here.filter fun e => decide (e.2.op = 0x99)).map fun e => exSpan e.2
  if ex.all fun x => decide (sumOver (packed here) scratchNeed ≤ x.1) then 0 else (ex.foldl (fun a x => max a x.2) 0 + 511) / 512 * 512

/-- The end of what the nodes of a core take of its scratchpad. -/
def scratchEnd (here : Tab Node) : Nat :=
  (here.filter fun e => decide (e.2.op = 0x99)).foldl (fun a e => max a (exSpan e.2).2) (packFrom here + sumOver (packed here) scratchNeed)

/-- The offset of a node's space within the scratchpad of its core. -/
def Inv.scratchAt (i : Inv) (n core : Nat) : Nat :=
  packFrom (i.nodesOn core) + sumOver (before (packed (i.nodesOn core)) n) scratchNeed

/-- The pool offset of a node's frame slot for the j-th tag of the block. -/
def Inv.slotAt (i : Inv) (n core j : Nat) : Nat := ((before (i.nodesOn core) n).length * 2 ^ i.k + j) * 32

/-- Entries of a ring of a capacity that holds tokens from an entry on: pool offset and bytes. -/
def ringItems (at_ cap head : Nat) (line : List Tok) : List (Nat × List Byte) :=
  ((upto 0 line.length).zip line).map fun e => (at_ + (head + e.1) % cap * 16, tokBytes e.2)

/-- The pool offset of the scratchpad as an invocation found it when it laid its queues out: they keep their bytes when PART changes (R146). -/
def Inv.scratch (i : Inv) : Nat := partRF i.region.laid * 65536

/-- The pool offset of the entries of a CHAN or DELAY node, and how many it has: none for a node that keeps no line in the scratchpad. -/
def lineAt (i : Inv) (core n : Nat) (nd : Node) : Option (Nat × Nat) :=
  let sp := i.scratch
  if nd.op = 0x96 ∧ fld nd.ext1 8 0 ≠ 0 then some (sp + (i.st n).ring * 512, chanCap nd)
  else if nd.op = 0x85 then some (sp + i.scratchAt n core, delayDepth nd)
  else none

/-- The pool offset of an EXPERT's queue for a destination, oldest token first (R210, R233). -/
def queueAt (i : Inv) (nd : Node) (d : Nat) : Nat := i.scratch + exBase nd * 512 + d * exCap nd * 16

/-- What an invocation keeps in the pool of a core: frame slots, rings, delay lines and expert queues, as pool offsets and bytes. -/
def poolItems (iid : Nat) (i : Inv) (core : Nat) : List (Nat × List Byte) :=
  (i.nodesOn core).flatMap fun e =>
    ((upto 0 (2 ^ i.k)).map fun j =>
      let t := (baseTag iid + j) % 65536
      (i.slotAt e.1 core j, slotBytes t (i.slot e.1 t))) ++
    (match lineAt i core e.1 e.2 with
    | some (p, cap) => ringItems p cap (i.st e.1).head (i.st e.1).line
    | none => []) ++
    if e.2.op = 0x99 then (i.st e.1).queues.flatMap fun q => ringItems (queueAt i e.2 q.1) (exCap e.2) 0 q.2 else []

/-- Memory with the PART of a core as an invocation found it when it laid its frames and queues out there. -/
def Mem.asLaid (m : Mem) (core part : Nat) : Mem := { m with part := Tab.set m.part partReset core part }

/-- Write, read pool bytes of a core at offsets as they stood under a PART (R146). -/
def Mem.wrsLaid (m : Mem) (core part o : Nat) (bs : List Byte) : Mem :=
  { (m.asLaid core part).wrs (poolPa core o) bs with part := m.part }
def Mem.rdsLaid (m : Mem) (core part o n : Nat) : List Byte := (m.asLaid core part).rds (poolPa core o) n

/-- A part of a core's pool: the core, its lowest offset, its highest. -/
structure Span where
  core : Nat
  lo : Nat
  hi : Nat
  deriving DecidableEq, Repr

/-- Do n bytes at an offset meet the part? -/
def Span.meets (x : Span) (off n : Nat) : Bool := decide (x.lo < off + n) && decide (off ≤ x.hi)

/-- Is an item of n bytes, at an offset as it stood under a PART, of the pool, and may it meet the part? -/
def Span.sees (m : Mem) (x : Span) (part off n : Nat) : Bool :=
  decide (off + n ≤ 0x400000) && (decide (m.partOf x.core ≠ part) || x.meets off n)

/-- The parts of pools that some addresses lie in, one for each core. -/
def spansOf (m : Mem) (pas : List Nat) : List Span :=
  (pas.filter fun p => decide (m.kind p = .pool)).foldl (fun xs p =>
    let (c, o) := poolAt p
    if xs.any fun x => decide (x.core = c) then xs.map fun x => if x.core = c then { x with lo := min x.lo o, hi := max x.hi o } else x
    else xs ++ [⟨c, o, o⟩]) []

/-- The pools of some addresses brought up to what their frames and queues hold: every read of pool bytes sees them (R138, R143). -/
def State.refresh (s : State) (pas : List Nat) : State :=
  { s with mem := (spansOf s.mem pas).foldl (fun m x =>
    (s.fab.invs.filter fun e => decide (e.2.phase ≠ .out)).foldl (fun m e =>
      ((poolItems e.1 e.2 x.core).filter fun y => Span.sees s.mem x e.2.region.laid y.1 y.2.length).foldl
        (fun m y => m.wrsLaid x.core e.2.region.laid y.1 y.2) m) m) s.mem }

/-- A byte of memory as every read of it sees it. -/
def State.byteAt (s : State) (pa : Nat) : Byte := (s.refresh [pa]).mem.rd pa

/-- A line of tokens, those that meet a part with the bytes of memory in place of their entries. -/
def ringRead (m : Mem) (x : Span) (part at_ cap head : Nat) (line : List Tok) : List Tok :=
  ((upto 0 line.length).zip line).map fun e =>
    let o := at_ + (head + e.1) % cap * 16
    if Span.sees m x part o 16 then { tokOfBytes (m.rdsLaid x.core part o 16) with seq := e.2.seq } else e.2

/-- A frame slot with the bytes of memory in place of its own. -/
def slotRead (m : Mem) (x : Span) (part o : Nat) (old : Slot) : Slot :=
  if Span.sees m x part o 32 then
    let y := slotOfBytes (m.rdsLaid x.core part o 32)
    { y with lseq := if y.hasL then old.lseq else 0, rseq := if y.hasR then old.rseq else 0 }
  else old

/-- Frames and queues of an invocation take what memory now holds at their bytes in a part of a pool. -/
def absorbInv (m : Mem) (iid : Nat) (i : Inv) (x : Span) : Inv :=
  let part := i.region.laid
  (i.nodesOn x.core).foldl (fun i e =>
    let i1 := (upto 0 (2 ^ i.k)).foldl (fun i j =>
      let t := (baseTag iid + j) % 65536
      i.putSlot e.1 t (slotRead m x part (i.slotAt e.1 x.core j) (i.slot e.1 t))) i
    let i2 := match lineAt i x.core e.1 e.2 with
      | some (p, cap) => if (i.st e.1).line = [] then i1 else i1.onSt e.1 fun y => { y with line := ringRead m x part p cap y.head y.line }
      | none => i1
    if e.2.op = 0x99 ∧ (i.st e.1).queues ≠ [] then
      i2.onSt e.1 fun y => { y with queues := y.queues.map fun q => (q.1, ringRead m x part (queueAt i e.2 q.1) (exCap e.2) 0 q.2) }
    else i2) i

/-- A store into a part of a pool reaches the frames and queues that lie there. -/
def State.absorbSpan (s : State) (x : Span) : State :=
  { s with fab := { s.fab with invs := s.fab.invs.map fun e =>
    if e.2.phase = .out ∨ e.2.nodesOn x.core = [] then e else (e.1, absorbInv s.mem e.1 e.2 x) } }

/-- A store into some pools reaches the frames and queues that lie there (R138). -/
def State.absorb (s : State) (pas : List Nat) : State := (spansOf s.mem pas).foldl State.absorbSpan s

/-- Is the line poisoned on which a token stands that a firing of a node for a tag takes: its frame slot, or the head entry that leaves its
line (R162)? -/
def tokPoisoned (s : State) (iid : Nat) (i : Inv) (n tag : Nat) (nd : Node) : Bool :=
  let core := nd.place.core
  let x := i.slot n tag
  let m := s.mem.asLaid core i.region.laid
  nd.onCore core &&
  (((x.hasL || x.hasR || x.hasP) && m.bad (poolPa core (i.slotAt n core ((tag + 65536 - baseTag iid) % 65536)))) ||
   (match lineAt i core n nd with
   | some (p, cap) =>
     decide ((i.st n).line ≠ []) && (decide (nd.op = 0x96) || (i.st n).flush || decide (cap ≤ (i.st n).line.length)) &&
     m.bad (poolPa core (p + (i.st n).head % cap * 16))
   | none => false))

/-- Is the line of the head of an EXPERT's queue for a destination poisoned (R162)? -/
def queuePoisoned (s : State) (i : Inv) (nd : Node) (d : Nat) : Bool :=
  (s.mem.asLaid nd.place.core i.region.laid).bad (poolPa nd.place.core (queueAt i nd d))

end Sys2Proof.Machine
end

