-- ==== Sys2Proof/Machine/Home.lean ====
section
/-! DEFINITION. Threads and tasks as a write at home reaches them, and that write: the one operation through which memory changes under a
running program (spec 08_memories R149, R150, 09_memory_ops R174, R178, 10_ordering R189). -/
namespace Sys2Proof.Machine

/-! ### Threads -/

/-- A thread by its source number. -/
def State.th (s : State) (tid : Nat) : Thread := Tab.getD s.threads tid .reset

/-- Replace a thread. -/
def State.putTh (s : State) (tid : Nat) (t : Thread) : State := { s with threads := Tab.put s.threads tid t }

/-- Update a thread. -/
def State.onTh (s : State) (tid : Nat) (f : Thread → Thread) : State := s.putTh tid (f (s.th tid))

/-- Note for the rest of the cycle that something has happened. -/
def State.mark (s : State) (u : Issuer) : State := { s with shot := u :: s.shot }

/-! ### Tasks that have read a line (R174, R178) -/

/-- The tasks that a write of a line aborts: they have read it and are neither the writer nor irrevocable (R174, R178). -/
def readersOf (s : State) (writer : Option Nat) (line : Nat) : List Task :=
  s.tasks.filter fun t => !t.irrev && !t.withdrawn && decide (line ∈ t.reads) && decide (some t.id ≠ writer)

/-- The abort of a task (R178): loads in flight, versioned lines, read records and deltas are discarded, the abort count
rises, and its thread restarts at the entry as TSPAWN set it. A task saved out has no thread to restart. -/
def abortTask (s : State) (k : Task) : State :=
  let s1 := { s with tasks := s.tasks.map fun t =>
    if t.id = k.id then { t with aborts := t.aborts + 1, reads := [], vlines := [], deltas := [] } else t }
  match k.tid with
  | none => s1
  | some tid => s1.onTh tid fun t =>
      { t with
        g := Tab.set (Tab.set [] 0 1 k.arg1) 0 2 k.arg2, p := [], pc := k.entry, pend := [], imp := [], stale := [], why := .none,
        st := if t.st = .halted then .halted else .runnable,
        sys := { t.sys with fflags := 0 } }

/-- Reservations that a task's deltas hold return to their networks (R267, R283). -/
def returnReservations (s : State) (ds : List Delta) : State :=
  ds.foldl (fun s d =>
    if d.kind = 1 then s else
    match Tab.look s.fab.nets d.net with
    | some n => { s with fab := { s.fab with nets := Tab.put s.fab.nets d.net { n with free := n.free + 1 } } }
    | none => s) s

/-- Abort one task whose reads a write has overtaken. -/
def abortAndReturn (s : State) (t : Task) : State := abortTask (returnReservations s t.deltas) t

/-- Mark the watchers whose condition a write has made true (R100, R320). -/
def markWoken (s : State) : State :=
  { s with threads := s.threads.map fun e =>
    match e.2.why with
    | .watch pa ex tmo start d w => (e.1, { e.2 with why := .watch pa ex tmo start d (w || decide (s.mem.word pa 8 ≠ ex.toNat)) })
    | .barrier pa gen tmo start d w =>
      let met := decide (s.mem.word (pa + 16) 4 ≠ gen) || decide (s.mem.word (pa + 8) 8 ≤ s.mem.word pa 8)
      (e.1, { e.2 with why := .barrier pa gen tmo start d (w || met) })
    | _ => e }

/-! ### Slices (R149, R150) -/

/-- The versioned ways of a line's set that the tasks of a shard hold (R150). -/
def waysTaken (s : State) (shard line : Nat) : Nat :=
  (s.tasks.filter fun t => decide (t.shard = shard)).foldl
    (fun n t => n + (t.vlines.filter fun e => decide (e.1 % 16384 = line % 16384)).length) 0

/-- The ways of a line's set in a slice that are left for home lines (R150). -/
def homeWays (s : State) (slice line : Nat) : Nat := 16 - waysTaken s slice line

/-- The LP6 lines among some addresses, each once. -/
def linesOf (m : Mem) (pas : List Nat) : List Nat := ((pas.map fun p => p / 64 * 64).eraseDups).filter fun p => decide (m.kind p = .lp6)

/-- Bring the LP6 lines of some addresses into their home slices: write-allocate, and loads alike (R149). -/
def State.bring (s : State) (pas : List Nat) : State :=
  { s with mem := (linesOf s.mem pas).foldl (fun m p => m.touch p (homeWays s (homeSlice p) (p / 64))) s.mem }

/-! ### Reports -/

/-- The order of records: GTSC, then source number (R7), then LOC (R329). -/
def recBefore (a b : LogRec) : Bool :=
  decide (a.gtsc < b.gtsc) ||
  (decide (a.gtsc = b.gtsc) && (decide (a.src < b.src) || (decide (a.src = b.src) && decide (a.loc < b.loc))))

/-- Records that the event log holds (R366). -/
def logSize : Nat := 2097152

/-- Enter a record in the Wellhead event log, a ring of its newest records (R366). -/
def State.logRec (s : State) (r : LogRec) : State :=
  let full := decide (logSize ≤ s.well.log.length)
  let old := if full then s.well.log.drop 1 else s.well.log
  { s with well := { s.well with log := insertBy recBefore r old, logged := s.well.logged + b2n full } }

/-- What the log keeps of a store that an unreachable package drops: the spec states no field of the record (R353; log 2). -/
def State.logAway (s : State) (pa : Nat) : State :=
  if s.mem.away pa then
    let f := fun (i : Nat) => (Config.freeValue (s.fresh + i)).toNat
    ({ s with fresh := s.fresh + 4 }).logRec ⟨s.gtsc, f 0 % 65536, f 1 % 256, 0, 0, f 2, f 3⟩
  else s

/-! ### A write performed at home (R149, R174, R189) -/

/-- The lines of n bytes at an address, as their home keeps them. -/
def lineKeys (m : Mem) (pa n : Nat) : List Nat :=
  ((upto 0 (n / 64 + 2)).map fun i => m.key (pa / 64 * 64 + 64 * i) / 64).filter fun l => decide (l ≤ m.key (pa + (n - 1)) / 64)

/-- Abort the tasks that a write of some lines overtakes (R174): each once. -/
def abortReaders (s : State) (writer : Option Nat) (lines : List Nat) : State :=
  (lines.flatMap fun l => readersOf s writer l).foldl (fun st t =>
    if (st.tasks.find? fun u => decide (u.id = t.id) && decide (u.aborts = t.aborts)).isSome then abortAndReturn st t else st) s

/-- Bytes reach their home: memory takes them, tasks that have read their lines abort, watchers wake. -/
def homeStore (s : State) (writer : Option Nat) (pa : Nat) (bs : List Byte) : State :=
  let here := upto pa bs.length
  let s0 := (s.logAway pa).refresh here
  let s1 := { s0 with mem := s0.mem.store pa bs }.absorb here
  markWoken (abortReaders s1 writer (lineKeys s.mem pa bs.length))

/-- The same, through the home slices of its lines, but for those of a page mapped uncached (R149, R153). -/
def homeWriteUnc (s : State) (writer : Option Nat) (unc : List Nat) (pa : Nat) (bs : List Byte) : State :=
  (homeStore s writer pa bs).bring ((upto pa bs.length).filter fun p => decide (p ∉ unc))

/-- A write performed at home whose lines are all cached there. -/
def homeWrite (s : State) (writer : Option Nat) (pa : Nat) (bs : List Byte) : State := homeWriteUnc s writer [] pa bs

/-- Bytes at addresses as runs of consecutive addresses. -/
def runsOf : List (Nat × Byte) → List (Nat × List Byte)
  | [] => []
  | (p, b) :: rest =>
    match runsOf rest with
    | (q, bs) :: more => if q = p + 1 then (p, b :: bs) :: more else (p, [b]) :: (q, bs) :: more
    | [] => [(p, [b])]

/-- Write bytes at a list of addresses, each consecutive run in one action. -/
def writeRunsUnc (s : State) (writer : Option Nat) (unc pas : List Nat) (bs : List Byte) : State :=
  (runsOf (pas.zip bs)).foldl (fun st e => homeWriteUnc st writer unc e.1 e.2) s
def writeRuns (s : State) (writer : Option Nat) (pas : List Nat) (bs : List Byte) : State := writeRunsUnc s writer [] pas bs

end Sys2Proof.Machine
end

