-- ==== Sys2Proof/Machine/Translate.lean ====
section
/-! DEFINITION. Virtual addresses to physical ones: windows, page tables, TLB slices, failures (spec 08_memories R137 to R158). -/
namespace Sys2Proof.Machine

/-- The kinds of translation failure (R157). -/
inductive XKind where
  | notPresent
  | permission
  | malformed
  | reserved
  | nonCanon
  | window
  deriving DecidableEq, Repr

/-- The code of a failure kind (R157). -/
def XKind.code : XKind → Nat
  | .notPresent => 0 | .permission => 1 | .malformed => 2 | .reserved => 3 | .nonCanon => 4 | .window => 5

/-- What an access does at its address. -/
inductive Acc where
  | read
  | write
  | fetch
  deriving DecidableEq, Repr

/-- Who asks for a translation: the die whose slices serve it, the context, the owner, the privilege (R143, R155), and the task that it is for,
which the update of a page-table entry does not abort (R174; log 85). -/
structure Who where
  die : Nat
  ctxid : Nat
  owner : Nat
  prv : Bool
  task : Option Nat
  deriving DecidableEq, Repr

/-- A translated address: PA, and whether it is LP6 memory cached at home (R174). -/
structure Xl where
  pa : Nat
  cached : Bool
  deriving DecidableEq, Repr

/-- The value a failure reports (R157). -/
def pageValue (k : XKind) (acc : Acc) (va : Nat) : W :=
  w64 (b2n (decide (acc = .fetch)) <<< 55 ||| b2n (decide (acc = .write)) <<< 54 ||| k.code <<< 51 ||| va % 2 ^ 51)

/-- Bits 63:51 all equal bit 50 (R137). -/
def canonical (va : Nat) : Bool := decide (va / 2 ^ 50 = 0) || decide (va / 2 ^ 50 = 16383)

/-- The first window address (R142). -/
def winBase : Nat := 0xffffff0000000000

/-- The core of a region's rectangle. -/
def Region.has (r : Region) (core : Nat) : Bool :=
  let x := core % 24
  let y := core % 384 / 24
  decide (r.die = core / 384) && decide (r.x0 ≤ x) && decide (x < r.x0 + r.w) && decide (r.y0 ≤ y) && decide (y < r.y0 + r.h)

/-- Does a core lie in a region granted to a context of an owner (R143)? A held-out invocation holds no region. -/
def State.ownsCore (s : State) (owner core : Nat) : Bool :=
  s.fab.invs.any fun e => decide (e.2.owner = owner) && decide (e.2.phase ≠ .out) && e.2.region.has core

/-- A core of the Bench strip: row 15 of die 0 (R42). -/
def isBench (core : Nat) : Bool := decide (360 ≤ core) && decide (core < 384)

/-- A window access (R142, R143): a window bypasses the page tables. -/
def windowXl (s : State) (who : Who) (acc : Acc) (va : Nat) : Except XKind Xl :=
  let o := va - winBase
  if 8 * gib ≤ o ∨ 0x60000000 ≤ o % (2 * gib) then .error .notPresent
  else
    let core := o / (2 * gib) * 384 + o % (2 * gib) / 0x400000
    let g := o % 0x400000 / 65536
    let part := s.mem.partOf core
    if isBench core then .error .window
    else if !(who.prv || s.ownsCore who.owner core) then .error .window
    else if acc = .write ∧ ¬ (partRF part ≤ g ∧ g < partRF part + partSP part) then .error .window
    else .ok ⟨poolBase + o, false⟩

/-- The bits of a page-table entry (R153). -/
def pteV (e : Nat) : Bool := bit e 0
def pteLeaf (e : Nat) : Bool := bit e 1
def pteAddr (e : Nat) : Nat := bits e 51 12 <<< 12

/-- log2 of the page size of a leaf at a level (R152). -/
def leafLog : Nat → Nat
  | 1 => 16 | 2 => 25 | 3 => 33 | _ => 0

/-- The index of a VA at a level (R152). -/
def ptIndex (lvl va : Nat) : Nat :=
  match lvl with
  | 4 => bits va 50 42 | 3 => bits va 41 33 | 2 => bits va 32 25 | _ => bits va 24 16

/-- An entry that is MALFORMED at a level (R153). -/
def pteMalformed (lvl e : Nat) : Bool :=
  decide (bits e 55 52 ≠ 0) || decide (bits e 9 8 ≠ 0) ||
  if pteLeaf e then
    decide (lvl = 4) || decide (2 ≤ bits e 11 10) || (bit e 3 && !bit e 2) || decide (pteAddr e % 2 ^ leafLog lvl ≠ 0)
  else decide (lvl = 1) || decide (bits e 11 10 ≠ 0) || decide (bits e 7 2 ≠ 0)

/-- Is an access allowed by R, W, X and U (R153, R154)? -/
def allowed (r w x u prv : Bool) : Acc → Bool
  | .read => r && (u || prv)
  | .write => w && (u || prv)
  | .fetch => x && (u || prv)

/-- What a walk finds: the failure, or the leaf entry, its address and its level. R154 says nothing of a poisoned line of the page table: the
walk takes the bytes as they stand (DESIGN CHOICE, log 85). -/
def findLeaf (m : Mem) (va : Nat) : Nat → Nat → Except XKind (Nat × Nat × Nat)
  | 0, _ => .error .malformed
  | lvl + 1, t =>
    let a := t + ptIndex (lvl + 1) va * 8
    let e := m.word a 8
    if !pteV e then .error .notPresent
    else if pteMalformed (lvl + 1) e then .error .malformed
    else if pteLeaf e then .ok (e, a, lvl + 1)
    else findLeaf m va lvl (pteAddr e)

/-- A TLB entry made from a leaf (R154). -/
def fillOf (ctxid va e lvl : Nat) (dirty : Bool) : TlbEnt :=
  let n := leafLog lvl
  ⟨ctxid, va % 2 ^ 51 / 2 ^ n, n, pteAddr e, bit e 2, bit e 3, bit e 4, bit e 5, bits e 11 10, dirty⟩

/-- The TLB slice that translates a VA for a context on a die (R155). -/
def tlbSlice (die ctxid va : Nat) : Nat := die * 32 + fld (hash64 (w64 (bits va 50 25)) (w64 ctxid)) 4 0

/-- Does an entry cover a VA of a context? -/
def TlbEnt.covers (e : TlbEnt) (ctxid va : Nat) : Bool := decide (e.ctxid = ctxid) && decide (va % 2 ^ 51 / 2 ^ e.size = e.page)

/-- The set of an entry among the 512 of its slice: 4,096 entries in 8 ways (R155; log 11). -/
def TlbEnt.set (e : TlbEnt) : Nat := e.page % 512

/-- The first n entries of a set stay, and those of every other set. -/
def keepWays (set : Nat) : Nat → List TlbEnt → List TlbEnt
  | _, [] => []
  | n, e :: es =>
    if e.set = set then
      match n with
      | 0 => keepWays set 0 es
      | k + 1 => e :: keepWays set k es
    else e :: keepWays set n es

/-- Put an entry at the front of its slice, as the most recently used of its set's 8 ways (R155). -/
def Mem.fill (m : Mem) (slice : Nat) (e : TlbEnt) : Mem :=
  let old := (Tab.getD m.tlb slice []).filter fun o => !(decide (o.ctxid = e.ctxid) && decide (o.size = e.size) && decide (o.page = e.page))
  { m with tlb := Tab.put m.tlb slice (e :: keepWays e.set 7 old) }

/-- The physical address of a VA within an entry's page; LP6 pages of MT 0 are cached at home. -/
def TlbEnt.xl (m : Mem) (e : TlbEnt) (va : Nat) : Xl :=
  let pa := e.frame + va % 2 ^ e.size
  ⟨pa, decide (e.mt = 0) && decide (m.kind pa = .lp6)⟩

/-- The addresses of the entries that a walk loads, in order. -/
def walkPath (m : Mem) (va : Nat) : Nat → Nat → List Nat
  | 0, _ => []
  | lvl + 1, t =>
    let a := t + ptIndex (lvl + 1) va * 8
    let e := m.word a 8
    a :: if !pteV e || pteMalformed (lvl + 1) e || pteLeaf e then [] else walkPath m va lvl (pteAddr e)

/-- One walk (R154): its loads and its update of the leaf's A, and D for a write, go through the entries' home slices; then it fills the
TLB. -/
def walkOnce (s : State) (who : Who) (acc : Acc) (va : Nat) : Except XKind (State × TlbEnt) :=
  match Tab.look s.mem.ctx who.ctxid with
  | none => .error .notPresent
  | some c =>
    match findLeaf s.mem va 4 c.root with
    | .error k => .error k
    | .ok (e, a, lvl) =>
      if s.mem.frameReserved (pteAddr e) (2 ^ leafLog lvl) then .error .reserved
      else if !allowed (bit e 2) (bit e 3) (bit e 4) (bit e 5) who.prv acc then .error .permission
      else
        let new := e ||| 64 ||| (if acc = .write then 128 else 0)
        let s1 := s.bring (walkPath s.mem va 4 c.root)
        let s2 := if new = e then s1 else homeWrite s1 who.task a (toBytes 8 new)
        let ent := fillOf who.ctxid va new lvl (bit new 7)
        .ok ({ s2 with mem := s2.mem.fill (tlbSlice who.die who.ctxid va) ent }, ent)

/-- A walk holds a walker of its slice, or a place in the miss queue, until PAGE_WALK ends it; a miss to a page whose walk is in flight
joins that walk (R155). -/
def noteMiss (s : State) (who : Who) (acc : Acc) (va : Nat) (e : TlbEnt) : State :=
  let slice := tlbSlice who.die who.ctxid va
  let q := Tab.getD s.mem.misses slice []
  if q.any fun m => e.covers m.ctxid m.va then s
  else
    let q1 := q ++ [⟨who.ctxid, va, decide (acc = .write), decide (acc = .fetch), who.prv⟩]
    { s with mem := { s.mem with misses := Tab.put s.mem.misses slice q1 } }

/-- Every walker and queue place of a TLB slice is taken (R155). -/
def missFull (s : State) (slice : Nat) : Bool := decide (288 ≤ (Tab.getD s.mem.misses slice []).length)

/-- Would a translation miss find its slice's miss queue full (R155)? -/
def missBlocked (s : State) (who : Who) (va : Nat) : Option Nat :=
  let slice := tlbSlice who.die who.ctxid va
  if missFull s slice && canonical va && !(decide (winBase ≤ va) && decide (va < 0xffffff0800000000)) &&
    !((Tab.getD s.mem.tlb slice []).any fun e => e.covers who.ctxid va) then some slice else none

/-- Would one of n bytes? Every 64 KiB page of them is looked at. -/
def missBlockedIn (s : State) (who : Who) (va n : Nat) : Option Nat :=
  if n = 0 then none else
  (va :: (upto 0 ((va % 65536 + n - 1) / 65536)).map fun k => ((va / 65536 + k + 1) * 65536) % 2 ^ 64).findSome? fun a => missBlocked s who a

/-- Some slice holds more misses than its walkers and queue places: a requester has found it full (R155, R206). -/
def State.overMissed (s : State) : Bool := s.mem.misses.any fun e => decide (288 < e.2.length)

/-- What a translation that misses gets: the walk's result, at once (log 11). -/
def walk (s : State) (who : Who) (acc : Acc) (va : Nat) : Except XKind (State × Xl) :=
  match walkOnce s who acc va with
  | .error k => .error k
  | .ok (s1, e) => .ok (noteMiss s1 who acc va e, e.xl s1.mem va)

/-- Translate one address for an access (R137, R142, R154, R155). A TLB hit neither reads nor sets A; a write that hits an
entry with D = 0 walks again. -/
def translate (s : State) (who : Who) (acc : Acc) (va : Nat) : Except XKind (State × Xl) :=
  if !canonical va then .error .nonCanon
  else if winBase ≤ va ∧ va < 0xffffff0800000000 then
    match windowXl s who acc va with
    | .ok x => .ok (s, x)
    | .error k => .error k
  else
    let slice := tlbSlice who.die who.ctxid va
    match (Tab.getD s.mem.tlb slice []).find? (fun e => e.covers who.ctxid va) with
    | some e =>
      if acc = .write ∧ e.w = true ∧ e.dirty = false then walk s who acc va
      else if !allowed e.r e.w e.x e.u who.prv acc then .error .permission
      else .ok ({ s with mem := s.mem.fill slice e }, e.xl s.mem va)
    | none => walk s who acc va

/-- Translate n bytes one by one: the failing address is the lowest one that fails (R158). -/
def translatesX (s : State) (who : Who) (acc : Acc) (va : Nat) : Nat → Except (XKind × Nat) (State × List Xl)
  | 0 => .ok (s, [])
  | n + 1 =>
    match translate s who acc va with
    | .error k => .error (k, va)
    | .ok (s1, x) =>
      match translatesX s1 who acc ((va + 1) % 2 ^ 64) n with
      | .error e => .error e
      | .ok (s2, xs) => .ok (s2, x :: xs)

/-- The addresses alone. -/
def translates (s : State) (who : Who) (acc : Acc) (va n : Nat) : Except (XKind × Nat) (State × List Nat) :=
  match translatesX s who acc va n with
  | .error e => .error e
  | .ok (s1, xs) => .ok (s1, xs.map Xl.pa)

/-- The addresses among some whose page is mapped uncached (R153). -/
def uncOf (xs : List Xl) : List Nat := (xs.filter fun x => !x.cached).map Xl.pa

end Sys2Proof.Machine
end

