-- ==== Sys2Proof/Machine/Ops.lean ====
section
/-! DEFINITION. The shared operations: threads and registers, taking and leaving an exception, fault records, writes at home
and what they wake, queues of a thread, and the frame every thread-form word runs in. -/
namespace Sys2Proof.Machine

/-- What a step answers. -/
abbrev Out := Host.Outcome State Fault Refusal

/-! ### Fault codes (R324) -/

def cILLEGAL : Nat := 0x01
def cPRIV : Nat := 0x02
def cALIGN : Nat := 0x03
def cPAGE : Nat := 0x04
def cPOISON : Nat := 0x05
def cSCALE : Nat := 0x06
def cORPHAN : Nat := 0x07
def cSPARSE : Nat := 0x08
def cIBDEPTH : Nat := 0x09
def cIBLOOP : Nat := 0x0a
def cSTALL : Nat := 0x0b
def cBLOCKED : Nat := 0x0c
def cNOTBOUND : Nat := 0x0d
def cBINDFAIL : Nat := 0x0e
def cBASIN : Nat := 0x0f
def cSTRICT : Nat := 0x10
def cTIMEOUT : Nat := 0x11
def cTRAP : Nat := 0x20
def cBRK : Nat := 0x21

/-! ### Threads -/

/-- The clock runs: the package has booted and has not tripped (R363, R365). -/
def State.powered (s : State) : Bool := decide (s.well.boot = .running) && !s.well.tripped

/-- The thread whose word is being issued. -/
def State.me (s : State) : Thread := s.th s.cur

/-- Update the thread whose word is being issued. -/
def State.onMe (s : State) (f : Thread → Thread) : State := s.onTh s.cur f

/-- The sender of a command that comes from a command queue: no thread, on die 0 (R349). -/
def hostTid : Nat := 0xfc00

/-- The die and the shard of a thread (R33). -/
def dieOf (tid : Nat) : Nat := tid / 256 % 4
def shardOf (tid : Nat) : Nat := tid / 8

/-- A source number of a control-core thread of this package (R33). -/
def isThreadNo (t : Nat) : Bool := decide (t < 1024)

/-- The debug port is open (R370). -/
def State.debugOpen (s : State) : Bool := match s.well.debug with
  | some d => decide (s.gtsc ≤ d.2)
  | none => false

/-- Read a g register; g0 reads zero (R70). -/
def Thread.rg (t : Thread) (n : Nat) : W := if n = 0 then 0 else Tab.getD t.g n 0

/-- Write a g register; a write to g0 is dropped (R70). -/
def Thread.wg (t : Thread) (n : Nat) (v : W) : Thread := if n = 0 then t else { t with g := Tab.set t.g 0 n v }

/-- Read a predicate; p0 reads true (R71). -/
def Thread.rp (t : Thread) (n : Nat) : Bool := if n = 0 then true else Tab.getD t.p n false

/-- Write a predicate; a write to p0 is dropped (R71). -/
def Thread.wp (t : Thread) (n : Nat) (v : Bool) : Thread := if n = 0 then t else { t with p := Tab.set t.p false n v }

/-- Read an h register (R74). -/
def Thread.rh (t : Thread) (n : Nat) : BitVec 16 := Tab.getD t.h n 0

/-- Write an h register; its reserved bits 14:12 stay zero (R74). -/
def Thread.wh (t : Thread) (n : Nat) (v : Bool) (idx : Nat) : Thread :=
  { t with h := Tab.set t.h 0 n (BitVec.ofNat 16 (b2n v * 32768 + idx % 4096)) }

/-- OR flags into fflags (R76). -/
def Thread.orFlags (t : Thread) (f : Nat) : Thread := { t with sys := { t.sys with fflags := t.sys.fflags ||| w64 (f % 32) } }

/-- ctx.PRV and ctx.CTXID (R78). -/
def Thread.prv (t : Thread) : Bool := bit t.sys.ctx.toNat 63
def Thread.ctxid (t : Thread) : Nat := fld t.sys.ctx 15 0
def Thread.own (t : Thread) : Nat := t.sys.owner.toNat % 65536

/-- fflags.STRICT (R76). -/
def Thread.strict (t : Thread) : Bool := bit t.sys.fflags.toNat 5

/-- Does an outstanding access count on L, on S (R314)? -/
def PKind.isL : PKind → Bool
  | .load | .atom | .cas | .barr | .signal | .conv | .convr => true
  | .store | .stb | .stm | .stred | .binit | .convw | .fence | .acqCmd => false
def PKind.isS : PKind → Bool
  | .store | .atom | .cas | .stb | .stm | .stred | .binit | .barr | .signal | .conv | .convr | .convw => true
  | .load | .fence | .acqCmd => false

/-- The L and S counters (R314). -/
def Thread.l (t : Thread) : Nat := (t.pend.filter fun e => e.kind.isL).length
def Thread.s (t : Thread) : Nat := (t.pend.filter fun e => e.kind.isS).length

/-- A CTXSAVE is saving a thread: it issues nothing more (R343). -/
def State.frozen (s : State) (tid : Nat) : Bool := s.eng.cmds.any fun c => decide (c.msg.op = 0xd4) && decide (c.msg.opnd.getD 1 0 = w64 tid)

/-- The task a thread runs. -/
def State.taskOf (s : State) (tid : Nat) : Option Task := s.tasks.find? fun t => decide (t.tid = some tid)

/-- Who a thread's accesses act for (R143, R155). -/
def State.whoOf (s : State) (tid : Nat) : Who :=
  ⟨dieOf tid, (s.th tid).ctxid, (s.th tid).own, (s.th tid).prv, (s.taskOf tid).map Task.id⟩

/-! ### Reports -/

/-- Nanoseconds of the GTSC since a reading of it, modulo 2^64 (R7). -/
def State.since (s : State) (t : Nat) : Nat := (s.gtsc + 2 ^ 64 - t % 2 ^ 64) % 2 ^ 64

/-- A Wellhead event (R366). -/
def State.logEvent (s : State) (code value : Nat) : State := s.logRec ⟨s.gtsc, 0x0483, code, 0, 1, 0, value⟩

/-- An address as a pc holds it: bits 2:0 zero (R49). Of an address that the resident kernel or a command supplies with one of them set, the
model clears them: DESIGN CHOICE (log 75). -/
def alignPc (a : W) : W := a &&& ~~~7#64

/-- Taking a trap: the ONE operation by which a thread leaves its program (R62, R325, R328). The pc is saved in xpc, the code
and the value in xcause and xval, the thread enters TRAPPED, and the Wellhead log takes a copy (R326). -/
def takeTrap (tid code : Nat) (pc xval : W) (s : State) : State :=
  (s.onTh tid fun t =>
    { t with sys := { t.sys with xpc := pc, xcause := w64 code, xval := xval }, st := .trapped, why := .none }).logRec
    ⟨s.gtsc, tid, code, 0, 0, pc.toNat, xval.toNat⟩

/-- The return from an exception (R340): HND clears and the pc takes xpc. -/
def leaveTrap (tid : Nat) (s : State) : State := s.onTh tid fun t => { t with hnd := false, pc := t.sys.xpc }

/-- A vector becomes pending in a thread; a PARKED thread is woken by THREAD_WAKE when the vector is enabled (R79). -/
def State.post (s : State) (tid v : Nat) : State :=
  (s.mark (.posted tid v)).onTh tid fun t =>
    { t with sys := { t.sys with intpend := t.sys.intpend ||| (1#64 <<< v) } }

/-- The 32 bytes of a fault record (R325). -/
def recBytes (gtsc src code kind loc value : Nat) : List Byte :=
  toBytes 8 gtsc ++ toBytes 2 src ++ toBytes 1 code ++ toBytes 1 kind ++ toBytes 4 0 ++ toBytes 8 loc ++ toBytes 8 value

/-- A record that goes to the hard core of a die: the log keeps the copy (R326). -/
def State.recHard (s : State) (src code kind loc : Nat) (value : W) : State :=
  s.logRec ⟨s.gtsc, src, code, kind, 0, loc, value.toNat⟩

/-- Write bytes at a VA for some agent, all or nothing: the failing kind and address, or the state after. -/
def writeVa (s : State) (who : Who) (writer : Option Nat) (va : Nat) (bs : List Byte) : Except (XKind × Nat) State :=
  match translatesX s who .write va bs.length with
  | .error e => .error e
  | .ok (s1, xs) => .ok (writeRunsUnc s1 writer (uncOf xs) (xs.map Xl.pa) bs)

/-- Why a read of memory failed: translation, or poison at an address; why a write that belongs to the same work failed. -/
inductive ReadErr where
  | page (k : XKind) (va : Nat)
  | poison (va : Nat)
  | write (k : XKind) (va : Nat)
  deriving DecidableEq, Repr

/-- Reach n bytes at a VA for a read: cached lines come into their home slices, pools show what their frames and queues hold. The state
after, and the addresses. -/
def reachVa (s : State) (who : Who) (va n : Nat) : Except (XKind × Nat) (State × List Nat) :=
  match translatesX s who .read va n with
  | .error e => .error e
  | .ok (s1, xs) => .ok ((s1.bring ((xs.filter Xl.cached).map Xl.pa)).refresh (xs.map Xl.pa), xs.map Xl.pa)

/-- Read n bytes at a VA for some agent. -/
def readVa (s : State) (who : Who) (va n : Nat) : Except ReadErr (State × List Byte) :=
  match reachVa s who va n with
  | .error (k, a) => .error (.page k a)
  | .ok (s2, pas) =>
    match (pas.zip (upto va n)).find? (fun e => s2.mem.bad e.1) with
    | some e => .error (.poison e.2)
    | none => .ok (s2, pas.map s2.mem.rd)

/-- The code and value of a failed read (R157, R163). -/
def ReadErr.report : ReadErr → Nat × W
  | .page k va => (cPAGE, pageValue k .read va)
  | .poison va => (cPOISON, w64 va)
  | .write k va => (cPAGE, pageValue k .write va)

/-- The order of two records' bytes: source number, then LOC (R325, R329). -/
def bytesBefore (a b : List Byte) : Bool :=
  decide (leAt a 8 2 < leAt b 8 2) || (decide (leAt a 8 2 = leAt b 8 2) && decide (leAt a 16 8 < leAt b 16 8))

/-- The newest unread records of a fault ring that carry the present GTSC, oldest first, of at most n. -/
def ringTail (s : State) (who : Who) (fring fwr : Nat) : Nat → List (List Byte)
  | 0 => []
  | n + 1 =>
    match readVa s who (fring + (fwr + 65535) % 256 * 32) 32 with
    | .ok (_, bs) => if leAt bs 0 8 = s.gtsc % 2 ^ 64 then ringTail s who fring ((fwr + 65535) % 65536) n ++ [bs] else []
    | .error _ => []

/-- Write records at rising places of a fault ring. -/
def ringWrite (who : Who) (fring : Nat) : Nat → List (List Byte) → State → State
  | _, [], s => s
  | at_, bs :: rest, s =>
    let s1 := match writeVa s who none (fring + at_ % 256 * 32) bs with
      | .ok s1 => s1
      | .error _ => s
    ringWrite who fring (at_ + 1) rest s1

/-- Deliver a record to the fault ring of a context (R326, R327): written before bit 63 of the thread's intpend is set; a
ring with 256 unread records counts the record in OVF instead. Records of one GTSC stand in the order of their sources (R325). With no thread to name it goes to the hard core (R349). -/
def State.recThread (s : State) (tid src code kind loc : Nat) (value : W) : State :=
  let s := s.recHard src code kind loc value
  if tid = hostTid then s else
  match Tab.look s.mem.ctx (s.th tid).ctxid with
  | none => s.post tid 63
  | some c =>
    let base := s.mem.ctxBase + (s.th tid).ctxid * 64
    let frd := s.mem.word (base + 42) 2
    let keep := fun (s : State) (c : CtxDesc) => { s with mem := { s.mem with ctx := Tab.put s.mem.ctx (s.th tid).ctxid c } }
    let s1 :=
      if 256 ≤ (c.fwr + 65536 - frd) % 65536 then
        let n := if c.ovf = 0xffffffff then c.ovf else c.ovf + 1
        homeWrite (keep s { c with ovf := n }) none (base + 44) (toBytes 4 n)
      else
        let who : Who := ⟨dieOf tid, (s.th tid).ctxid, c.owner, true, none⟩
        let tail := ringTail s who c.fring.toNat c.fwr ((c.fwr + 65536 - frd) % 65536)
        let recs := insertBy bytesBefore (recBytes s.gtsc src code kind loc value.toNat) tail
        let s2 := ringWrite who c.fring.toNat (c.fwr + 65536 - tail.length) recs s
        let n := (c.fwr + 1) % 65536
        homeWrite (keep s2 { c with fwr := n }) none (base + 40) (toBytes 2 n)
    s1.post tid 63

/-! ### Tasks -/

/-- The thread runs a task that is not irrevocable: its accesses are tracked and buffered (R174). -/
def State.specul (s : State) (tid : Nat) : Option Task :=
  match s.taskOf tid with
  | some t => if t.irrev then none else some t
  | none => none

/-- Update a task by its identifier. -/
def State.onTask (s : State) (id : Nat) (f : Task → Task) : State :=
  { s with tasks := s.tasks.map fun t => if t.id = id then f t else t }

/-- gvt: the oldest uncommitted timestamp, all ones when there is none (R75). -/
def State.gvt (s : State) : W := match s.tasks with
  | [] => allOnes
  | t :: _ => w64 t.ts

/-- Insert a task in timestamp order, after equal ones (R34). -/
def insertTask (t : Task) (ts : List Task) : List Task := insertBy (fun a b => decide (a.ts < b.ts)) t ts

/-! ### The body of a word -/

/-- Why a word does not take effect now: a precise trap, or a wait. -/
inductive Stop where
  | trap (code : Nat) (xval : W)
  /-- A trap whose xval the spec does not state: a free value (log 2). -/
  | trapOpen (code : Nat)
  | stall (w : Why)
  deriving DecidableEq, Repr

/-- What a word does: the state with its effect, or why it has none. -/
abbrev Body := State → Except Stop State

/-- A trap that a failed translation raises (R158). -/
def pageStop (acc : Acc) (e : XKind × Nat) : Stop := .trap cPAGE (pageValue e.1 acc e.2)

/-- The pc moves past the word. -/
def advance (s : State) : State := s.onMe fun t => { t with pc := t.pc + 8 }

/-- Does the predicate of a word read true (R55)? -/
def predTrue (pg : BitVec 4) (t : Thread) : Bool := t.rp (pg.toNat % 8) ^^ bit pg.toNat 3

/-- Wait: STALLED until STALL_RESUME finds the condition, when the word issues again (R41). -/
def stallOn (w : Why) (s : State) : State := s.onMe fun t => { t with st := .stalled, why := w }

/-- Is a load or a DOPEN into the register of a specifier still outstanding (R72, R74)? -/
def Thread.awaits (t : Thread) (sp : Nat) : Bool :=
  (t.pend.any fun e => e.kind.isL && decide (e.kind ≠ .conv) && decide (e.kind ≠ .convr) && decide (e.d = sp) && decide (sp ≠ 0)) ||
  (decide (88 ≤ sp) && decide (sp < 104) && decide (sp - 88 ∈ t.hpend))

/-- The first of the read registers that awaits a load, in strict mode (R316). -/
def underWait (t : Thread) (srcs : List Spec) : Option Spec :=
  if t.strict then srcs.find? fun sp => t.awaits sp.toNat else none

/-- The first written register that a load will still write: the word waits, so that its own value stands (R72). -/
def heldDest (t : Thread) (dsts : List Spec) : Option Spec := dsts.find? fun sp => t.awaits sp.toNat

/-- Run a body in the frame of a thread-form word: the predicate (R55), strict mode (R316), held destinations (R72); a trap
leaves no effect (R62), a wait leaves no effect and the word issues again. `past` says whether the pc moves past the word. -/
def runBody (past : Bool) (pg : BitVec 4) (srcs dsts : List Spec) (body : Body) (s : State) : Out :=
  if !predTrue pg s.me then .next (advance s) else
  match underWait s.me srcs with
  | some sp => .next (takeTrap s.cur cSTRICT s.me.pc (w64 sp.toNat) s)
  | none =>
    match heldDest s.me dsts with
    | some sp => .next (stallOn (.loaded sp.toNat) s)
    | none =>
      match body s with
      | .ok s1 => .next (if past then advance s1 else s1)
      | .error (.trap c v) => .next (takeTrap s.cur c s.me.pc v s)
      | .error (.trapOpen c) => .next (takeTrap s.cur c s.me.pc (Config.freeValue s.fresh) { s with fresh := s.fresh + 1 })
      | .error (.stall w) => .next (stallOn w s)

/-- A word after which the pc moves on. -/
def issue (pg : BitVec 4) (srcs dsts : List Spec) (body : Body) (s : State) : Out := runBody true pg srcs dsts body s

/-- A word that sets the pc itself. -/
def issueJump (pg : BitVec 4) (srcs dsts : List Spec) (body : Body) (s : State) : Out := runBody false pg srcs dsts body s

/-- A word that its task may execute only when irrevocable (R175). -/
def needIrrev (s : State) : Except Stop Unit :=
  match s.specul s.cur with
  | some _ => .error (.stall .irrevocable)
  | none => .ok ()

/-- A privileged word (R339): PRIV when ctx.PRV is 0. -/
def needPrv (s : State) : Except Stop Unit := if s.me.prv then .ok () else .error (.trapOpen cPRIV)

/-- A counter that must be under 63 before the word raises it (R314): 0 L, 1 S, 2 C, 3 K. -/
def needRoom (which : Nat) (s : State) : Except Stop Unit :=
  let n := match which with
    | 0 => s.me.l
    | 1 => s.me.s
    | 2 => s.me.c
    | _ => s.me.k
  if 63 ≤ n then .error (.stall (.counter which)) else .ok ()

/-- A word that is a release: every earlier access of the thread has been performed (R194, R198). -/
def needRel (s : State) : Except Stop Unit := if s.me.pend.all Pend.done then .ok () else .error (.stall (.fence true true))

/-- A bounded word at an address must be aligned (R165). -/
def needAlign (va n : Nat) : Except Stop Unit := if va % n = 0 then .ok () else .error (.trap cALIGN (w64 va))

/-- An effective address: base plus signed offset, modulo 2^64 (R165). -/
def effAddr (base : W) (off : Int) : Nat := (base + wInt off).toNat

end Sys2Proof.Machine
end

