-- ==== Sys2Proof/Machine/Chan.lean ====
section
/-! DEFINITION. Invocations as others see them: accessors, channels, free-slot counters, q registers (spec 11_queues, R73). -/
namespace Sys2Proof.Machine

/-- The destination node and field of a target (R58): none when the field is 0b11. -/
def targetOf (t : BitVec 16) : Option (Nat × Nat) :=
  if bits t.toNat 1 0 = 3 then none else some (bits t.toNat 15 2, bits t.toNat 1 0)

/-- The targets of a node: which of the two, destination, field. -/
def Node.targets (n : Node) : List (Nat × Nat × Nat) :=
  (match targetOf n.w.t1 with | some (d, f) => [(0, d, f)] | none => []) ++
  (match targetOf n.w.t2 with | some (d, f) => [(1, d, f)] | none => [])

/-- A CHAN bound to a q register, and which (R231). -/
def chanBound (n : Node) : Bool := decide (n.op = 0x96) && bit n.ext1.toNat 13
def chanQ (n : Node) : Nat := fld n.ext1 12 9

/-- A CHAN that the launching thread writes: bound, with a target (R21). -/
def chanWritten (n : Node) : Bool := chanBound n && decide (n.targets ≠ [])

/-- The key of a producer's free-slot count for one of its targets: one count for a field or a channel (R37, R208; log 52), one for each
tag of an all-to-all channel (R212). -/
def usedKey (producer which tag : Nat) : Nat := (producer * 2 + which) * 65536 + tag

/-- The producer number of the thread that writes a channel. -/
def threadProducer (chan : Nat) : Nat := 20000 + chan

/-- The key of the free-slot count of a channel that a network's ROOT names: its Basin is the producer (R208, R283). -/
def rootKey (chan : Nat) : Nat := usedKey (threadProducer chan) 1 0

/-- The free slots a producer knows of at a queue of a capacity: at most 255 (R208). -/
def freeSlots (i : Inv) (key cap : Nat) : Nat := min 255 (cap - Tab.getD i.used key 0)

/-- Destinations of an all-to-all channel, 0 for a plain one (R231). -/
def aaDests (n : Node) : Nat := fld n.ext1 31 16

/-- The slots of a channel that its thread may fill: its tokens all carry the base tag, the tag of destination 0, whose reserved slot and the
shared ones they take (R73, R212). -/
def threadCap (n : Node) : Nat := if aaDests n = 0 then chanCap n else chanCap n + 1 - aaDests n

/-- Count one sent slot, one returned slot. -/
def Inv.take (i : Inv) (key : Nat) : Inv := { i with used := Tab.set i.used 0 key (Tab.getD i.used key 0 + 1) }
def Inv.give (i : Inv) (key : Nat) : Inv := { i with used := Tab.set i.used 0 key (Tab.getD i.used key 0 - 1) }

/-- The producer and target number that feed a field of a node (R37: exactly one). -/
def feeder (nodes : Tab Node) (dst field : Nat) : Option (Nat × Nat) :=
  (nodes.findSome? fun e => (e.2.targets.find? fun t => decide (t.2 = (dst, field))).map fun t => (e.1, t.1))

/-- Something happened in the region (R318): a firing, a token entering or leaving a channel, an engine reply, an FRS token. -/
def Inv.activity (i : Inv) (s : State) : Inv := { i with active := s.cycle, raised := false }

/-- Note activity in a region. -/
def State.active (s : State) (iid : Nat) : State := s.onInv iid fun i => i.activity s

/-- A freed slot of a channel: its credit goes back to the producer, a thread or a node (R208, R212). -/
def Inv.freeChan (i : Inv) (chan tag : Nat) : Inv :=
  match Tab.look i.nodes chan with
  | some n =>
    if chanWritten n then { i with credits := i.credits ++ [usedKey (threadProducer chan) 0 0] } else
    match feeder i.nodes chan 0 with
    | some (p, w) => { i with credits := i.credits ++ [usedKey p w (if aaDests n = 0 then 0 else tag)] }
    | none => { i with credits := i.credits ++ [rootKey chan] }
  | none => i

/-- A dequeue: the rest of the queue, and HEAD one further in a ring, which depth 0 does not keep (R207). -/
def Inv.popChan (i : Inv) (chan : Nat) (rest : List Tok) : Inv :=
  match Tab.look i.nodes chan with
  | some n => i.onSt chan fun x => { x with line := rest, head := if fld n.ext1 8 0 = 0 then 0 else (x.head + 1) % chanCap n }
  | none => i

/-- A token enters a queue of a node, of EXPERT's destination d or else d = 0: into an empty one, it does not leave in this cycle (R208). -/
def markQueued (s : State) (iid node d : Nat) (old : List Tok) : State := if old = [] then s.mark (.queued iid node d) else s

/-- Has the head of a queue entered it in this cycle? -/
def justQueued (s : State) (iid node d : Nat) : Bool := decide (.queued iid node d ∈ s.shot)

/-- End the binding of a q register that names a channel. -/
def unbindQ (t : Thread) (iid node : Nat) : Thread := { t with q := t.q.filter fun e => !(decide (e.2.iid = iid) && decide (e.2.node = node)) }

/-- The sinks of an invocation: nodes with both targets none, which include the channels a thread reads (R222). -/
def Inv.sinks (i : Inv) : List Nat := (i.nodes.filter fun e => decide (e.2.targets = [])).map Prod.fst

/-- Every sink has consumed end of stream (R222). -/
def Inv.finished (i : Inv) : Bool := i.sinks.all (fun n => (i.ct n).ended) && decide (i.sinks ≠ [])

/-! ### q registers (R73) -/

/-- The number of a q register in a specifier. -/
def qNo (sp : Spec) : Nat := sp.toNat - 72

/-- The head token of an inbound q register, or why there is none: PRIV for a wrong binding, a wait for an empty channel or for
an invocation that is held out (R73, R332). -/
def qHead (s : State) (sp : Spec) : Except Stop Tok :=
  match Tab.look s.me.q (qNo sp) with
  | none => .error (.trap cPRIV (w64 sp.toNat))
  | some b =>
    if b.out then .error (.trap cPRIV (w64 sp.toNat)) else
    match s.inv b.iid with
    | none => .error (.stall (.head (qNo sp)))
    | some i =>
      if i.phase = .out ∨ (i.ct b.node).saved then .error (.stall (.head (qNo sp))) else
      match (i.st b.node).line with
      | t :: _ => if t.flg.mrk || t.flg.frs || justQueued s b.iid b.node 0 then .error (.stall (.head (qNo sp))) else .ok t
      | [] => .error (.stall (.head (qNo sp)))

/-- Dequeue an inbound q register (R73): the slot goes back; a token with EOS ends the binding and is the sink's end (R31). -/
def qDeq (s : State) (sp : Spec) : State :=
  match Tab.look s.me.q (qNo sp) with
  | none => s
  | some b =>
    match s.inv b.iid with
    | none => s
    | some i =>
      match (i.st b.node).line with
      | [] => s
      | t :: rest =>
        let i1 := ((i.popChan b.node rest).freeChan b.node t.tag).activity s
        if t.flg.eos then
          (s.putInv b.iid (i1.onCt b.node fun c => { c with ended := true })).onMe fun th => unbindQ th b.iid b.node
        else s.putInv b.iid i1

/-- Is there a free slot for an outbound q register (R73, R208)? Thread writes to a draining region stall (R334). -/
def qSpace (s : State) (sp : Spec) : Except Stop Unit :=
  match Tab.look s.me.q (qNo sp) with
  | none => .error (.trap cPRIV (w64 sp.toNat))
  | some b =>
    if !b.out then .error (.trap cPRIV (w64 sp.toNat)) else
    match s.inv b.iid with
    | none => .error (.stall (.space (qNo sp)))
    | some i =>
      match Tab.look i.nodes b.node with
      | none => .error (.stall (.space (qNo sp)))
      | some n =>
        if i.phase = .out ∨ i.phase = .drain ∨ (i.ct b.node).saved then .error (.stall (.space (qNo sp)))
        else if freeSlots i (usedKey (threadProducer b.node) 0 0) (threadCap n) = 0 then .error (.stall (.space (qNo sp)))
        else .ok ()

/-- Reserve the slot an enqueue will take (R73). -/
def qReserve (s : State) (sp : Spec) : State :=
  match Tab.look s.me.q (qNo sp) with
  | none => s
  | some b => s.onInv b.iid fun i => i.take (usedKey (threadProducer b.node) 0 0)

/-- Enqueue a value in a reserved slot: base tag, all flags clear (R73). -/
def qPut (s : State) (tid : Nat) (sp : Spec) (v : W) : State :=
  match Tab.look (s.th tid).q (qNo sp) with
  | none => s
  | some b =>
    match s.inv b.iid with
    | none => s
    | some i =>
      markQueued (s.putInv b.iid ((i.onSt b.node fun x => { x with line := x.line ++ [⟨v, baseTag b.iid, .zero, 0⟩] }).activity s)) b.iid b.node 0
        (i.st b.node).line

/-- Does a specifier name a q register? -/
def anyQ (sps : List Spec) : Bool := sps.any isQ

/-- An instruction that names a q register makes its task irrevocable (R175). -/
def needQ (sps : List Spec) (s : State) : Except Stop Unit := if anyQ sps then needIrrev s else .ok ()

/-- The value of one value source: g or q (R57, R73). -/
def srcV (s : State) (sp : Spec) : Except Stop W :=
  if isQ sp then (qHead s sp).map Tok.v else .ok (s.me.rg sp.toNat)

/-- After an acquire no load returns what a chunk overwrote (`earlyRead`). -/
def Thread.sync (acq : Bool) (t : Thread) : Thread := if acq then { t with stale := [] } else t

/-- Dequeue every q register among the sources, each once (R73): a read is an acquire (R198). -/
def deqAll (sps : List Spec) (s : State) : State :=
  match (sps.filter isQ).eraseDups with
  | [] => s
  | qs => qs.foldl qDeq (s.onMe (Thread.sync true))

/-- Write a value destination: a g register, or a token on a q register, which is a release (R57, R73, R198). -/
def putV (d : Spec) (v : W) (s : State) : Except Stop State :=
  if isQ d then
    match needRel s, qSpace s d with
    | .ok _, .ok _ => .ok (qPut (qReserve s d) s.cur d v)
    | .error e, _ => .error e
    | _, .error e => .error e
  else .ok (s.onMe fun t => t.wg d.toNat v)

end Sys2Proof.Machine
end

