-- ==== Sys2Proof/Machine/Flags.lean ====
section
/-! DEFINITION. The sticky flags, and the integer model's values, wrapping and saturation (R76, R85, R104). -/
namespace Sys2Proof.Machine

/-- The flags of fflags 4:0 (R76). -/
def fNV : Nat := 1
def fOF : Nat := 2
def fUF : Nat := 4
def fNX : Nat := 8
def fSA : Nat := 16

/-- A flag when a condition holds. -/
def flagIf (c : Bool) (f : Nat) : Nat := if c then f else 0

/-- The width of an integer type (R85). -/
def iw (fn : Nat) : Nat := 8 <<< (fn % 4)

/-- The i types are signed (R85). -/
def isSigned (fn : Nat) : Bool := decide (fn / 4 % 2 = 0)

/-- Val of R85: the low w bits, signed or unsigned. -/
def valOf (fn : Nat) (v : Nat) : Int := if isSigned fn then sext v (iw fn) else (v % 2 ^ iw fn : Nat)

/-- The least and the greatest value of a type (R104). -/
def loOf (fn : Nat) : Int := if isSigned fn then -(2 ^ (iw fn - 1) : Nat) else 0
def hiOf (fn : Nat) : Int := if isSigned fn then (2 ^ (iw fn - 1) : Nat) - 1 else (2 ^ iw fn : Nat) - 1

/-- Sat of R27: the clamped value. -/
def clampTo (fn : Nat) (x : Int) : Int := if x < loOf fn then loOf fn else if hiOf fn < x then hiOf fn else x

/-- The low w bits of an integer. -/
def lowBits (fn : Nat) (x : Int) : Nat := (x % (2 ^ iw fn : Nat)).toNat

/-- The last lines of R85: saturate or wrap, then extend to 64 bits by type. -/
def finInt (fn : Nat) (sat : Bool) (x : Int) : BitVec 64 × Nat :=
  if sat then (wInt (clampTo fn x), flagIf (decide (clampTo fn x ≠ x)) fSA)
  else (wInt (valOf fn (lowBits fn x)), 0)

end Sys2Proof.Machine
end

