-- ==== Sys2Proof/Machine/Operands.lean ====
section
/-! DEFINITION. Operand forms: the modifiers of MD, reading sources, writing destinations, effective addresses (R53 to R57, R73, R84). -/
namespace Sys2Proof.Machine

/-- The MD fields of R54. -/
def mdRM (md : Nat) : Nat := bits md 17 16
def mdSAT (md : Nat) : Bool := bit md 15
def mdNEGA (md : Nat) : Bool := bit md 14
def mdNEGB (md : Nat) : Bool := bit md 13
def mdABSA (md : Nat) : Bool := bit md 12

/-- A pure operation: FN and MD, then the operands A, B and C; its result and flags. -/
abbrev Pure3 := Nat → Nat → W → W → W → W × Nat

/-- A word that computes one value from value sources and writes it to D (R73, R76, R85, R125). -/
def computeT3 (f : Pure3) (useC : Bool) (x : T3) (s : State) : Out :=
  let srcs := if useC then [x.a, x.b, x.c] else [x.a, x.b]
  issue x.pg srcs [x.d] (fun s => do
    needQ (x.d :: srcs) s
    let a ← srcV s x.a
    let b ← srcV s x.b
    let c ← if useC then srcV s x.c else .ok 0
    let r := f x.fn.toNat x.md.toNat a b c
    let s1 ← putV x.d r.1 (deqAll srcs s)
    .ok (s1.onMe fun t => t.orFlags r.2)) s

/-- A word that computes one value from A and an immediate and writes it to D. -/
def computeTI (f : Nat → Nat → W → W × Nat) (x : TI) (s : State) : Out :=
  issue x.pg [x.a] [x.d] (fun s => do
    needQ [x.d, x.a] s
    let a ← srcV s x.a
    let r := f x.fn.toNat x.imm.toNat a
    let s1 ← putV x.d r.1 (deqAll [x.a] s)
    .ok (s1.onMe fun t => t.orFlags r.2)) s

/-- A word that compares A and B and writes predicate D (R91, R127): the condition comes from CIMM. -/
def compareT3 (f : Nat → Nat → Nat → W → W → Bool × Nat) (x : T3) (s : State) : Out :=
  issue x.pg [x.a, x.b] [] (fun s => do
    needQ [x.a, x.b] s
    let a ← srcV s x.a
    let b ← srcV s x.b
    let r := f x.fn.toNat x.md.toNat x.c.toNat a b
    .ok ((deqAll [x.a, x.b] s).onMe fun t => (t.wp (x.d.toNat - 64) r.1).orFlags r.2)) s

/-- The address of a TM operand (R51, R165). -/
def addrTM (x : TM) (s : State) : Nat := effAddr (s.me.rg x.a.toNat) (sext x.off.toNat 25)

/-- The address of an indexed operand: base, index shifted by CIMM, 18-bit offset (R53). -/
def addrT3 (x : T3) (s : State) : Nat :=
  effAddr (s.me.rg x.a.toNat + (s.me.rg x.b.toNat <<< x.c.toNat)) (sext x.md.toNat 18)

end Sys2Proof.Machine
end

