-- ==== Sys2Proof/Machine/Integer.lean ====
section
/-! DEFINITION. Integer instructions, opcodes 0x00 to 0x1C (spec 05_integer R85 to R96). -/
namespace Sys2Proof.Machine

/-- Operand A after ABSA and NEGA, operand B after NEGB (R85). -/
def opA (fn md : Nat) (a : W) : Int :=
  let v := valOf fn a.toNat
  let v := if mdABSA md then (v.natAbs : Int) else v
  if mdNEGA md then -v else v
def opB (fn md : Nat) (b : W) : Int := if mdNEGB md then -valOf fn b.toNat else valOf fn b.toNat

/-- The w-bit pattern of an operand (R88). -/
def pat (fn : Nat) (a : W) : Nat := a.toNat % 2 ^ iw fn

/-- A result pattern, written as y in R85. -/
def finPat (fn : Nat) (p : Nat) : W × Nat := (wInt (valOf fn p), 0)

/-- R87, one exact result each. -/
def intAdd : Pure3 := fun fn md a b _ => finInt fn (mdSAT md) (opA fn md a + opB fn md b)
def intSub : Pure3 := fun fn md a b _ => finInt fn (mdSAT md) (opA fn md a - opB fn md b)
def intMul : Pure3 := fun fn md a b _ => finInt fn (mdSAT md) (opA fn md a * opB fn md b)
def intMulh : Pure3 := fun fn _ a b _ => finInt fn false ((valOf fn a.toNat * valOf fn b.toNat) / (2 ^ iw fn : Nat))
def intDiv : Pure3 := fun fn md a b _ =>
  if valOf fn b.toNat = 0 then (wInt (valOf fn (2 ^ iw fn - 1)), fNV)
  else finInt fn (mdSAT md) ((valOf fn a.toNat).tdiv (valOf fn b.toNat))
def intRem : Pure3 := fun fn md a b _ =>
  if valOf fn b.toNat = 0 then (wInt (valOf fn a.toNat), fNV)
  else finInt fn (mdSAT md) ((valOf fn a.toNat).tmod (valOf fn b.toNat))
def intMin : Pure3 := fun fn _ a b _ =>
  finInt fn false (if valOf fn a.toNat ≤ valOf fn b.toNat then valOf fn a.toNat else valOf fn b.toNat)
def intMax : Pure3 := fun fn _ a b _ =>
  finInt fn false (if valOf fn a.toNat ≤ valOf fn b.toNat then valOf fn b.toNat else valOf fn a.toNat)
def intAbs : Pure3 := fun fn md a _ _ => finInt fn (mdSAT md) ((valOf fn a.toNat).natAbs : Int)
def intNeg : Pure3 := fun fn md a _ _ => finInt fn (mdSAT md) (-valOf fn a.toNat)
def intAnd : Pure3 := fun fn _ a b _ => finPat fn (pat fn a &&& pat fn b)
def intOr : Pure3 := fun fn _ a b _ => finPat fn (pat fn a ||| pat fn b)
def intXor : Pure3 := fun fn _ a b _ => finPat fn (pat fn a ^^^ pat fn b)
def intAndn : Pure3 := fun fn _ a b _ => finPat fn (pat fn a &&& (2 ^ iw fn - 1 - pat fn b))
def intMadd : Pure3 := fun fn md a b c => finInt fn (mdSAT md) (opA fn md a * opB fn md b + valOf fn c.toNat)

/-- R88: shifts, rotate and counts on the w-bit pattern; the amount is B<6:0>. -/
def intShl : Pure3 := fun fn _ a b _ => finPat fn ((pat fn a <<< (b.toNat % 128)) % 2 ^ iw fn)
def intShr : Pure3 := fun fn _ a b _ => finPat fn (pat fn a >>> (b.toNat % 128))
def intSar : Pure3 := fun fn _ a b _ => finPat fn (lowBits fn (sext (pat fn a) (iw fn) >>> (b.toNat % 128)))
def intRol : Pure3 := fun fn _ a b _ =>
  let r := b.toNat % 128 % iw fn
  finPat fn ((pat fn a <<< r) % 2 ^ iw fn ||| pat fn a >>> (iw fn - r))
def intPopc : Pure3 := fun fn _ a _ _ => finPat fn (popc (iw fn) (pat fn a))
def intClz : Pure3 := fun fn _ a _ _ => finPat fn (iw fn - bitLen (pat fn a))
def intCtz : Pure3 := fun fn _ a _ _ => finPat fn (ctz (iw fn) (pat fn a))

/-- R92: SEL on a condition. -/
def intSel (c : Bool) : Pure3 := fun fn _ a b _ => (wInt (valOf fn (if c then a else b).toNat), 0)

/-- R94: clamp a signed 64-bit value to the type. -/
def intSatn : Pure3 := fun fn _ a _ _ => finInt fn true (sext a.toNat 64)

/-- R95. -/
def intHash : Pure3 := fun _ _ a b _ => (hash64 a b, 0)

/-- R90, R96: a field of length LEN at POS; node form takes POS mod w and cuts LEN to w − POS, which changes nothing for a
field that thread form accepts. -/
def fldPos (fn imm : Nat) : Nat := bits imm 5 0 % iw fn
def fldLen (fn imm : Nat) : Nat := min (bits imm 14 8) (iw fn - fldPos fn imm)
def intBfx (fn imm : Nat) (a : W) : W × Nat :=
  let f := (a.toNat >>> fldPos fn imm) % 2 ^ fldLen fn imm
  (if isSigned fn then wInt (sext f (fldLen fn imm)) else w64 f, 0)
def intBfi (fn imm : Nat) (a base : W) : W × Nat :=
  let mask := (2 ^ fldLen fn imm - 1) <<< fldPos fn imm
  finPat fn ((pat fn base &&& (2 ^ iw fn - 1 - mask)) ||| ((a.toNat <<< fldPos fn imm) &&& mask))

/-- R93. -/
def intAddi (fn imm : Nat) (a : W) : W × Nat := finInt fn false (valOf fn a.toNat + sext imm 32)

/-- The order conditions of R56. -/
def ordCond (cond : Nat) (lt eq : Bool) : Bool :=
  match cond with
  | 0 => eq
  | 1 => !eq
  | 2 => lt
  | 3 => lt || eq
  | 4 => !lt && !eq
  | _ => !lt

/-- R91. -/
def intCmp (fn _md cond : Nat) (a b : W) : Bool × Nat :=
  (ordCond cond (decide (valOf fn a.toNat < valOf fn b.toNat)) (decide (valOf fn a.toNat = valOf fn b.toNat)), 0)

/-! ### Meanings -/

/-- ADD (R87). -/
def execAdd (x : T3) (s : State) : Out := computeT3 intAdd false x s
/-- SUB (R87). -/
def execSub (x : T3) (s : State) : Out := computeT3 intSub false x s
/-- MUL (R87). -/
def execMul (x : T3) (s : State) : Out := computeT3 intMul false x s
/-- MULH (R87). -/
def execMulh (x : T3) (s : State) : Out := computeT3 intMulh false x s
/-- DIV (R87). -/
def execDiv (x : T3) (s : State) : Out := computeT3 intDiv false x s
/-- REM (R87). -/
def execRem (x : T3) (s : State) : Out := computeT3 intRem false x s
/-- MIN (R87). -/
def execMin (x : T3) (s : State) : Out := computeT3 intMin false x s
/-- MAX (R87). -/
def execMax (x : T3) (s : State) : Out := computeT3 intMax false x s
/-- ABS (R87). -/
def execAbs (x : T3) (s : State) : Out := computeT3 intAbs false x s
/-- NEG (R87). -/
def execNeg (x : T3) (s : State) : Out := computeT3 intNeg false x s
/-- AND (R87). -/
def execAnd (x : T3) (s : State) : Out := computeT3 intAnd false x s
/-- OR (R87). -/
def execOr (x : T3) (s : State) : Out := computeT3 intOr false x s
/-- XOR (R87). -/
def execXor (x : T3) (s : State) : Out := computeT3 intXor false x s
/-- ANDN (R87). -/
def execAndn (x : T3) (s : State) : Out := computeT3 intAndn false x s
/-- SHL (R88). -/
def execShl (x : T3) (s : State) : Out := computeT3 intShl false x s
/-- SHR (R88). -/
def execShr (x : T3) (s : State) : Out := computeT3 intShr false x s
/-- SAR (R88). -/
def execSar (x : T3) (s : State) : Out := computeT3 intSar false x s
/-- ROL (R88). -/
def execRol (x : T3) (s : State) : Out := computeT3 intRol false x s
/-- POPC (R88). -/
def execPopc (x : T3) (s : State) : Out := computeT3 intPopc false x s
/-- CLZ (R88). -/
def execClz (x : T3) (s : State) : Out := computeT3 intClz false x s
/-- CTZ (R88). -/
def execCtz (x : T3) (s : State) : Out := computeT3 intCtz false x s
/-- BFX (R90). -/
def execBfx (x : TI) (s : State) : Out := computeTI intBfx x s
/-- BFI (R90): D is read and written, so in strict mode it counts as a source (R316). -/
def execBfi (x : TI) (s : State) : Out :=
  issue x.pg [x.a, x.d] [x.d] (fun s => do
    needQ [x.a] s
    let a ← srcV s x.a
    let s1 ← putV x.d (intBfi x.fn.toNat x.imm.toNat a (s.me.rg x.d.toNat)).1 (deqAll [x.a] s)
    .ok s1) s
/-- CMP (R91). -/
def execCmp (x : T3) (s : State) : Out := compareT3 intCmp x s
/-- SEL (R92): both q sources are dequeued, whichever is chosen. -/
def execSel (x : T3) (s : State) : Out := computeT3 (intSel (s.me.rp (x.c.toNat - 64))) false x s
/-- ADDI (R93). -/
def execAddi (x : TI) (s : State) : Out := computeTI intAddi x s
/-- MADD (R87). -/
def execMadd (x : T3) (s : State) : Out := computeT3 intMadd true x s
/-- SATN (R94). -/
def execSatn (x : T3) (s : State) : Out := computeT3 intSatn false x s
/-- HASH (R95). -/
def execHash (x : T3) (s : State) : Out := computeT3 intHash false x s

end Sys2Proof.Machine
end

