-- ==== Sys2Proof/Machine/Number.lean ====
section
/-! DEFINITION. The number formats, exact values and the one rounding function (spec 06_numbers R105 to R114). -/
namespace Sys2Proof.Machine

/-! ### Formats -/

/-- A scalar floating format (R105): precision with the hidden bit, width of the exponent field, bias, exponent and significand of
the largest finite value, infinity, NaN, the code of the canonical NaN (R106). -/
structure Fmt where
  p : Nat
  eb : Nat
  bias : Nat
  emax : Int
  mmax : Nat
  inf : Bool
  nan : Bool
  canon : Nat
  deriving DecidableEq, Repr

/-- R105 and R106, by format. -/
def fF32 : Fmt := ⟨24, 8, 127, 127, 0xffffff, true, true, 0x7fc00000⟩
def fBF16 : Fmt := ⟨8, 8, 127, 127, 0xff, true, true, 0x7fc0⟩
def fH16 : Fmt := ⟨11, 5, 15, 15, 0x7ff, true, true, 0x7e00⟩
def fE4M3 : Fmt := ⟨4, 4, 7, 8, 14, false, true, 0x7f⟩
def fE5M2 : Fmt := ⟨3, 5, 15, 15, 7, true, true, 0x7e⟩
def fE2M1 : Fmt := ⟨2, 2, 1, 2, 3, false, false, 0⟩

/-- The format of a code of R108; F32 stands for a code that names no scalar floating format. -/
def fmtOf (code : Nat) : Fmt :=
  match code with
  | 9 => fBF16
  | 10 => fH16
  | 11 => fE4M3
  | 12 => fE5M2
  | _ => fF32

/-- The exponent of the smallest normal value, and of the smallest subnormal. -/
def Fmt.emin (f : Fmt) : Int := 1 - (f.bias : Int)
def Fmt.qmin (f : Fmt) : Int := f.emin - ((f.p : Int) - 1)

/-- The place of the sign bit. -/
def Fmt.signBit (f : Fmt) : Nat := f.p - 1 + f.eb

/-- A code with its sign. -/
def Fmt.signed (f : Fmt) (neg : Bool) (c : Nat) : Nat := b2n neg * 2 ^ f.signBit + c

/-- The codes of the largest finite value and of infinity. -/
def Fmt.maxCode (f : Fmt) : Nat := ((f.emax + f.bias).toNat) * 2 ^ (f.p - 1) + (f.mmax - 2 ^ (f.p - 1))
def Fmt.infCode (f : Fmt) : Nat := (2 ^ f.eb - 1) * 2 ^ (f.p - 1)

/-! ### Values -/

/-- The value of an encoding: NaN (signalling or not), an infinity, or (−1)^neg × m × 2^e. -/
inductive FV where
  | nan (sig : Bool)
  | inf (neg : Bool)
  | fin (neg : Bool) (m : Nat) (e : Int)
  deriving DecidableEq, Repr

/-- An exact result to be rounded: NaN, an infinity, or a magnitude that is m × 2^e or, when `st` is set, lies strictly between
m × 2^e and (m + 1) × 2^e. -/
inductive XV where
  | nan
  | inf (neg : Bool)
  | val (neg : Bool) (m : Nat) (e : Int) (st : Bool)
  deriving DecidableEq, Repr

/-- Dec of R125: the value that R105 gives an encoding. Only F32, BF16 and H16 have signalling NaNs (R106). -/
def dec (f : Fmt) (v : Nat) : FV :=
  let neg := bit v f.signBit
  let fr := v % 2 ^ (f.p - 1)
  let ef := v / 2 ^ (f.p - 1) % 2 ^ f.eb
  if f.inf && decide (ef = 2 ^ f.eb - 1) then
    if fr = 0 then .inf neg else .nan (decide (8 ≤ f.p) && decide (fr < 2 ^ (f.p - 2)))
  else if f.nan && !f.inf && decide (ef = 2 ^ f.eb - 1) && decide (fr = 2 ^ (f.p - 1) - 1) then .nan false
  else if ef = 0 then .fin neg fr f.qmin
  else .fin neg (2 ^ (f.p - 1) + fr) ((ef : Int) - f.bias - ((f.p : Int) - 1))

/-- The value of an E8M0 scale (R107). -/
def decE8 (v : Nat) : FV := if v % 256 = 255 then .nan false else .fin false 1 ((v % 256 : Nat) - 127 : Int)

/-- A value as an exact result. -/
def FV.exact : FV → XV
  | .nan _ => .nan
  | .inf n => .inf n
  | .fin n m e => .val n m e false

/-- Is a value a NaN, a signalling NaN? -/
def FV.isNan : FV → Bool
  | .nan _ => true
  | .inf _ | .fin _ _ _ => false
def FV.isSig : FV → Bool
  | .nan g => g
  | .inf _ | .fin _ _ _ => false

/-- The sign modifiers of R125. -/
def FV.absIf (c : Bool) : FV → FV
  | .nan g => .nan g
  | .inf n => .inf (n && !c)
  | .fin n m e => .fin (n && !c) m e
def FV.negIf (c : Bool) : FV → FV
  | .nan g => .nan g
  | .inf n => .inf (n ^^ c)
  | .fin n m e => .fin (n ^^ c) m e

/-- Multiplication by a power of two. -/
def FV.scale (k : Int) : FV → FV
  | .nan g => .nan g
  | .inf n => .inf n
  | .fin n m e => .fin n m (e + k)

/-- floor(log2 |x|) of a nonzero finite value. -/
def topExp (m : Nat) (e : Int) : Int := e + (bitLen m : Int) - 1

/-! ### Rounding (R112) -/

/-- The rounding modes of RM: 0 RNE, 1 RZ, 2 RD, 3 RU. A shift right by k with the mode: the integer, and whether it differs. -/
def roundShift (mode : Nat) (neg : Bool) (m k : Nat) (st : Bool) : Nat × Bool :=
  let k := min k (bitLen m + 2)
  let q := m >>> k
  let r := m % 2 ^ k
  let inexact := decide (r ≠ 0) || st
  let up := match mode with
    | 0 => decide (2 ^ k < 2 * r) || (decide (k ≠ 0) && decide (2 * r = 2 ^ k) && (st || decide (q % 2 = 1)))
    | 1 => false
    | 2 => neg && inexact
    | _ => !neg && inexact
  (if up then q + 1 else q, inexact)

/-- The magnitude m × 2^e rounded to a multiple of 2^q. -/
def roundTo (mode : Nat) (neg : Bool) (m : Nat) (e q : Int) (st : Bool) : Nat × Bool :=
  if e ≤ q then roundShift mode neg m (q - e).toNat st else (m <<< (e - q).toNat, st)

/-- A rounded result: its code, its flags, whether it overflowed a finite x, whether the code is an infinity. -/
structure Rounded where
  code : Nat
  flags : Nat
  big : Bool
  isInf : Bool
  deriving DecidableEq, Repr

/-- The overflow tables of R112. -/
def overflowed (f : Fmt) (mode : Nat) (neg : Bool) : Rounded :=
  let toInf := f.inf && (match mode with | 0 => true | 1 => false | 2 => neg | _ => !neg)
  ⟨f.signed neg (if toInf then f.infCode else f.maxCode), fOF ||| fNX, true, toInf⟩

/-- Round(x, fmt, mode) of R112. An infinity that enters a format without infinities becomes the largest finite value (R130). -/
def round (f : Fmt) (mode : Nat) : XV → Rounded
  | .nan => ⟨f.canon, 0, false, false⟩
  | .inf n => if f.inf then ⟨f.signed n f.infCode, 0, false, true⟩ else ⟨f.signed n f.maxCode, fOF, true, false⟩
  | .val n m e st =>
    if m = 0 then ⟨f.signed n 0, 0, false, false⟩
    else
      let top := topExp m e
      if top > f.emax + 1 then overflowed f mode n
      else
        let r := roundTo mode n m e (top - ((f.p : Int) - 1)) st
        let carry := decide (r.1 = 2 ^ f.p)
        let mm := if carry then 2 ^ (f.p - 1) else r.1
        let t := if carry then top + 1 else top
        if t > f.emax ∨ (t = f.emax ∧ mm > f.mmax) then overflowed f mode n
        else if t < f.emin then
          let s := roundTo mode n m e f.qmin st
          ⟨f.signed n s.1, if s.2 then fUF ||| fNX else 0, false, false⟩
        else ⟨f.signed n ((t + f.bias).toNat * 2 ^ (f.p - 1) + (mm - 2 ^ (f.p - 1))), if r.2 then fNX else 0, false, false⟩

/-- The last lines of R125: SAT. -/
def saturate (f : Fmt) (sat : Bool) (r : Rounded) (neg : Bool) : Nat × Nat :=
  if sat && r.big && (r.isInf || !f.inf) then (f.signed neg f.maxCode, (r.flags &&& (31 - fOF)) ||| fSA) else (r.code, r.flags)

/-- The sign of an exact result. -/
def XV.neg : XV → Bool
  | .nan => false
  | .inf n => n
  | .val n _ _ _ => n

/-- Round, then SAT. -/
def roundSat (f : Fmt) (mode : Nat) (sat : Bool) (x : XV) : Nat × Nat := saturate f sat (round f mode x) x.neg

/-! ### Exact arithmetic (R126) -/

/-- The signed significand of a finite value at an exponent that is not above its own. -/
def sigAt (n : Bool) (m : Nat) (e q : Int) : Int :=
  let v : Int := (m <<< (e - q).toNat : Nat)
  if n then -v else v

/-- An exact real from a signed significand; a zero takes the sign given. -/
def ofSig (v e : Int) (zero : Bool) : XV := if v = 0 then .val zero 0 0 false else .val (decide (v < 0)) v.natAbs e false

/-- a + b, and the invalid flag (R126); the sign of an exact zero by R112 step 6. -/
def xadd (mode : Nat) : FV → FV → XV × Nat
  | .nan _, _ => (.nan, 0)
  | _, .nan _ => (.nan, 0)
  | .inf a, .inf b => if a = b then (.inf a, 0) else (.nan, fNV)
  | .inf a, .fin _ _ _ => (.inf a, 0)
  | .fin _ _ _, .inf b => (.inf b, 0)
  | .fin n m e, .fin n' m' e' =>
    let q := if e ≤ e' then e else e'
    let zero := if m = 0 ∧ m' = 0 ∧ n = n' then n else decide (mode = 2)
    (ofSig (sigAt n m e q + sigAt n' m' e' q) q zero, 0)

/-- a × b, and the invalid flag (R126). -/
def xmul : FV → FV → FV × Nat
  | .nan _, _ => (.nan false, 0)
  | _, .nan _ => (.nan false, 0)
  | .inf a, .inf b => (.inf (a ^^ b), 0)
  | .inf a, .fin n m _ => if m = 0 then (.nan false, fNV) else (.inf (a ^^ n), 0)
  | .fin n m _, .inf b => if m = 0 then (.nan false, fNV) else (.inf (n ^^ b), 0)
  | .fin n m e, .fin n' m' e' => (.fin (n ^^ n') (m * m') (e + e'), 0)

/-! ### Functions (R128) -/

/-- floor of the square root, bit by bit from bit n − 1. -/
def isqrt (v : Nat) : Nat → Nat → Nat
  | 0, r => r
  | n + 1, r => if (r + 2 ^ n) * (r + 2 ^ n) ≤ v then isqrt v n (r + 2 ^ n) else isqrt v n r

/-- 1 ÷ (m × 2^e), truncated with a sticky bit. -/
def xrcp (neg : Bool) (m : Nat) (e : Int) : XV :=
  let k := bitLen m + 64
  .val neg (2 ^ k / m) (-(k : Int) - e) (decide (2 ^ k % m ≠ 0))

/-- 1 ÷ √(m × 2^e), truncated with a sticky bit. -/
def xrsq (m : Nat) (e : Int) : XV :=
  let m' := if e % 2 = 0 then m else 2 * m
  let e' := if e % 2 = 0 then e else e - 1
  let k := bitLen m' + 64
  let v := 2 ^ (2 * k) / m'
  let r := isqrt v (k + 1) 0
  .val false r (-(k : Int) - e' / 2) (decide (r * r * m' ≠ 2 ^ (2 * k)))

/-- The fixed-point precision of the transcendentals (log 7). -/
def fxP : Nat := 448

/-- e^r in fixed point, for a fixed-point r of at most 1 in magnitude: the series to 110 terms. -/
def expSeries (r : Int) : Nat → Nat → Int → Int → Int
  | 0, _, _, acc => acc
  | n + 1, k, term, acc =>
    let t := term * r / ((2 ^ fxP : Nat) : Int) / (k : Int)
    expSeries r n (k + 1) t (acc + t)

/-- e^r in fixed point for a fixed-point r. -/
def fxExp (r : Int) : Int := expSeries r 110 1 (2 ^ fxP : Nat) (2 ^ fxP : Nat)

/-- The odd terms of 2 × artanh(1/3). -/
def ln2Series : Nat → Nat → Nat → Nat → Nat
  | 0, _, _, acc => acc
  | n + 1, k, term, acc => ln2Series n (k + 2) (term / 9) (acc + 2 * term / k)

/-- ln 2 in fixed point. -/
def fxLn2 : Int := (ln2Series 150 1 (2 ^ fxP / 3) 0 : Nat)

/-- A finite value in fixed point, rounded down. -/
def fxOf (neg : Bool) (m : Nat) (e : Int) : Int :=
  let s := e + fxP
  let v : Int := if 0 ≤ s then ((m <<< s.toNat : Nat) : Int) else (m >>> (-s).toNat : Nat)
  if neg then -v else v

/-- 2^(n + f) for a fixed-point fraction f, not exact unless f is zero. -/
def xpow2 (x : Int) : XV :=
  let one : Int := (2 ^ fxP : Nat)
  let n := x / one
  let f := x % one
  if f = 0 then .val false 1 n false else .val false (fxExp (f * fxLn2 / one)).toNat (n - fxP) true

/-- 2^a for a finite a. -/
def xexp2 (neg : Bool) (m : Nat) (e : Int) : XV :=
  if 12 ≤ topExp m e ∧ m ≠ 0 then .val false 1 (if neg then -5000 else 5000) true else xpow2 (fxOf neg m e)

/-- Bits of log2 z for z in [1, 2), by repeated squaring at 2 × fxP bits. -/
def log2Bits : Nat → Nat → Nat → Nat
  | 0, _, acc => acc
  | n + 1, z, acc =>
    let one := 2 ^ (2 * fxP)
    let y := z * z / one
    if 2 * one ≤ y then log2Bits n (y / 2) (2 * acc + 1) else log2Bits n y (2 * acc)

/-- log2 (m × 2^e) for a positive value, to 256 bits. -/
def xlog2 (m : Nat) (e : Int) : XV :=
  let top := topExp m e
  let z := m * 2 ^ (2 * fxP) / 2 ^ (bitLen m - 1)
  if m = 2 ^ (bitLen m - 1) then ofSig top 0 false
  else
    let v := top * ((2 ^ 256 : Nat) : Int) + (log2Bits 256 z 0 : Nat)
    if v < 0 then .val true (-v - 1).toNat (-256) true else .val false v.toNat (-256) true

/-- e^x in fixed point for a fixed-point x, as a fixed-point significand and a power of two. -/
def fxExpBig (x : Int) : Int × Int :=
  let n := x / fxLn2
  (fxExp (x - n * fxLn2), n)

/-- e^x for a fixed-point x as a natural number at fxP + 600 fraction bits. -/
def fxExpAt (x : Int) : Nat :=
  let r := fxExpBig x
  let s := r.2 + 600
  if 0 ≤ s then r.1.toNat <<< s.toNat else 0

/-- tanh |a|, with the sign of a. -/
def xtanh (neg : Bool) (m : Nat) (e : Int) : XV :=
  let top := topExp m e
  if 6 ≤ top then .val neg (2 ^ 200 - 1) (-200) true
  else if top < -40 then .val neg (m * 2 ^ 100 - 1) (e - 100) true
  else
    let x := fxExpAt (2 * fxOf false m e)
    let one := 2 ^ (fxP + 600)
    .val neg ((x - one) * 2 ^ 300 / (x + one)) (-300) true

/-- 1 ÷ (1 + e^−a) for a nonzero a. -/
def xsigm (neg : Bool) (m : Nat) (e : Int) : XV :=
  let top := topExp m e
  if 8 ≤ top then (if neg then .val false 1 (-400) true else .val false (2 ^ 200 - 1) (-200) true)
  else
    let x := fxExpAt (fxOf (!neg) m e)
    let one := 2 ^ (fxP + 600)
    .val false (2 ^ 700 * one / (one + x)) (-700) true

/-! ### Blocks (R109, R110, R113, R114) -/

/-- m of a BX code (R108). -/
def bxM (code : Nat) : Nat := code - 0x10

/-- The element format of an MX code (R109). -/
def mxFmt (code : Nat) : Fmt := if code = 0x0e then fE4M3 else if code = 0x0f then fE5M2 else fE2M1

/-- The bits of one element of a block code. -/
def elemBits (code : Nat) : Nat := if isBXc code then bxM code else if code = 0x10 then 4 else 8
where isBXc (c : Nat) : Bool := decide (0x12 ≤ c) && decide (c ≤ 0x18)

/-- Is a code a BX or an MX block format (R108)? -/
def isBlock (code : Nat) : Bool := (decide (0x0e ≤ code) && decide (code ≤ 0x10)) || (decide (0x12 ≤ code) && decide (code ≤ 0x18))
def isBxCode (code : Nat) : Bool := decide (0x12 ≤ code) && decide (code ≤ 0x18)

/-- Bytes of a stored unit: a scalar element or a whole block (R108). -/
def unitBytes (code : Nat) : Nat :=
  match code with
  | 0 => 1 | 1 => 2 | 2 => 4 | 3 => 8 | 4 => 1 | 5 => 2 | 6 => 4 | 7 => 8
  | 8 => 4 | 9 => 2 | 10 => 2 | 11 => 1 | 12 => 1 | 13 => 1 | 14 => 33 | 15 => 33 | 16 => 17
  | c => 4 * (c - 0x10) + 1

/-- Elements of a stored unit. -/
def unitElems (code : Nat) : Nat := if isBlock code then 32 else 1

/-- The value of one BX element under an exponent byte (R110). -/
def bxVal (m pattern E : Nat) : FV :=
  if E % 256 = 255 then .nan false
  else
    let v := sext pattern m
    .fin (decide (v < 0)) v.natAbs ((E % 256 : Nat) - 127 - ((m : Int) - 2))

/-- The value of one MX element under a scale byte (R109). -/
def mxVal (code pattern X : Nat) : FV :=
  if X % 256 = 255 then .nan false else (dec (mxFmt code) pattern).scale ((X % 256 : Nat) - 127 : Int)

/-- The value of one element of a block under its exponent or scale byte. -/
def blockVal (code pattern X : Nat) : FV := if isBxCode code then bxVal (bxM code) pattern X else mxVal code pattern X

/-- The 32 values of a stored block (R109, R110). -/
def unpackBlock (code : Nat) (bs : List Byte) : List FV :=
  let n := ofBytes bs
  let b := elemBits code
  let X := n >>> (8 * (unitBytes code - 1))
  (upto 0 32).map fun k => blockVal code ((n >>> (b * k)) % 2 ^ b) X

/-- The bytes of a block from 32 patterns and its exponent or scale byte. -/
def blockBytes (code : Nat) (pats : List Nat) (X : Nat) : List Byte :=
  let b := elemBits code
  let n := (pats.reverse.foldl (fun acc p => acc * 2 ^ b + p % 2 ^ b) 0)
  toBytes (unitBytes code - 1) n ++ toBytes 1 X

/-- The greatest floor(log2 |x|) among the finite nonzero values; 1,000,000 stands for an infinity; none when all are zero. -/
def maxExp (xs : List FV) : Option Int :=
  xs.foldl (fun acc x =>
    let t : Option Int := match x with
      | .inf _ => some 1000000
      | .fin _ m e => if m = 0 then none else some (topExp m e)
      | .nan _ => none
    match acc, t with
    | some a, some b => some (if a < b then b else a)
    | some a, none => some a
    | none, u => u) none

/-- Clamp an integer to 0 to 254. -/
def clampE (x : Int) : Nat := if x < 0 then 0 else if 254 < x then 254 else x.toNat

/-- One BX mantissa of R113 and its flags. -/
def bxElem (m E : Nat) : FV → Int × Nat
  | .nan _ => (0, 0)
  | .inf n => (if n then -(2 ^ (m - 1) : Nat) else (2 ^ (m - 1) : Nat) - 1, fOF)
  | .fin n v e =>
    let q : Int := (E : Int) - 127 - ((m : Int) - 2)
    let r := roundTo 0 n v e q false
    let y : Int := if n then -(r.1 : Int) else r.1
    let lo : Int := -(2 ^ (m - 1) : Nat)
    let hi : Int := (2 ^ (m - 1) : Nat) - 1
    let M := if y < lo then lo else if hi < y then hi else y
    (M, flagIf (decide (M ≠ y)) fSA ||| flagIf r.2 fNX ||| flagIf (decide (v ≠ 0) && decide (M = 0)) fUF)

/-- One MX element of R114 and its flags, under a scale byte that is not 0xff. -/
def mxElem (code X : Nat) : FV → Nat × Nat
  | .nan _ => ((mxFmt code).canon, 0)
  | .inf n =>
    let f := mxFmt code
    if f.inf then (f.signed n f.infCode, 0) else (f.signed n f.maxCode, fOF)
  | .fin n v e =>
    let f := mxFmt code
    let r := round f 0 (.val n v (e - ((X : Int) - 127)) false)
    if r.big then (f.signed n f.maxCode, (r.flags &&& (31 - fOF)) ||| fSA) else (r.code, r.flags)

/-- Conversion of 32 values into a block (R113, R114): the bytes and the flags. A signalling NaN among them sets NV (R118). -/
def packBlock (code : Nat) (xs : List FV) : List Byte × Nat :=
  let emx : Int := if code = 0x0e then 8 else if code = 0x0f then 15 else 2
  if xs.any FV.isNan then (blockBytes code (List.replicate 32 0) 255, flagIf (xs.any FV.isSig) fNV)
  else
    match maxExp xs with
    | none =>
      if isBxCode code then (blockBytes code (List.replicate 32 0) 0, 0)
      else (blockBytes code (xs.map fun x => match x with | .fin n _ _ => (mxFmt code).signed n 0 | _ => 0) 0, 0)
    | some e =>
      if isBxCode code then
        let E := clampE (e + 127)
        let rs := xs.map (bxElem (bxM code) E)
        (blockBytes code (rs.map fun (r : Int × Nat) => (r.1 % ((2 ^ bxM code : Nat) : Int)).toNat) E, rs.foldl (fun f r => f ||| r.2) 0)
      else
        let X := clampE (e + 127 - emx)
        let rs := xs.map (mxElem code X)
        (blockBytes code (rs.map Prod.fst) X, rs.foldl (fun f r => f ||| r.2) 0)

/-- Flags of a list of results. -/
def orAll (fs : List Nat) : Nat := fs.foldl (fun a b => a ||| b) 0

/-- The value of a scalar element of any code of R108, integers exact. -/
def scalarVal (code v : Nat) : FV :=
  if code < 8 then
    let i := valOf code v
    .fin (decide (i < 0)) i.natAbs 0
  else if code = 13 then decE8 v
  else dec (fmtOf code) v

/-- The values of one stored unit. -/
def unitVals (code : Nat) (bs : List Byte) : List FV := if isBlock code then unpackBlock code bs else [scalarVal code (ofBytes bs)]

end Sys2Proof.Machine
end

