-- ==== Sys2Proof/Machine/Float.lean ====
section
/-! DEFINITION. Floating instructions, opcodes 0x30 to 0x3E (spec 07_float R123 to R128). -/
namespace Sys2Proof.Machine

/-- Operand A after ABSA and NEGA, B after NEGB, C as it is (R125). -/
def fA (fn md : Nat) (a : W) : FV := ((dec (fmtOf fn) a.toNat).absIf (mdABSA md)).negIf (mdNEGA md)
def fB (fn md : Nat) (b : W) : FV := (dec (fmtOf fn) b.toNat).negIf (mdNEGB md)
def fC (fn : Nat) (c : W) : FV := dec (fmtOf fn) c.toNat

/-- NV for a signalling operand. -/
def sigFlag (xs : List FV) : Nat := flagIf (xs.any FV.isSig) fNV

/-- The last steps of R125: Round, SAT, Enc, with the flags gathered before. -/
def finFloat (fn md : Nat) (x : XV) (flags : Nat) : W × Nat :=
  let r := roundSat (fmtOf fn) (mdRM md) (mdSAT md) x
  (w64 r.1, r.2 ||| flags)

/-- R126. -/
def fltAdd : Pure3 := fun fn md a b _ =>
  let r := xadd (mdRM md) (fA fn md a) (fB fn md b)
  finFloat fn md r.1 (r.2 ||| sigFlag [fA fn md a, fB fn md b])
def fltSub : Pure3 := fun fn md a b _ =>
  let r := xadd (mdRM md) (fA fn md a) ((fB fn md b).negIf true)
  finFloat fn md r.1 (r.2 ||| sigFlag [fA fn md a, fB fn md b])
def fltMul : Pure3 := fun fn md a b _ =>
  let r := xmul (fA fn md a) (fB fn md b)
  finFloat fn md r.1.exact (r.2 ||| sigFlag [fA fn md a, fB fn md b])
def fltFma : Pure3 := fun fn md a b c =>
  let p := xmul (fA fn md a) (fB fn md b)
  let r := xadd (mdRM md) p.1 (fC fn c)
  finFloat fn md r.1 (p.2 ||| r.2 ||| sigFlag [fA fn md a, fB fn md b, fC fn c])
def fltScale : Pure3 := fun fn md a b _ =>
  finFloat fn md ((fA fn md a).scale (sext b.toNat 64)).exact (sigFlag [fA fn md a])

/-- a < b, a = b for values that are not NaN; with `zeros`, −0 is less than +0 (R127). -/
def fvLt (zeros : Bool) : FV → FV → Bool
  | .nan _, _ => false
  | _, .nan _ => false
  | .inf a, .inf b => a && !b
  | .inf a, .fin _ _ _ => a
  | .fin _ _ _, .inf b => !b
  | .fin n m e, .fin n' m' e' =>
    let q := if e ≤ e' then e else e'
    let x := sigAt n m e q
    let y := sigAt n' m' e' q
    decide (x < y) || (zeros && decide (m = 0) && decide (m' = 0) && n && !n')
def fvEq : FV → FV → Bool
  | .nan _, _ => false
  | _, .nan _ => false
  | .inf a, .inf b => decide (a = b)
  | .inf _, .fin _ _ _ => false
  | .fin _ _ _, .inf _ => false
  | .fin n m e, .fin n' m' e' =>
    let q := if e ≤ e' then e else e'
    decide (sigAt n m e q = sigAt n' m' e' q)

/-- A value unchanged, re-encoded in its format. -/
def enc (f : Fmt) (x : FV) : W := w64 (round f 0 x.exact).code

/-- FMIN and FMAX (R127). -/
def fltMinMax (wantMax : Bool) : Pure3 := fun fn md a b _ =>
  let x := fA fn md a
  let y := fB fn md b
  let r := if x.isNan then y else if y.isNan then x
    else if wantMax then (if fvLt true x y then y else x) else (if fvLt true y x then y else x)
  (enc (fmtOf fn) r, sigFlag [x, y])

/-- FCMP (R56, R127). -/
def fltCmp (fn md cond : Nat) (a b : W) : Bool × Nat :=
  let x := fA fn md a
  let y := fB fn md b
  let un := x.isNan || y.isNan
  let v := match cond with
    | 6 => un
    | 7 => !un
    | 1 => un || !fvEq x y
    | c => !un && ordCond c (fvLt false x y) (fvEq x y)
  let ordering := decide (2 ≤ cond) && decide (cond ≤ 5)
  (v, if ordering then flagIf un fNV else sigFlag [x, y])

/-- FCLASS (R127): A is read without modifiers. -/
def fltClass : Pure3 := fun fn _ a _ _ =>
  let f := fmtOf fn
  let k := match dec f a.toNat with
    | .inf true => 0
    | .inf false => 7
    | .nan true => 8
    | .nan false => 9
    | .fin n m e =>
      if m = 0 then (if n then 3 else 4)
      else if topExp m e < f.emin then (if n then 2 else 5)
      else if n then 1 else 6
  (w64 (2 ^ k), 0)

/-- The functions of R128: the exact result and the invalid flag. A finite result of an infinite operand (FRCP, FRSQ, FEXP2, FTANH, FSIGM)
is exact, and sets no NX: DEDUCED (log 74), since R128's list of exact results does not name it. -/
def rcpOf : FV → XV × Nat
  | .nan _ => (.nan, 0)
  | .inf n => (.val n 0 0 false, 0)
  | .fin n m e => if m = 0 then (.inf n, 0) else (xrcp n m e, 0)
/-- FRSQ. -/
def rsqOf : FV → XV × Nat
  | .nan _ => (.nan, 0)
  | .inf n => if n then (.nan, fNV) else (.val false 0 0 false, 0)
  | .fin n m e => if m = 0 then (.inf n, 0) else if n then (.nan, fNV) else (xrsq m e, 0)
/-- FEXP2. -/
def exp2Of : FV → XV × Nat
  | .nan _ => (.nan, 0)
  | .inf n => (if n then .val false 0 0 false else .inf false, 0)
  | .fin n m e => (if m = 0 then .val false 1 0 false else xexp2 n m e, 0)
/-- FLOG2. -/
def log2Of : FV → XV × Nat
  | .nan _ => (.nan, 0)
  | .inf n => if n then (.nan, fNV) else (.inf false, 0)
  | .fin n m e => if m = 0 then (.inf true, 0) else if n then (.nan, fNV) else (xlog2 m e, 0)
/-- FTANH: no NX for the result 1 of an infinity (log 74). -/
def tanhOf : FV → XV × Nat
  | .nan _ => (.nan, 0)
  | .inf n => (.val n 1 0 false, 0)
  | .fin n m e => (if m = 0 then .val n 0 0 false else xtanh n m e, 0)
/-- FSIGM: no NX for the results 0 and 1 of an infinity (log 74). -/
def sigmOf : FV → XV × Nat
  | .nan _ => (.nan, 0)
  | .inf n => (if n then .val false 0 0 false else .val false 1 0 false, 0)
  | .fin n m e => (if m = 0 then .val false 1 (-1) false else xsigm n m e, 0)

/-- A function of one operand (R125, R128). -/
def fltUnary (g : FV → XV × Nat) : Pure3 := fun fn md a _ _ =>
  let x := fA fn md a
  let r := g x
  finFloat fn md r.1 (r.2 ||| sigFlag [x])

/-! ### Meanings -/

/-- FADD (R126). -/
def execFadd (x : T3) (s : State) : Out := computeT3 fltAdd false x s
/-- FSUB (R126). -/
def execFsub (x : T3) (s : State) : Out := computeT3 fltSub false x s
/-- FMUL (R126). -/
def execFmul (x : T3) (s : State) : Out := computeT3 fltMul false x s
/-- FMA (R126). -/
def execFma (x : T3) (s : State) : Out := computeT3 fltFma true x s
/-- FMIN (R127). -/
def execFmin (x : T3) (s : State) : Out := computeT3 (fltMinMax false) false x s
/-- FMAX (R127). -/
def execFmax (x : T3) (s : State) : Out := computeT3 (fltMinMax true) false x s
/-- FCMP (R127). -/
def execFcmp (x : T3) (s : State) : Out := compareT3 fltCmp x s
/-- FRCP (R128). -/
def execFrcp (x : T3) (s : State) : Out := computeT3 (fltUnary rcpOf) false x s
/-- FRSQ (R128). -/
def execFrsq (x : T3) (s : State) : Out := computeT3 (fltUnary rsqOf) false x s
/-- FEXP2 (R128). -/
def execFexp2 (x : T3) (s : State) : Out := computeT3 (fltUnary exp2Of) false x s
/-- FLOG2 (R128). -/
def execFlog2 (x : T3) (s : State) : Out := computeT3 (fltUnary log2Of) false x s
/-- FTANH (R128). -/
def execFtanh (x : T3) (s : State) : Out := computeT3 (fltUnary tanhOf) false x s
/-- FSIGM (R128). -/
def execFsigm (x : T3) (s : State) : Out := computeT3 (fltUnary sigmOf) false x s
/-- FCLASS (R127). -/
def execFclass (x : T3) (s : State) : Out := computeT3 fltClass false x s
/-- FSCALE (R126). -/
def execFscale (x : T3) (s : State) : Out := computeT3 fltScale false x s

end Sys2Proof.Machine
end

