-- ==== Sys2Proof/Machine/Convert.lean ====
section
/-! DEFINITION. Scalar conversions and scale-multiply, opcodes 0x40, 0x41, 0x46 and 0x47, and the element forms of the block
conversions (spec 07_float R129 to R135). -/
namespace Sys2Proof.Machine

/-- FCVT from a source code of R108 to the format of FN (R130). -/
def fltCvt (src : Nat) : Pure3 := fun fn md a _ _ =>
  let x := (((scalarVal src a.toNat).absIf (mdABSA md)).negIf (mdNEGA md))
  finFloat fn md x.exact (sigFlag [x])

/-- A value of a float rounded to an integer of a type (R131). -/
def toInt (fn mode : Nat) : FV → W × Nat
  | .nan _ => (0, fNV)
  | .inf n => (wInt (if n then loOf fn else hiOf fn), fNV)
  | .fin n m e =>
    let r := roundTo mode n m e 0 false
    let v : Int := if n then -(r.1 : Int) else r.1
    (wInt (clampTo fn v), flagIf r.2 fNX ||| flagIf (decide (clampTo fn v ≠ v)) fNV)

/-- ICVT (R131): FN names the destination, CIMM the source; exactly one of the two is an integer type. -/
def intCvt (src : Nat) : Pure3 := fun fn md a _ _ =>
  if src < 8 then finFloat fn md (scalarVal src a.toNat).exact 0 else toInt fn (mdRM md) (scalarVal src a.toNat)

/-- SCALE, or UNSCALE (R135): B<7:0> is the E8M0 scale. -/
def fltE8 (down : Bool) : Pure3 := fun fn md a b _ =>
  let X := b.toNat % 256
  if X = 255 then finFloat fn md .nan fNV
  else
    let k : Int := if down then 127 - (X : Int) else (X : Int) - 127
    finFloat fn md ((fA fn md a).scale k).exact (sigFlag [fA fn md a])

/-! ### One element of a block, in node form (R134) -/

/-- BXPACK of one element under the exponent E; a signalling NaN sets NV (R118). -/
def bxPackOne (src : Nat) : Pure3 := fun fn _ a b _ =>
  let E := b.toNat % 256
  let x := scalarVal src a.toNat
  if E = 255 ∨ x.isNan = true then (0, sigFlag [x])
  else
    let r := bxElem (bxM fn) E x
    (w64 (r.1 % ((2 ^ bxM fn : Nat) : Int)).toNat, r.2)

/-- MXPACK of one element under the scale X. -/
def mxPackOne (src : Nat) : Pure3 := fun fn _ a b _ =>
  let X := b.toNat % 256
  let x := scalarVal src a.toNat
  if X = 255 then (0, sigFlag [x])
  else
    let r := mxElem fn X x
    (w64 r.1, r.2 ||| sigFlag [x])

/-- BXUNPK and MXUNPK of one element code of a block format. -/
def unpackOne (src : Nat) : Pure3 := fun fn md a b _ =>
  let r := round (fmtOf fn) (mdRM md) (blockVal src (a.toNat % 2 ^ elemBits src) (b.toNat % 256)).exact
  (w64 r.code, r.flags)

/-! ### Meanings -/

/-- FCVT (R130). -/
def execFcvt (x : T3) (s : State) : Out := computeT3 (fltCvt x.c.toNat) false x s
/-- ICVT (R131). -/
def execIcvt (x : T3) (s : State) : Out := computeT3 (intCvt x.c.toNat) false x s
/-- SCALE (R135). -/
def execScale (x : T3) (s : State) : Out := computeT3 (fltE8 false) false x s
/-- UNSCALE (R135). -/
def execUnscale (x : T3) (s : State) : Out := computeT3 (fltE8 true) false x s

end Sys2Proof.Machine
end

