-- ==== Sys2Proof/Machine/Order.lean ====
section
/-! DEFINITION. Outstanding accesses: what an issued access waits for, how it is performed at its home, how it retires (spec
09_memory_ops R164 to R175, 10_ordering R187 to R200, 16_counters R314). -/
namespace Sys2Proof.Machine

/-! ### Atomics (R168, R169) -/

/-- Bytes of an ATOM type: FN<1:0> 0 n32, 1 i32, 2 n64, 3 i64. -/
def atomN (fn : Nat) : Nat := if fn % 4 < 2 then 4 else 8

/-- The integer type code of R104 for an ATOM FN. -/
def atomType (fn : Nat) : Nat := match fn % 4 with | 0 => 6 | 1 => 2 | 2 => 7 | _ => 3

/-- op(old, operand): the new value and the flags (R169). -/
def atomOp (fn old x : Nat) : Nat × Nat :=
  let ty := atomType fn
  let w := 2 ^ (8 * atomN fn)
  match fn / 4 with
  | 0 => ((old + x) % w, 0)
  | 1 => (if valOf ty x < valOf ty old then x % w else old % w, 0)
  | 2 => (if valOf ty old < valOf ty x then x % w else old % w, 0)
  | 3 => ((old &&& x) % w, 0)
  | 4 => ((old ||| x) % w, 0)
  | 5 => ((old ^^^ x) % w, 0)
  | 6 => (x % w, 0)
  | _ =>
    let a := dec fF32 old
    let b := dec fF32 x
    let r := xadd 0 a b
    let y := round fF32 0 r.1
    (y.code, y.flags ||| r.2 ||| flagIf (a.isSig || b.isSig) fNV)

/-- Val(old) as D takes it: extended by type, zero-extended for fadd (R169). -/
def atomVal (fn old : Nat) : W := if fn / 4 = 7 then w64 (old % 2 ^ 32) else wInt (valOf (atomType fn) old)

/-! ### Arrivals (R319) -/

/-- One arrival at the barrier object at a PA. -/
def arrive (s : State) (writer : Option Nat) (pa : Nat) : State :=
  let n := (s.mem.word pa 8 + 1) % 2 ^ 64
  if bit (s.mem.word (pa + 20) 1) 0 && decide (s.mem.word (pa + 8) 8 ≤ n) then
    homeWrite (homeWrite s writer pa (toBytes 8 0)) writer (pa + 16) (toBytes 4 (s.mem.word (pa + 16) 4 + 1))
  else homeWrite s writer pa (toBytes 8 n)

/-! ### Order within one thread (R190) -/

/-- The bytes that an access still reaches. -/
def Pend.reach (e : Pend) : List Nat :=
  match e.kind with
  | .conv => e.pas ++ e.pas2
  | .convr | .convw => e.pas2
  | .stb => e.pas.flatMap (fun p => upto p e.n) ++ e.pas2.flatMap (fun p => upto p 32)
  | _ => e.pas.flatMap fun p => upto p e.n

/-- The bytes that its next action reaches: the read of a block conversion orders as a plain load (R133). -/
def Pend.reachNow (e : Pend) : List Nat := if e.kind = .conv then e.pas else e.reach

/-- Is its next action a store's, which a release fence holds (R167)? -/
def Pend.storesNow (e : Pend) : Bool := e.kind.isS && decide (e.kind ≠ .conv)

/-- Do two accesses share a byte? -/
def overlaps (xs ys : List Nat) : Bool := xs.any fun x => decide (x ∈ ys)

/-- Must a later access wait for an earlier one that is not performed (R167, R190)? -/
def waitsFor (f e : Pend) : Bool :=
  !e.done && (e.acq || f.rel || (decide (e.kind = .fence) && f.storesNow) || overlaps f.reachNow e.reach)

/-- May the access at a position be performed now? -/
def mayPerform (p : List Pend) (i : Nat) : Bool :=
  match p[i]? with
  | none => false
  | some f => !f.done && (p.take i).all fun e => !waitsFor f e

/-- Accesses of a thread issued before a number and not yet performed: what an acquiring command waits for (R197). -/
def Thread.unperformed (t : Thread) (no : Nat) : Bool := t.pend.any fun e => decide (e.no < no) && !e.done

/-- Earlier accesses of a thread that R190 orders before every access of a command: an acquire, that of a directory or rule command too, or what
stands before a release fence. -/
def Thread.ordered (t : Thread) (no : Nat) : Bool :=
  t.pend.any fun e => decide (e.no < no) && !e.done && (decide (e.kind = .fence) || e.acq)

/-- An access performed at issue waits for earlier ones as R190 gives (WAITA, BWAIT). -/
def settled (t : Thread) (rel : Bool) (pas : List Nat) : Bool :=
  t.pend.all fun e => e.done || (!rel && !e.acq && !overlaps pas e.reach)

/-- What a command reads at its issue waits for earlier accesses, but for a command that acquires when it completes: a later command may be
what it waits for (log 28). -/
def cmdSettled (t : Thread) (pas : List Nat) : Bool := settled { t with pend := t.pend.filter fun e => decide (e.kind ≠ .acqCmd) } false pas

/-- Earlier loads, stores are performed (R167, R342). -/
def fenceMet (t : Thread) (loads stores : Bool) : Bool :=
  t.pend.all fun e => e.done || (!(loads && e.kind.isL) && !(stores && e.kind.isS))

/-! ### Accesses inside a task (R174) -/

/-- The line and offset of a byte, as its home keeps it. -/
def lineOff (s : State) (pa : Nat) : Nat × Nat := (s.mem.key pa / 64, s.mem.key pa % 64)

/-- A byte as a task reads it: its own buffered byte, else the committed one. -/
def taskByte (s : State) (k : Task) (pa : Nat) : Byte :=
  let (l, o) := lineOff s pa
  ((Tab.look k.vlines l).bind fun t => Tab.look t o).getD (s.mem.rd pa)

/-- Bytes as a thread reads them. -/
def readAs (s : State) (tid : Nat) (pas : List Nat) : List Byte :=
  match s.specul tid with
  | some k => pas.map (taskByte s k)
  | none => pas.map s.mem.rd

/-- Is a byte that a thread reads poisoned (R162)? Its own buffered byte is not. -/
def poisonAs (s : State) (tid : Nat) (pas : List Nat) : Bool :=
  match s.specul tid with
  | some k => pas.any fun pa =>
      let (l, o) := lineOff s pa
      s.mem.bad pa && (((Tab.look k.vlines l).bind fun t => Tab.look t o).isNone)
  | none => pas.any s.mem.bad

/-- Record lines as read by a thread's task (R174), and bring cached LP6 lines into their home slices (R149). -/
def noteRead (s : State) (tid : Nat) (unc pas : List Nat) : State :=
  let s := s.bring (pas.filter fun p => decide (p ∉ unc))
  match s.specul tid with
  | some k => s.onTask k.id fun t => { t with reads := (t.reads ++ pas.map fun p => (lineOff s p).1).eraseDups }
  | none => s

/-- The task that a thread's direct writes belong to. -/
def State.writer (s : State) (tid : Nat) : Option Nat := (s.taskOf tid).map Task.id

/-- Buffer a byte in a versioned line (R150, R174). -/
def bufferByte (k : Task) (l o : Nat) (b : Byte) : Task := { k with vlines := Tab.put k.vlines l (Tab.put (Tab.getD k.vlines l []) o b) }

/-- Write bytes at rising addresses from one for a thread: buffered in its task, else direct (R165, R174). -/
def writeAs (s : State) (tid : Nat) (unc : List Nat) (pa : Nat) (bs : List Byte) : State :=
  match s.specul tid with
  | some k => s.onTask k.id fun t =>
      ((upto pa bs.length).zip bs).foldl (fun t e => bufferByte t (lineOff s e.1).1 (lineOff s e.1).2 e.2) t
  | none => homeWriteUnc s (s.writer tid) unc pa bs

/-- Write bytes at a list of addresses for a thread, each consecutive run in one action. -/
def writeEach (s : State) (tid : Nat) (unc pas : List Nat) (bs : List Byte) : State :=
  (runsOf (pas.zip bs)).foldl (fun s e => writeAs s tid unc e.1 e.2) s

/-- A task at or above the barrier timestamp that has become irrevocable writes nothing while the barrier stands (R196, R204). -/
def State.barred (s : State) (tid : Nat) : Bool :=
  match s.taskOf tid with
  | some k => k.irrev && decide (s.bts.toNat ≤ k.ts)
  | none => false

/-! ### Performing (R165 to R173) -/

/-- Replace the outstanding access at a position. -/
def setPend (s : State) (tid i : Nat) (e : Pend) : State := s.onTh tid fun t => { t with pend := setAt t.pend i e }

/-- A direct write of an outstanding access. -/
def Pend.put (e : Pend) (s : State) (tid pa : Nat) (bs : List Byte) : State := homeWriteUnc s (s.writer tid) e.unc pa bs

/-- A read-modify-write at home: old bytes, what to write, the value for D, flags. Its line was free of poison when the word issued, and none
reaches a line that an issued atomic is still to act on (R169, `atomicOn`). -/
def performRmw (s : State) (tid : Nat) (e : Pend) (pa : Nat) : State × Pend :=
  let s := s.bring ((upto pa e.n).filter fun p => decide (p ∉ e.unc))
  let m := (s.refresh (upto pa e.n)).mem
  let old := m.word pa e.n
  match e.kind with
  | .cas =>
    let hit := decide (old = e.data.toNat % 2 ^ (8 * e.n))
    let s1 := if hit then e.put s tid pa (toBytes e.n e.data2.toNat) else s
    (s1, { e with done := true, val := w64 old })
  | .barr => (arrive s (s.writer tid) pa, { e with done := true, val := w64 (m.word (pa + 16) 4) })
  | .signal =>
    let s1 := e.put s tid pa (toBytes 8 (old + e.data.toNat))
    let s2 := if bit e.data2.toNat 63 then s1.post (fld e.data2 15 0) (fld e.data2 21 16) else s1
    (s2, { e with done := true, val := w64 old })
  | _ =>
    let r := atomOp e.fn old e.data.toNat
    (e.put s tid pa (toBytes e.n r.1), { e with done := true, val := atomVal e.fn old, flags := r.2 })

/-- Read the source of a block conversion and compute what it writes (R132, R133): the bytes and the flags. -/
def convOut (fn cimm md : Nat) (bs : List Byte) : List Byte × Nat :=
  if isBlock fn then
    let n := unitBytes cimm
    let xs := (upto 0 32).map fun k => scalarVal cimm (ofBytes ((bs.drop (k * n)).take n))
    packBlock fn xs
  else
    let rs := (unpackBlock cimm bs).map fun x => round (fmtOf fn) (bits md 17 16) x.exact
    (rs.flatMap fun r => toBytes (unitBytes fn) r.code, orAll (rs.map Rounded.flags))

/-- An issued atomic is still to act on a line: poison waits for it (R169, R173; log 72). -/
def atomicOn (s : State) (pa : Nat) : Bool :=
  s.threads.any fun e => e.2.pend.any fun p =>
    !p.done && decide (p.kind ∈ [.atom, .cas, .stred, .signal, .barr, .binit]) && p.pas.any fun q => decide (s.mem.key q / 64 = s.mem.key pa / 64)

/-- What a plain load returns of bytes that memory holds so. Nothing orders it after the WAITM before it when that was no acquire, so it may have
been performed before the chunk was written, all of it: a free value says so (R191, R378). Once a load has returned the new bytes, no later one
returns the old (R189). -/
def earlyRead (s : State) (tid : Nat) (pas : List Nat) (bs : List Byte) : State × List Byte :=
  let old := (s.th tid).stale
  if (s.specul tid).isSome || pas.all fun p => (Tab.look old p).isNone then (s, bs)
  else
    let s1 := { s with fresh := s.fresh + 1 }
    if bit (Config.freeValue s.fresh).toNat 0 then (s1, (pas.zip bs).map fun e => (Tab.look old e.1).getD e.2)
    else (s1.onTh tid fun t => { t with stale := t.stale.filter fun e => decide (e.1 ∉ pas) }, bs)

/-- Perform the access at a position of a thread's list: the state and the entry after. -/
def performLoad (s : State) (tid : Nat) (e : Pend) : State × Pend :=
  match e.kind, e.pas with
  | .load, pa :: _ =>
    let pas := upto pa e.n
    let now := s.refresh pas
    if poisonAs now tid pas then (noteRead s tid e.unc pas, { e with done := true, poison := true })
    else
      let r := earlyRead (noteRead s tid e.unc pas) tid pas (readAs now tid pas)
      (r.1, { e with done := true, val := wInt (valOf (e.fn % 8) (ofBytes r.2)) })
  | .conv, pas =>
    let now := s.refresh pas
    if poisonAs now tid pas then (noteRead s tid e.unc pas, { e with done := true, poison := true })
    else
      let r := convOut e.fn e.cimm e.md (readAs now tid pas)
      (noteRead s tid e.unc pas, { e with kind := .convr, buf := r.1, flags := r.2 })
  | .convr, _ => (s, e)
  | _, pa :: _ => performRmw s tid e pa
  | _, [] => (s, { e with done := true })

/-- Perform a store: one destination of STM and STRED, in no stated order (R173); the data of STB, whose arrival follows
(R171). -/
def performStore (s : State) (tid : Nat) (e : Pend) : State × Pend :=
  match e.kind with
  | .store =>
    (match e.pas with
    | pa :: _ => writeAs s tid e.unc pa (toBytes e.n e.data.toNat)
    | [] => s, { e with done := true })
  | .stb =>
    match e.pas, e.pas2 with
    | pa :: _, b :: _ =>
      let s1 := e.put s tid pa (toBytes e.n e.data.toNat)
      ({ s1 with eng := { s1.eng with arrivals := s1.eng.arrivals ++ [(b, some (tid, e.no))] } }, { e with pas := [] })
    | _, _ => (s, e)
  | .stm | .stred =>
    let k := if 1 < e.pas.length then (Config.freeValue s.fresh).toNat % e.pas.length else 0
    let s0 := if 1 < e.pas.length then { s with fresh := s.fresh + 1 } else s
    match e.pas[k]? with
    | none => (s, { e with done := true })
    | some pa =>
      let rest := dropAt e.pas k
      if e.kind = .stm then
        (e.put s0 tid pa (toBytes e.n e.data.toNat), { e with pas := rest, done := decide (rest = []) })
      else
        let r := atomOp e.fn ((s0.refresh (upto pa e.n)).mem.word pa e.n) e.data.toNat
        (e.put s0 tid pa (toBytes e.n r.1), { e with pas := rest, done := decide (rest = []), flags := e.flags ||| r.2 })
  | .binit =>
    (match e.pas with
    | pa :: _ =>
      let gen := s.mem.word (pa + 16) 4 + 1
      e.put s tid pa (toBytes 8 0 ++ toBytes 8 e.data.toNat ++ toBytes 4 gen ++ toBytes 1 (e.data2.toNat % 2) ++ toBytes 11 0)
    | [] => s, { e with done := true })
  | .convw => (writeEach s tid e.unc e.pas2 e.buf, { e with done := true })
  | _ => (s, e)

/-! ### Retiring (R314) -/

/-- Can an access that is performed retire past an earlier one? L and S each retire in issue order. -/
def sharesCounter (a b : Pend) : Bool := (a.kind.isL && b.kind.isL) || (a.kind.isS && b.kind.isS)

/-- May a performed access retire, with the earlier ones that stay? A fence does once everything before it is performed; a load into a q
register is a release there (R198). -/
def mayRetire (kept : List Pend) (e : Pend) : Bool :=
  if e.kind = .fence then kept.all Pend.done
  else e.done && (kept.all fun k => !sharesCounter k e) && (!isQ (BitVec.ofNat 7 e.d) || kept.all Pend.done)

/-- A block conversion that has read leaves L once no earlier access counts there. -/
def leaveL (kept : List Pend) (e : Pend) : Pend :=
  if e.kind = .convr ∧ (kept.all fun k => !k.kind.isL) = true then { e with kind := .convw } else e

/-- Split a list of accesses into those that retire now and those that stay: L and S each retire in issue order. -/
def retireSplit : List Pend → List Pend → List Pend × List Pend
  | _, [] => ([], [])
  | kept, e :: rest =>
    if mayRetire kept e then
      let r := retireSplit kept rest
      (e :: r.1, r.2)
    else
      let e1 := leaveL kept e
      let r := retireSplit (kept ++ [e1]) rest
      (r.1, e1 :: r.2)

/-- What an access leaves when it retires: its D, its flags; poison leaves D unwritten and makes an imprecise trap due (R163). -/
def retireOne (tid : Nat) (s : State) (e : Pend) : State :=
  if e.poison then
    let s1 := s.onTh tid fun t => { t with imp := t.imp ++ [(cPOISON, w64 e.va)] }
    if isQ (BitVec.ofNat 7 e.d) then
      match Tab.look (s.th tid).q (e.d - 72) with
      | some b => s1.onInv b.iid fun i => i.give (usedKey (threadProducer b.node) 0 0)
      | none => s1
    else s1
  else
    let s1 := s.onTh tid fun t => t.orFlags e.flags
    match e.kind with
    | .load => if isQ (BitVec.ofNat 7 e.d) then qPut s1 tid (BitVec.ofNat 7 e.d) e.val else s1.onTh tid fun t => t.wg e.d e.val
    | .atom | .cas | .barr | .signal => s1.onTh tid fun t => t.wg e.d e.val
    | _ => s1

/-- Retire what can retire. -/
def retire (tid : Nat) (s : State) : State :=
  let r := retireSplit [] (s.th tid).pend
  r.1.foldl (retireOne tid) (s.onTh tid fun t => { t with pend := r.2 })

/-- LOAD_COMPLETE (R72, R165, R169): the access at a position, one that counts on L, is performed when R190 lets it be, and what can
retire does. -/
def execLoadComplete (tid i : Nat) (s : State) : Out :=
  match (s.th tid).pend[i]? with
  | some e =>
    if e.kind.isL && mayPerform (s.th tid).pend i && !(e.kind.isS && s.barred tid) then
      let r := performLoad s tid e
      .next (retire tid (setPend r.1 tid i r.2))
    else .next s
  | none => .next s

/-- STORE_RETIRE (R165, R171, R173, R320): the same for an access that counts on S only. -/
def execStoreRetire (tid i : Nat) (s : State) : Out :=
  match (s.th tid).pend[i]? with
  | some e =>
    if e.kind.isS && !e.kind.isL && mayPerform (s.th tid).pend i && !s.barred tid then
      let r := performStore s tid e
      .next (retire tid (setPend r.1 tid i r.2))
    else .next s
  | none => .next s

/-- BARRIER_ARRIVAL (R171, R319): one arrival whose data is performed; its STB retires. -/
def execBarrierArrival (i : Nat) (s : State) : Out :=
  match s.eng.arrivals[i]? with
  | none => .next s
  | some (pa, who) =>
    if (match who with
      | some (tid, _) => s.barred tid
      | none => false) then .next s else
    let s0 := { s with eng := { s.eng with arrivals := dropAt s.eng.arrivals i } }
    match who with
    | none => .next (arrive s0 none pa)
    | some (tid, no) =>
      let s1 := arrive s0 (s.writer tid) pa
      .next (retire tid (s1.onTh tid fun t => { t with pend := t.pend.map fun e => if e.no = no then { e with done := true } else e }))

/-- A read performed at issue: its line enters its home slice, and pool bytes show what stands there. -/
def State.reads (s : State) (x : Xl) (n : Nat) : State := (if x.cached then s.bring (upto x.pa n) else s).refresh (upto x.pa n)

/-! ### Issuing -/

/-- An outstanding access with nothing set but its kind, operation, destination, address and size. -/
def Pend.mk0 (kind : PKind) (fn d va n : Nat) (pas : List Nat) : Pend :=
  ⟨0, kind, fn, d, va, n, pas, [], [], 0, 0, 0, false, false, 0, 0, false, 0, 0, false, []⟩

/-- Append an outstanding access of the issuing thread; any but a plain load ends what `earlyRead` allows. -/
def pushPend (e : Pend) (s : State) : State :=
  ({ s with nextId := s.nextId + 1 }).onMe fun t =>
    { t.sync (e.acq || decide (e.kind ≠ PKind.load)) with pend := t.pend ++ [{ e with no := s.nextId }] }

/-- Translate an aligned access of the issuing thread (R155, R158, R165). -/
def xlate (acc : Acc) (va n : Nat) (s : State) : Except Stop (State × Xl) := do
  needAlign va n
  match missBlocked s (s.whoOf s.cur) va with
  | some slice => .error (.stall (.tlb slice))
  | none =>
    match translate s (s.whoOf s.cur) acc va with
    | .error k => .error (pageStop acc (k, va))
    | .ok r => .ok r

/-- The host window takes no ATOM but add and swap, no STRED, no STB, no BINIT: kind PERMISSION (R352). -/
def needHost (ok : Bool) (pa va : Nat) (s : State) : Except Stop Unit :=
  if ok || decide (s.mem.kind pa ≠ .host) then .ok () else .error (.trap cPAGE (pageValue .permission .write va))

/-- Translate a list of bytes of the issuing thread (R133, R155, R158). -/
def xlatesX (acc : Acc) (va n : Nat) (s : State) : Except Stop (State × List Xl) :=
  match missBlockedIn s (s.whoOf s.cur) va n with
  | some slice => .error (.stall (.tlb slice))
  | none =>
    match translatesX s (s.whoOf s.cur) acc va n with
    | .error e => .error (pageStop acc e)
    | .ok r => .ok r

/-- The addresses alone. -/
def xlates (acc : Acc) (va n : Nat) (s : State) : Except Stop (State × List Nat) :=
  match xlatesX acc va n s with
  | .error e => .error e
  | .ok (s1, xs) => .ok (s1, xs.map Xl.pa)

/-- An access with what its page says: of one mapped uncached, its bytes stay out of the slices (R153). -/
def Pend.mapped (e : Pend) (x : Xl) : Pend := { e with unc := if x.cached then [] else upto x.pa e.n }

/-- What one operand range of a word fails on: its address and the trap (R158, R329). -/
def faultOf (s : State) (e : Acc × Nat × Nat × Nat) : Option (Nat × Stop) :=
  let (acc, va, n, al) := e
  if va % al ≠ 0 then some (va, .trap cALIGN (w64 va)) else
  match translates s (s.whoOf s.cur) acc va n with
  | .error f => some (f.2, pageStop acc f)
  | .ok _ => none

/-- Every operand range passes, or the trap of the lowest failing address applies (R329). Access, VA, bytes, alignment. -/
def needAll (es : List (Acc × Nat × Nat × Nat)) (s : State) : Except Stop Unit :=
  match es.filterMap (faultOf s) with
  | [] => .ok ()
  | f :: fs => .error (fs.foldl (fun (m : Nat × Stop) e => if e.1 < m.1 then e else m) f).2

/-- A read-modify-write meets poison before it acts, precisely (R169, R324): it waits until the accesses that R190 orders before it are performed,
since one of them may clear the line. -/
def needClean (rel : Bool) (pas : List Nat) (s : State) : Except Stop Unit :=
  if !pas.any s.mem.bad then .ok ()
  else if settled s.me rel pas then .error (.trapOpen cPOISON)
  else .error (.stall (.fence true true))

/-- An access outside cached LP6 memory makes a task irrevocable (R175). -/
def needCached (cached : Bool) (s : State) : Except Stop Unit := if cached then .ok () else needIrrev s

/-- Is a thread's task the oldest uncommitted one? -/
def State.oldest (s : State) (tid : Nat) : Bool :=
  match s.tasks with
  | t :: _ => decide (t.tid = some tid)
  | [] => false

/-- Take versioned lines for a store of the issuing thread's task (R150, R175). -/
def takeLines : List Nat → State → Except Stop State
  | [], s => .ok s
  | l :: ls, s =>
    match s.specul s.cur with
    | none => .ok s
    | some k =>
      if (Tab.look k.vlines l).isSome then takeLines ls s
      else if 512 ≤ k.vlines.length then .error (.stall .irrevocable)
      else if 8 ≤ waysTaken s k.shard l then .error (.stall (if s.oldest s.cur then .irrevocable else .way l))
      else
        let s1 := s.onTask k.id fun t => { t with vlines := Tab.put t.vlines l [] }
        takeLines ls { s1 with mem := s1.mem.squeeze k.shard l (homeWays s1 k.shard l) }

end Sys2Proof.Machine
end

