-- ==== Sys2Proof/Machine/Memops.lean ====
section
/-! DEFINITION. Memory instructions, opcodes 0x50 to 0x58 (spec 09_memory_ops R164 to R175). -/
namespace Sys2Proof.Machine

/-- Bytes of a load or store type (R164). -/
def lsN (fn : Nat) : Nat := 2 ^ (fn % 4)

/-- A load of the issuing thread (R165): it counts on L until D is written; a q destination reserves its slot now (R73). -/
def loadBody (fn d va scope : Nat) (acq : Bool) (dsp : Spec) : Body := fun s => do
  needQ [dsp] s
  let n := lsN fn
  let (s1, x) ← xlate .read va n s
  needCached x.cached s
  needRoom 0 s
  let s2 ← if isQ dsp then (qSpace s1 dsp).map (fun _ => qReserve s1 dsp) else .ok s1
  .ok (pushPend { (Pend.mk0 .load fn d va n [x.pa]).mapped x with scope := scope, acq := acq } s2)

/-- A store of the issuing thread (R165): it counts on S until it is performed; a task takes its versioned line now (R174). -/
def storeBody (fn va scope : Nat) (rel : Bool) (dsp : Spec) : Body := fun s => do
  needQ [dsp] s
  let v ← srcV s dsp
  let n := lsN fn
  let (s1, x) ← xlate .write va n s
  needCached x.cached s
  needRoom 1 s
  let s2 ← takeLines [s1.mem.key x.pa / 64] s1
  .ok (pushPend { (Pend.mk0 .store fn 0 va n [x.pa]).mapped x with scope := scope, rel := rel, data := v } (deqAll [dsp] s2))

/-- LD, plain (R165). -/
def execLd (x : TM) (s : State) : Out :=
  issue x.pg [x.a] [] (fun s =>
    loadBody (x.fn.toNat % 8) x.d.toNat (addrTM x s) x.scope.toNat (decide (x.acq = 1)) x.d s) s

/-- LD, indexed (R53, R165). -/
def execLdIndexed (x : T3) (s : State) : Out :=
  issue x.pg [x.a, x.b] [] (fun s => loadBody (x.fn.toNat % 8) x.d.toNat (addrT3 x s) 0 false x.d s) s

/-- ST, plain (R165): D is the data. -/
def execSt (x : TM) (s : State) : Out :=
  issue x.pg [x.a, x.d] [] (fun s =>
    storeBody (x.fn.toNat % 8) (addrTM x s) x.scope.toNat (decide (x.rel = 1)) x.d s) s

/-- ST, indexed (R53, R165). -/
def execStIndexed (x : T3) (s : State) : Out :=
  issue x.pg [x.a, x.b, x.d] [] (fun s => storeBody (x.fn.toNat % 8) (addrT3 x s) 0 false x.d s) s

/-- Issue a read-modify-write of the issuing thread (R169, R320, R341): poison known at issue traps precisely. -/
def rmwBody (kind : PKind) (fn d va n align scope : Nat) (acq rel : Bool) (data data2 : W) : Body := fun s => do
  needIrrev s
  if va % align ≠ 0 then .error (.trap cALIGN (w64 va)) else
  let (s1, x) ← xlate .write va n s
  needHost (decide (kind ≠ .atom) || decide (fn / 4 = 0) || decide (fn / 4 = 6)) x.pa va s
  needRoom 0 s
  needRoom 1 s
  needClean rel (upto x.pa n) s1
  .ok (pushPend { (Pend.mk0 kind fn d va n [x.pa]).mapped x with
    scope := scope, acq := acq, rel := rel, data := data, data2 := data2 } s1)

/-- ATOM (R169). -/
def execAtom (x : TM) (s : State) : Out :=
  issue x.pg [x.a, x.d] [] (fun s =>
    let n := atomN x.fn.toNat
    rmwBody .atom x.fn.toNat x.d.toNat (addrTM x s) n n x.scope.toNat (decide (x.acq = 1)) (decide (x.rel = 1))
      (s.me.rg x.d.toNat) 0 s) s

/-- CAS (R169): D is the expected value, D + 1 the new one. -/
def execCas (x : TM) (s : State) : Out :=
  issue x.pg [x.a, x.d, x.d + 1] [] (fun s =>
    let n := lsN x.fn.toNat
    rmwBody .cas x.fn.toNat x.d.toNat (addrTM x s) n n x.scope.toNat (decide (x.acq = 1)) (decide (x.rel = 1))
      (s.me.rg x.d.toNat) (s.me.rg (x.d.toNat + 1)) s) s

/-- STB (R171): both addresses are checked before anything is written. -/
def execStb (x : TX) (s : State) : Out :=
  issue x.pg [x.a, x.a + 1, x.b] [] (fun s => do
    needIrrev s
    let v ← srcV s x.b
    let n := 2 ^ x.cls.toNat
    let va := (s.me.rg x.a.toNat).toNat
    let bar := (s.me.rg (x.a.toNat + 1)).toNat
    needAll [(.write, va, n, n), (.write, bar, 32, 32)] s
    let (s1, p) ← xlate .write va n s
    needHost false p.pa va s
    let (s2, q) ← xlate .write bar 32 s1
    needHost false q.pa bar s
    needRoom 1 s
    .ok (pushPend { (Pend.mk0 .stb 0 0 va n [p.pa]).mapped p with
      pas2 := [q.pa], scope := x.scope.toNat, rel := decide (x.rel = 1), data := v } (deqAll [x.b] s2))) s

/-- Translate every destination for write; the failure of the lowest index is reported (R172). -/
def xlateDests (host : Bool) (n : Nat) : List Nat → State → Except Stop (State × List Xl)
  | [], s => .ok (s, [])
  | va :: vas, s => do
    let (s1, x) ← xlate .write va n s
    needHost host x.pa va s
    let (s2, xs) ← xlateDests host n vas s1
    .ok (s2, x :: xs)

/-- Read a destination list of STM or STRED (R170, R172), behind earlier accesses to its bytes and earlier acquires (R190): PAGE and POISON
are precise. -/
def destList (va n : Nat) (s : State) : Except Stop (State × List Nat) := do
  needAlign va 8
  let (s1, xs) ← xlatesX .read va (8 * n) s
  let pas := xs.map Xl.pa
  let s2 := (s1.bring ((xs.filter Xl.cached).map Xl.pa)).refresh pas
  if !settled s2.me false pas then .error (.stall (.fence true true))
  else if pas.any s2.mem.bad then .error (.trapOpen cPOISON)
  else
    let bs := pas.map s2.mem.rd
    .ok (s2, (upto 0 n).map fun i => ofBytes ((bs.drop (8 * i)).take 8))

/-- A store to every destination of a list (R172, R173); STRED meets poison at a destination as an atomic does, precisely. -/
def multiBody (kind : PKind) (fn n : Nat) (x : TX) : Body := fun s => do
  needIrrev s
  let v ← srcV s x.b
  let va := (s.me.rg x.a.toNat).toNat
  let (s1, dests) ← destList va (bits x.imm.toNat 5 0 + 1) s
  let (s2, xs) ← xlateDests (decide (kind = .stm)) n dests s1
  needRoom 1 s
  (if kind = .stred then needClean (decide (x.rel = 1)) (xs.flatMap fun p => upto p.pa n) s2 else .ok ())
  .ok (pushPend { Pend.mk0 kind fn 0 va n (xs.map Xl.pa) with
    unc := (xs.filter fun p => !p.cached).flatMap (fun p => upto p.pa n), scope := x.scope.toNat, rel := decide (x.rel = 1), data := v }
    (deqAll [x.b] s2))

/-- STM (R173). -/
def execStm (x : TX) (s : State) : Out := issue x.pg [x.a, x.b] [] (multiBody .stm 0 (2 ^ x.cls.toNat) x) s

/-- STRED (R173). -/
def execStred (x : TX) (s : State) : Out := issue x.pg [x.a, x.b] [] (multiBody .stred x.fn.toNat (atomN x.fn.toNat) x) s

/-- PREF (R166): the line enters its home slice; an address that fails does nothing; no counter, no tracking. -/
def execPref (x : TM) (s : State) : Out :=
  issue x.pg [x.a] [] (fun s =>
    match missBlocked s (s.whoOf s.cur) (addrTM x s) with
    | some slice => .error (.stall (.tlb slice))
    | none =>
      match translate s (s.whoOf s.cur) .read (addrTM x s) with
      | .error _ => .ok s
      | .ok (s1, t) => .ok (if t.cached then s1.bring [t.pa] else s1)) s

/-- FENCE (R167): `.acq` holds what follows until earlier loads are performed, `.rel` holds later stores behind everything earlier;
inside a task it has no effect. -/
def execFence (x : TM) (s : State) : Out :=
  issue x.pg [] [] (fun s =>
    if (s.taskOf s.cur).isSome then .ok s
    else if x.acq = 1 then
      if fenceMet s.me true (decide (x.rel = 1)) then .ok (s.onMe (Thread.sync true)) else .error (.stall (.fence true (decide (x.rel = 1))))
    else if fenceMet s.me true true then .ok s
    else .ok (pushPend { Pend.mk0 .fence 0 0 0 0 [] with scope := x.scope.toNat } s)) s

/-! ### Block conversions in thread form (R132, R133) -/

/-- Issue a block conversion: source bytes at A, destination bytes at D, both checked before anything is written. -/
def convBody (x : T3) (srcN srcAlign dstN dstAlign : Nat) : Body := fun s => do
  let src := (s.me.rg x.a.toNat).toNat
  let dst := (s.me.rg x.d.toNat).toNat
  needAll [(.read, src, srcN, srcAlign), (.write, dst, dstN, dstAlign)] s
  let (s1, ps) ← xlatesX .read src srcN s
  let (s2, qs) ← xlatesX .write dst dstN s1
  needCached ((ps ++ qs).all Xl.cached) s
  needRoom 0 s
  needRoom 1 s
  let s3 ← takeLines (qs.map fun p => s2.mem.key p.pa / 64).eraseDups s2
  .ok (pushPend { Pend.mk0 .conv x.fn.toNat 0 src srcN (ps.map Xl.pa) with
    pas2 := qs.map Xl.pa, unc := uncOf (ps ++ qs), md := x.md.toNat, cimm := x.c.toNat } s3)

/-- BXPACK (R132). -/
def execBxpack (x : T3) (s : State) : Out :=
  issue x.pg [x.a, x.d] [] (convBody x (32 * unitBytes x.c.toNat) (unitBytes x.c.toNat) (unitBytes x.fn.toNat) 1) s

/-- BXUNPK (R132). -/
def execBxunpk (x : T3) (s : State) : Out :=
  issue x.pg [x.a, x.d] [] (convBody x (unitBytes x.c.toNat) 1 (32 * unitBytes x.fn.toNat) (unitBytes x.fn.toNat)) s

/-- MXPACK (R132). -/
def execMxpack (x : T3) (s : State) : Out :=
  issue x.pg [x.a, x.d] [] (convBody x (32 * unitBytes x.c.toNat) (unitBytes x.c.toNat) (unitBytes x.fn.toNat) 1) s

/-- MXUNPK (R132). -/
def execMxunpk (x : T3) (s : State) : Out :=
  issue x.pg [x.a, x.d] [] (convBody x (unitBytes x.c.toNat) 1 (32 * unitBytes x.fn.toNat) (unitBytes x.fn.toNat)) s

end Sys2Proof.Machine
end

