-- ==== Sys2Proof/Machine/Net.lean ====
section
/-! DEFINITION. Networks, the Mere and the Basin as tasks meet them: settling, deltas, commit, withdrawal, the end of a task (spec
14_rules R267 to R285, 09_memory_ops R174 to R179). -/
namespace Sys2Proof.Machine

/-- A network by IID. -/
def State.net (s : State) (iid : Nat) : Option Net := Tab.look s.fab.nets iid

/-- Replace a network, update one. -/
def State.putNet (s : State) (iid : Nat) (n : Net) : State := { s with fab := { s.fab with nets := Tab.put s.fab.nets iid n } }
def State.onNet (s : State) (iid : Nat) (f : Net → Net) : State :=
  match s.net iid with
  | some n => s.putNet iid (f n)
  | none => s

/-- Replace the Basin entries. -/
def State.putBasin (s : State) (b : Tab Basin) : State := { s with fab := { s.fab with basin := b } }

/-- Does an invocation hold a token of some kind at a node: in its fields, its ring, its outputs or its line (R280, R318)? -/
def NodeSt.standing (x : NodeSt) : Bool :=
  decide (x.line ≠ []) || decide (x.outs ≠ []) || x.queues.any (fun e => decide (e.2 ≠ [])) || x.spill.any (fun e => decide (e.2 ≠ []))

/-- Does a token stand anywhere in an invocation, but in the fields of some nodes (R280, R318, R334)? -/
def Inv.standing (i : Inv) (but : List Nat) : Bool :=
  i.frames.any (fun e => (e.2.hasL || e.2.hasR || e.2.hasP) && !decide (e.1 / 65536 ∈ but)) ||
  decide (i.tbuf ≠ []) || decide (i.links ≠ []) || i.nst.any fun e => e.2.standing

/-- Does a token lie in a field, but for the fields of some nodes, in a token buffer, on a route, in a channel or in a node's output (R280)? -/
def Inv.unsettled (i : Inv) (but : List Nat) : Bool :=
  i.frames.any (fun e => (e.2.hasL || e.2.hasR || e.2.hasP) && !decide (e.1 / 65536 ∈ but)) ||
  decide (i.tbuf ≠ []) || decide (i.links ≠ []) ||
  i.nodes.any (fun e => decide (e.2.op = 0x96) && decide ((i.st e.1).line ≠ [])) || i.nst.any fun e => decide (e.2.outs ≠ [])

/-- A network is settled (R280); one that has ended holds nothing back (R278). -/
def netSettled (s : State) (iid : Nat) : Bool :=
  match s.net iid, s.inv iid with
  | some n, some i =>
    decide (n.queue = []) && decide (i.phase ≠ .out) && !i.unsettled n.full && i.nst.all fun e => decide (e.2.score = [])
  | _, _ => true

/-- Who reads and writes a network's Mere and tables (R265, R271). -/
def Inv.who (i : Inv) : Who := ⟨i.region.die, i.ctxid, i.owner, false, none⟩

/-- The VA of a Mere slot. -/
def Net.slotVa (n : Net) (w : Nat) : Nat := n.mere.toNat + 64 * w

/-- The lowest number from k on that a rising table lacks. -/
def lowestGap {α : Type} (k : Nat) : Tab α → Nat
  | [] => k
  | e :: t => if e.1 < k then lowestGap k t else if e.1 = k then lowestGap (k + 1) t else k

/-- Write into the Mere; a slot whose page has gone is left as it is. -/
def mereWrite (s : State) (i : Inv) (writer : Option Nat) (va : Nat) (bs : List Byte) : State :=
  match writeVa s i.who writer va bs with
  | .ok s1 => s1
  | .error _ => s

/-- Match tokens (R270). -/
def plusTok (wids : List Nat) : W :=
  w64 (wids.length * 2 ^ 60 + wids.getD 0 0 + wids.getD 1 0 * 2 ^ 20 + wids.getD 2 0 * 2 ^ 40)
def minusOf (plus : W) : W := plus ||| (1#64 <<< 62)
def scrubTok (tt : Nat) : W := w64 (2 ^ 63 + tt % 2 ^ 48)

/-- Assert an image (R268, R283). -/
def applyAssert (s : State) (writer : Option Nat) (iid : Nat) (img : List Byte) : State :=
  match s.net iid, s.inv iid with
  | some n, some i =>
    let w := lowestGap 1 n.wm
    if n.mcap < w then s else
    let bytes := img.take 2 ++ toBytes 2 1 ++ toBytes 4 0 ++ toBytes 6 n.t ++ toBytes 2 0 ++ (img.drop 16).take 48
    let s1 := mereWrite s i writer (n.slotVa w) bytes
    s1.onNet iid fun n => { n with wm := Tab.put n.wm w (false, n.t, bytes), t := (n.t + 1) % 2 ^ 48, queue := n.queue ++ [plusTok [w]] }
  | _, _ => s

/-- Retract a slot: one that is not LIVE counts in STALE and injects nothing (R283, R287). -/
def applyRetract (s : State) (writer : Option Nat) (iid w : Nat) : State :=
  match s.net iid, s.inv iid with
  | some n, some i =>
    match Tab.look n.wm w with
    | some (false, tt, bs) =>
      let s1 := mereWrite s i writer (n.slotVa w + 2) (toBytes 2 3)
      s1.onNet iid fun n => { n with wm := Tab.put n.wm w (true, tt, bs.take 2 ++ toBytes 2 3 ++ bs.drop 4), queue := n.queue ++ [scrubTok tt] }
    | _ => s.onNet iid fun n => { n with stale := if n.stale = 0xffffffff then n.stale else n.stale + 1 }
  | _, _ => s

/-- Apply one delta (R283): 0 assert, 1 retract, 2 modify. -/
def applyDelta (writer : Option Nat) (s : State) (d : Delta) : State :=
  match d.kind with
  | 0 => applyAssert s writer d.net d.image
  | 1 => applyRetract s writer d.net d.wid
  | _ => applyAssert (applyRetract s writer d.net d.wid) writer d.net d.image

/-- Is a slot LIVE (R269)? -/
def liveSlot (s : State) (iid w : Nat) : Bool :=
  match (s.net iid).bind fun n => Tab.look n.wm w with
  | some (retracted, _, _) => !retracted
  | none => false

/-- Tokens that a delta places in the delta queue (R283): none for the retraction of a slot that is not LIVE. -/
def Delta.tokens (s : State) (d : Delta) : Nat :=
  let scrub := b2n (liveSlot s d.net d.wid)
  match d.kind with
  | 0 => 1
  | 1 => scrub
  | _ => scrub + 1

/-! ### Tasks -/

/-- The networks that a task waits for before it commits (R283): those of its deltas, and the one whose firing it is. -/
def taskNets (k : Task) : List Nat := k.deltas.map Delta.net ++ k.net.toList

/-- A task may commit or become irrevocable: it is the oldest, below the barrier, its networks settled (R175, R177, R196, R283). -/
def mayCommit (s : State) (k : Task) : Bool :=
  decide (s.tasks.head? = some k) && !k.withdrawn && decide (k.ts < s.bts.toNat) && (taskNets k).all (netSettled s)

/-- Write a task's versioned lines and apply its deltas, as one commit (R174, R175, R283). -/
def commitLines (s : State) (k : Task) : State :=
  let s0 := s.onTask k.id fun t => { t with vlines := [], deltas := [], reads := [] }
  let s1 := k.vlines.foldl (fun s l =>
    (runsOf (l.2.map fun e => (l.1 * 64 + e.1, e.2))).foldl (fun s r => homeWrite s (some k.id) r.1 r.2) s) s0
  k.deltas.foldl (applyDelta (some k.id)) s1

/-- A task leaves the list of uncommitted tasks; its thread's ts becomes 0. -/
def dropTask (s : State) (k : Task) : State :=
  let s1 := { s with tasks := s.tasks.filter fun t => decide (t.id ≠ k.id) }
  match k.tid with
  | some tid => s1.onTh tid fun t => { t with sys := { t.sys with ts := 0 } }
  | none => s1

/-- The commit of a task (R174, R177): lines and deltas at once; a firing's entry becomes FIRED (R285). -/
def commitTask (s : State) (k : Task) : State :=
  let s1 := commitLines s k
  let s2 := match k.firing with
    | some e =>
      match Tab.look s1.fab.basin e with
      | some b => s1.putBasin (Tab.put s1.fab.basin e { b with st := .fired })
      | none => s1
    | none => s1
  dropTask s2 k

/-- Stores of a discarded task that have not reached its lines are discarded with it. -/
def dropStores (t : Thread) : Thread := { t with pend := t.pend.filter fun e => !e.kind.isS }

/-- Discard a task that never commits: lines, reads, deltas, reservations (R179, R284). -/
def discardTask (s : State) (k : Task) : State := dropTask (returnReservations s k.deltas) k

/-- The instruction that waits for a task's end completes: TEND and TABORT write D, HALT halts (R99, R177). -/
def endedWait (s : State) (tid : Nat) (result : W) : State :=
  s.onTh tid fun t =>
    match t.why with
    | .commit (some d) => { t.wg d result with st := .runnable, why := .none, pc := t.pc + 8 }
    | .commit none => { t with st := .halted, why := .none }
    | _ => t

/-- A firing is withdrawn (R284): its work is discarded. One that waits in TEND gets 1 from it when its loads have retired (R177); any other's
thread halts at once. -/
def withdrawFiring (s : State) (k : Task) : State :=
  match k.tid with
  | none => discardTask s k
  | some tid =>
    match (s.th tid).why with
    | .commit _ =>
      let s1 := (returnReservations s k.deltas).onTask k.id fun t =>
        { t with withdrawn := true, firing := none, reads := [], vlines := [], deltas := [] }
      s1.onTh tid dropStores
    | _ => (discardTask s k).onTh tid fun t => { t with st := .halted, why := .none, pend := [], imp := [], stale := [] }

/-- A Basin entry is removed; when it is FIRING its firing is withdrawn, but for one that has become irrevocable (R284). -/
def removeEntry (s : State) (e : Nat) : State :=
  match Tab.look s.fab.basin e with
  | none => s
  | some _ =>
    let s1 := s.putBasin (Tab.del s.fab.basin e)
    let s2 := { s1 with fab := { s1.fab with firings := s1.fab.firings.filter fun f => decide (f.entry ≠ e) } }
    match s2.tasks.find? (fun t => decide (t.firing = some e)) with
    | none => s2
    | some k => if k.irrev then s2.onTask k.id fun t => { t with firing := none } else withdrawFiring s2 k

/-- A thread waits in TEND, TABORT or HALT for its task's end, with no access of it outstanding (R177). -/
def endsTask (s : State) (tid : Nat) : Bool :=
  !s.frozen tid && decide ((s.th tid).l = 0) && decide ((s.th tid).s = 0) &&
  match (s.th tid).why with
  | .commit _ => true
  | _ => false

/-- A withdrawn firing whose TEND may return (R177, R179). -/
def withdrawnNow (s : State) : Option (Task × Nat) :=
  s.tasks.findSome? fun k => if k.withdrawn then k.tid.bind fun tid => if endsTask s tid then some (k, tid) else none else none

/-- TASK_COMMIT (R177): a withdrawn firing's TEND returns 1; else the oldest uncommitted task commits when its thread waits for that and R177
lets it. -/
def execTaskCommit (s : State) : Out :=
  match withdrawnNow s with
  | some (k, tid) => .next (endedWait (discardTask s k) tid 1)
  | none =>
    match s.tasks with
    | [] => .next s
    | k :: _ =>
      match k.tid with
      | none => .next s
      | some tid => if mayCommit s k && endsTask s tid then .next (endedWait (commitTask s k) tid 0) else .next s

/-- TASK_IRREVOCABLE (R175): the oldest task whose instruction waits for that commits its lines and deltas, and goes on untracked. -/
def execTaskIrrevocable (s : State) : Out :=
  match s.tasks with
  | [] => .next s
  | k :: _ =>
    match k.tid with
    | none => .next s
    | some tid =>
      if (s.th tid).why = .irrevocable ∧ mayCommit s k = true ∧ s.frozen tid = false then
        let s1 := (commitLines s k).onTask k.id fun t => { t with irrev := true }
        .next (s1.onTh tid fun t => { t with st := .runnable, why := .none })
      else .next s

end Sys2Proof.Machine
end

