-- ==== Sys2Proof/Machine/Tref.lean ====
section
/-! DEFINITION. Tile names, tile-table entries, object descriptors (spec 09_memory_ops R184, 13_tables R247 to R251). -/
namespace Sys2Proof.Machine

/-- The core that bits 25:8 of a TREF name (R184), or none when it names no core. -/
def trefCore (t : Nat) : Option Nat :=
  if bits t 12 8 < 24 then some (coreNo (bits t 25 24) (bits t 19 16) (bits t 12 8)) else none

/-- The reserved bits of a TREF are zero (R184). -/
def trefZero (t : Nat) : Bool := decide (t < 2 ^ 26) && decide (bits t 23 20 = 0) && decide (bits t 15 13 = 0)

/-- Does a core lie in an owner's regions (R143, R184)? -/
def mayCore (s : State) (owner core : Nat) : Bool := !isBench core && s.ownsCore owner core

/-- The tile-table key of a TREF that its sender may use: core × 256 + index; none when it may not (R184). -/
def trefKey (s : State) (owner : Nat) (t : W) : Option Nat :=
  if trefZero t.toNat then
    match trefCore t.toNat with
    | some c => if mayCore s owner c then some (c * 256 + t.toNat % 256) else none
    | none => none
  else none

/-- A tile-table entry. -/
def State.tile (s : State) (k : Nat) : TileEnt := Tab.getD s.tab.tiles k .reset

/-- The state that a tile had when the cycle began (R296). -/
def State.tileThen (s : State) (k : Nat) : TileSt :=
  match s.shot.findSome? fun u => match u with
    | .tile j st => if j = k then some st else none
    | _ => none with
  | some st => st
  | none => (s.tile k).st

/-- Write a tile-table entry; one that is as after reset is not listed. The state it had when the cycle began is kept (R296). -/
def State.putTile (s : State) (k : Nat) (e : TileEnt) : State :=
  { s with
    shot := if (s.tile k).st ≠ e.st ∧ s.tileThen k = (s.tile k).st then .tile k (s.tile k).st :: s.shot else s.shot,
    tab := { s.tab with tiles := Tab.set s.tab.tiles .reset k e } }

/-- Update a tile-table entry. -/
def State.onTile (s : State) (k : Nat) (f : TileEnt → TileEnt) : State := s.putTile k (f (s.tile k))

/-- The STATE field (R247). -/
def TileSt.code : TileSt → Nat
  | .empty => 0 | .filling => 1 | .ready => 2 | .draining => 3

/-- Bits 63:0 of an entry (R247). -/
def TileEnt.low (e : TileEnt) : W :=
  w64 (e.owner * 2 ^ 48 + e.handle % 4096 * 2 ^ 36 + e.size % 64 * 2 ^ 30 + e.offset % 8192 * 2 ^ 17 + e.flags % 32 * 2 ^ 12 +
    b2n e.poison * 2 ^ 11 + e.st.code * 2 ^ 9)

/-- The STATE of a code. -/
def TileSt.ofCode (c : Nat) : TileSt := match c % 4 with
  | 0 => .empty | 1 => .filling | 2 => .ready | _ => .draining

/-- The entry of two words (R247). -/
def TileEnt.ofWords (low bitmap : W) : TileEnt :=
  { bitmap := bitmap, owner := fld low 63 48, handle := fld low 47 36, size := fld low 35 30, offset := fld low 29 17, flags := fld low 16 12,
    poison := bit low.toNat 11, st := .ofCode (fld low 10 9) }

/-- The word of an operand-ring descriptor, and the descriptor of a word (R301). -/
def ORing.word (r : ORing) : W := w64 (b2n r.v * 2 ^ 32 + r.first % 256 * 2 ^ 24 + r.count % 256 * 2 ^ 16 + r.head % 256 * 2 ^ 8 + r.tail % 256)
def ORing.ofWord (w : W) : ORing := ⟨bit w.toNat 32, fld w 31 24, fld w 23 16, fld w 15 8, fld w 7 0⟩

/-- Reinitialisation (R247): BITMAP, FLAGS and POISON are zero. -/
def TileEnt.fresh (e : TileEnt) (st : TileSt) : TileEnt := { e with bitmap := 0, flags := 0, poison := false, st := st }

/-- The bytes of a tile, and the PA of one of its bytes (R247, R142). -/
def TileEnt.bytes (e : TileEnt) : Nat := (e.size + 1) * 512
def tilePa (s : State) (k off : Nat) : Nat := poolPa (k / 256) ((s.tile k).offset * 512 + off)

/-! ### Object descriptors (R250, R251) -/

/-- The handle-table entry of a context's handle. -/
def State.handle (s : State) (ctxid idx : Nat) : Option Handle := Tab.look s.tab.handles (ctxid * 4096 + idx % 4096)

/-- A descriptor read from 64 bytes that stand at a VA: BASE and the scale vector resolved (R250, R259). -/
def Desc.ofBytes64 (bs : List Byte) (va : Nat) : Desc :=
  let rel := bit (leAt bs 13 1) 7
  let base := leAt bs 0 8
  let sc := leAt bs 48 8
  let scale := if rel && bit sc 63 then 2 ^ 63 + (wInt (sext sc 51) + w64 va).toNat % 2 ^ 51 else sc
  { base := if rel then w64 base + w64 va else w64 base,
    extent := leAt bs 8 5,
    wr := bit (leAt bs 13 1) 1,
    fmt := leAt bs 14 1,
    rank := leAt bs 15 1 % 8,
    dim := (upto 0 4).map fun i => leAt bs (16 + 4 * i) 4,
    stride := (upto 0 4).map fun i => sext (leAt bs (32 + 4 * i) 4) 32,
    scale := w64 scale,
    sparse := leAt bs 56 2,
    drop := leAt bs 58 2,
    gen := leAt bs 60 4 }

/-- The 64 bytes of a handle-table entry: V set, REL zero, addresses absolute (R250). -/
def Desc.toBytes64 (d : Desc) (v : Bool) : List Byte :=
  toBytes 8 d.base.toNat ++ toBytes 5 d.extent ++ toBytes 1 (b2n v + 2 * b2n d.wr) ++ toBytes 1 d.fmt ++ toBytes 1 d.rank ++
  (d.dim.flatMap fun n => toBytes 4 n) ++ (d.stride.flatMap fun (n : Int) => toBytes 4 (n % ((2 ^ 32 : Nat) : Int)).toNat) ++
  toBytes 8 d.scale.toNat ++ toBytes 2 d.sparse ++ toBytes 2 d.drop ++ toBytes 4 d.gen

/-- SPARSE fields: N and M of the pattern, T_max, residual capacity (R250). -/
def Desc.pattern (d : Desc) : Nat := d.sparse % 8
def Desc.nm (d : Desc) : Nat × Nat := match d.pattern with
  | 1 => (1, 4) | 2 => (2, 4) | 3 => (2, 8) | 4 => (4, 8) | _ => (0, 0)
def Desc.tmax (d : Desc) : Nat := bits d.sparse 4 3 + 1
def Desc.rcap (d : Desc) : Nat := bits d.sparse 11 5

/-- The element index of coordinates (R251). -/
def Desc.index (d : Desc) (cs : List Nat) : Int :=
  ((cs.zip d.stride).foldl (fun a e => a + (e.1 : Int) * e.2) 0)

/-- The used extents and strides. -/
def Desc.dims (d : Desc) : List Nat := d.dim.take d.rank
def Desc.strides (d : Desc) : List Int := d.stride.take d.rank

/-- Number of elements. -/
def Desc.count (d : Desc) : Nat := d.dims.foldl (fun a b => a * b) 1

/-- The byte offset of a stored unit that holds an element index, and the element's place in it (R225, R251). -/
def unitOf (fmt e : Nat) : Nat × Nat := (e / unitElems fmt * unitBytes fmt, e % unitElems fmt)

/-- A reserved format code (R108). -/
def fmtReserved (c : Nat) : Bool := decide (c = 0x11) || decide (0x19 ≤ c)

end Sys2Proof.Machine
end

