-- ==== Sys2Proof/Machine/Threads.lean ====
section
/-! DEFINITION. Control instructions, opcodes 0x48 to 0x4F, task instructions, 0x60 to 0x66, counters, 0x68 to 0x6E (spec
05_integer R97 to R102, 09_memory_ops R176 to R181, 16_counters R315 to R322, 13_tables R261). -/
namespace Sys2Proof.Machine

/-! ### Branches (R98) -/

/-- Set the pc. -/
def goto (t : W) (s : State) : State := s.onMe fun th => { th with pc := t }

/-- A displacement in words, as bytes (R98). -/
def dispBytes (d : BitVec 39) : W := wInt (sext d.toNat 39 * 8)

/-- The target of a branch word: pc plus displacement. -/
def relTarget (x : TB) (s : State) : W := s.me.pc + dispBytes x.disp

/-- BR (R98). -/
def execBr (x : TB) (s : State) : Out := issueJump x.pg [] [] (fun s => .ok (goto (relTarget x s) s)) s

/-- A branch to a register (R98): a misaligned target traps at the branch. -/
def gotoReg (x : TB) : Body := fun s =>
  let t := s.me.rg x.a.toNat + dispBytes x.disp
  if t.toNat % 8 ≠ 0 then .error (.trap cALIGN t) else .ok (goto t s)

/-- BRI (R98). -/
def execBri (x : TB) (s : State) : Out := issueJump x.pg [x.a] [] (gotoReg x) s

/-- RET (R98). -/
def execRet (x : TB) (s : State) : Out := issueJump x.pg [x.a] [] (gotoReg x) s

/-- CALL (R98): the link is written; g0 drops it. -/
def execCall (x : TB) (s : State) : Out :=
  issueJump x.pg [] [x.a] (fun s => .ok ((goto (relTarget x s) s).onMe fun t => t.wg x.a.toNat (s.me.pc + 8))) s

/-! ### HALT, YIELD, SPAWN (R99, R101, R102) -/

/-- The end of a task as TEND makes it (R177): the wait for L and S, and for the commit or the withdrawal, which TASK_COMMIT ends. -/
def endTask (d : Option Nat) : Except Stop State := .error (.stall (.commit d))

/-- HALT (R99): inside a task it first ends the task; it waits until L and S are zero. -/
def execHalt (x : T3) (s : State) : Out :=
  issueJump x.pg [] [] (fun s =>
    match s.taskOf s.cur with
    | some _ => endTask none
    | none =>
      if s.me.l = 0 ∧ s.me.s = 0 then .ok (s.onMe fun t => { t with st := .halted, why := .none })
      else .error (.stall (.limits 0 0 15 15))) s

/-- YIELD (R101): the thread goes to the end of the round-robin order. -/
def execYield (x : T3) (s : State) : Out :=
  issue x.pg [] [] (fun s => .ok { s with rr := Tab.put s.rr (shardOf s.cur) s.cur }) s

/-- The lowest-numbered HALTED thread of a shard (R102). -/
def haltedThread (s : State) (shard : Nat) : Option Nat :=
  (upto (shard * 8) 8).find? fun t => decide ((s.th t).st = .halted)

/-- Start a thread as SPAWN does (R102): everything not named is as at thread start. -/
def startThread (s : State) (tid : Nat) (from_ : Thread) (pc g1 g2 ts : W) : State :=
  ({ s with nextId := s.nextId + 1 }).putTh tid
    { Thread.reset with
      g := Tab.set (Tab.set [] 0 1 g1) 0 2 g2, pc := pc, st := .runnable, modul := from_.modul, born := s.nextId,
      sys := { Sys.reset with
        ts := ts, ctx := from_.sys.ctx, owner := from_.sys.owner, prio := from_.sys.prio, quant := from_.sys.quant, pw := from_.sys.pw } }

/-- SPAWN (R102). -/
def execSpawn (x : TB) (s : State) : Out :=
  issue x.pg [x.a] [x.a] (fun s => do
    needIrrev s
    match haltedThread s (shardOf s.cur) with
    | none => .ok (s.onMe fun t => t.wg x.a.toNat allOnes)
    | some n =>
      let s1 := startThread s n s.me (relTarget x s) (s.me.rg 1) (s.me.rg x.a.toNat) 0
      .ok (s1.onMe fun t => t.wg x.a.toNat (w64 n))) s

/-! ### WAITA (R100) -/

/-- Is a message interrupt pending and enabled? -/
def Thread.intReady (t : Thread) : Bool := decide (t.sys.intpend &&& t.sys.intmask ≠ 0)

/-- Park the issuing thread. -/
def park (w : Why) (s : State) : State := s.onMe fun t => { t with st := .parked, why := w, stale := [] }

/-- WAITA (R100): the watched word is read and the watch armed in one action. DESIGN CHOICE (log 73): poison on its line at issue is a precise
POISON trap whose xval the spec does not state; the read on waking looks at no poison. -/
def execWaita (x : TM) (s : State) : Out :=
  issueJump x.pg [x.a, x.d, x.d + 1] [x.d] (fun s => do
    let va := addrTM x s
    needAlign va 8
    needIrrev s
    let (s0, t) ← xlate .read va 8 s
    let s1 := s0.reads t 8
    if !settled s.me (decide (x.rel = 1)) (upto t.pa 8) then .error (.stall (.fence true true)) else
    if s1.mem.bad t.pa then .error (.trapOpen cPOISON) else
    let v := w64 (s1.mem.word t.pa 8)
    let ex := s.me.rg x.d.toNat
    let timeout := s.me.rg (x.d.toNat + 1)
    if v = ex ∧ timeout ≠ 0 ∧ s.me.intReady = false then
      .ok (park (.watch t.pa ex timeout (w64 s.gtsc) x.d.toNat false) s1)
    else .ok (advance (s1.onMe fun th => (th.wg x.d.toNat v).sync (decide (x.acq = 1))))) s

/-! ### Tasks (R177 to R181) -/

/-- A timestamp of a key and a source (R34). -/
def stamp (key : W) (source : Nat) : Nat := fld key 47 0 * 65536 + source

/-- Uncommitted tasks of a die (R177). -/
def tasksOfDie (s : State) (die : Nat) : Nat := (s.tasks.filter fun t => decide (t.shard / 32 = die)).length

/-- TSPAWN (R177): the spawner's accesses before it happen before the task's first instruction (R194). -/
def execTspawn (x : TB) (s : State) : Out :=
  issue x.pg [x.a, x.a + 1] [x.a] (fun s => do
    needIrrev s
    needRel s
    if 4096 ≤ tasksOfDie s (dieOf s.cur) then .error (.stall .taskRoom) else
    match haltedThread s (shardOf s.cur) with
    | none => .ok (s.onMe fun t => t.wg x.a.toNat allOnes)
    | some n =>
      let ts := stamp (s.me.rg x.a.toNat) s.cur
      let arg := s.me.rg (x.a.toNat + 1)
      let pc := relTarget x s
      let k : Task := ⟨s.nextId, ts, some n, pc, s.me.rg 1, arg, 0, false, [], [], [], none, none, false, shardOf n, 0⟩
      let s1 := startThread { s with nextId := s.nextId + 1 } n s.me pc (s.me.rg 1) arg (w64 ts)
      let s2 := { s1 with tasks := insertTask k s1.tasks }
      .ok (s2.onMe fun t => t.wg x.a.toNat (w64 n))) s

/-- TEND (R177): waits for the commit; outside a task D is 0. -/
def execTend (x : T3) (s : State) : Out :=
  issue x.pg [] [x.d] (fun s =>
    match s.taskOf s.cur with
    | none => .ok (s.onMe fun t => t.wg x.d.toNat 0)
    | some _ => endTask (some x.d.toNat)) s

/-- TABORT (R179): the task ends without committing; a firing's entry goes with it; an irrevocable task ends as TEND ends it. -/
def execTabort (x : T3) (s : State) : Out :=
  issue x.pg [] [x.d] (fun s =>
    match s.taskOf s.cur with
    | none => .ok (s.onMe fun t => t.wg x.d.toNat 0)
    | some k =>
      if k.irrev then endTask (some x.d.toNat)
      else
        let s1 := discardTask (s.onMe dropStores) k
        let s2 := match k.firing with
          | some e => removeEntry s1 e
          | none => s1
        .ok (s2.onMe fun t => t.wg x.d.toNat 1)) s

/-- TSTAMP (R181). -/
def execTstamp (x : T3) (s : State) : Out :=
  issue x.pg [x.a] [x.d] (fun s => .ok (s.onMe fun t => t.wg x.d.toNat (w64 (stamp (s.me.rg x.a.toNat) s.cur)))) s

/-- Is an XCKPT running (R180, R360)? -/
def ckptRuns (s : State) : Bool := s.eng.cmds.any fun c => decide (c.msg.op = 0x76) && c.keep

/-- TBARRIER (R180): BTS is exchanged; then the thread waits for the tasks below A, and D takes the old BTS. -/
def execTbarrier (x : T3) (s : State) : Out :=
  issueJump x.pg [x.a] [x.d] (fun s => do
    needPrv s
    if ckptRuns s then .error (.stall .ckpt) else
    let a := s.me.rg x.a.toNat
    let old := s.bts
    let s1 := { s with bts := a }
    if a ≠ allOnes ∧ s.tasks.any (fun t => decide (t.ts < a.toNat)) = true then
      .ok (s1.onMe fun t => { t with st := .stalled, why := .barrierTs x.d.toNat a old })
    else .ok (advance (s1.onMe fun t => t.wg x.d.toNat old))) s

/-- TDIRECT (R181). -/
def execTdirect (x : T3) (s : State) : Out :=
  issue x.pg [] [] (fun s => do
    needIrrev s
    .ok s) s

/-- GVT's wait is over (R181). -/
def gvtMet (s : State) (tid : Nat) (a : W) : Bool :=
  decide (a.toNat < s.gvt.toNat) ||
  (match s.taskOf tid with
   | some k => decide (k.ts ≤ a.toNat) && s.oldest tid
   | none => false)

/-- GVT (R181). -/
def execGvt (x : T3) (s : State) : Out :=
  issue x.pg [x.a] [x.d] (fun s =>
    let a := s.me.rg x.a.toNat
    if gvtMet s s.cur a then .ok (s.onMe fun t => t.wg x.d.toNat s.gvt) else .error (.stall (.gvt a))) s

/-! ### Counters (R315 to R322) -/

/-- A limit of WAIT holds (R315). -/
def limitOk (lim n : Nat) : Bool := decide (lim = 15) || decide (n ≤ lim)
def limitsMet (t : Thread) (l s c k : Nat) : Bool := limitOk l t.l && limitOk s t.s && limitOk c t.c && limitOk k t.k

/-- WAIT (R315). -/
def execWait (x : TW) (s : State) : Out :=
  issue x.pg [] [] (fun s =>
    if limitsMet s.me x.l.toNat x.s.toNat x.c.toNat x.k.toNat then .ok s
    else .error (.stall (.limits x.l.toNat x.s.toNat x.c.toNat x.k.toNat))) s

/-- Chunk bits of WAITM hold (R321). -/
def chunksMet (e : TileEnt) (cls : Nat) (mask : W) : Bool :=
  if cls = 0 then decide (e.bitmap &&& mask = mask) else decide (e.bitmap &&& mask ≠ 0)

/-- WAITM (R321): no counter, no irrevocability. -/
def execWaitm (x : TX) (s : State) : Out :=
  issue x.pg [x.a, x.b] [x.b] (fun s =>
    let t := s.me.rg x.a.toNat
    match trefKey s s.me.own t with
    | none => .error (.trap cPRIV t)
    | some k =>
      let e := s.tile k
      let mask := s.me.rg x.b.toNat
      if e.poison then .error (.trap cPOISON t)
      else if chunksMet e x.cls.toNat mask then .ok (s.onMe fun th => (th.wg x.b.toNat e.bitmap).sync (decide (x.acq = 1)))
      else .error (.stall (.chunks k x.cls.toNat mask))) s

/-- WAITT (R261). -/
def execWaitt (x : TX) (s : State) : Out :=
  issue x.pg [x.a] [x.b] (fun s =>
    let t := s.me.rg x.a.toNat
    match trefKey s s.me.own t with
    | none => .error (.trap cPRIV t)
    | some k =>
      let e := s.tile k
      if e.st.code = x.cls.toNat ∨ e.poison = true then .ok (s.onMe fun th => (th.wg x.b.toNat e.low).sync (decide (x.acq = 1)))
      else .error (.stall (.tileState k x.cls.toNat))) s

/-- A barrier object's access: 32-byte alignment (R320). -/
def barrierBody (kind : PKind) (d : Nat) (x : TM) (data data2 : W) : Body := fun s => do
  needIrrev s
  let va := addrTM x s
  let (s1, t) ← xlate .write va 32 s
  needHost (decide (kind = .barr)) t.pa va s
  (if kind.isL then needRoom 0 s else .ok ())
  needRoom 1 s
  needClean (decide (x.rel = 1)) (upto t.pa 32) s1
  .ok (pushPend { (Pend.mk0 kind 0 d va 32 [t.pa]).mapped t with
    scope := x.scope.toNat, acq := decide (x.acq = 1), rel := decide (x.rel = 1), data := data, data2 := data2 } s1)

/-- BINIT (R320). -/
def execBinit (x : TM) (s : State) : Out :=
  issue x.pg [x.a, x.d, x.d + 1] [] (fun s =>
    barrierBody .binit 0 x (s.me.rg x.d.toNat) (s.me.rg (x.d.toNat + 1)) s) s

/-- BARR (R320). -/
def execBarr (x : TM) (s : State) : Out := issue x.pg [x.a] [] (barrierBody .barr x.d.toNat x 0 0) s

/-- GEN and ARRIVED of a barrier object into D and D + 1 (R320). -/
def takeBarrier (s : State) (tid pa d : Nat) : State :=
  let m := (s.refresh (upto pa 32)).mem
  s.onTh tid fun t => (t.wg d (w64 (m.word (pa + 16) 4))).wg (d + 1) (w64 (m.word pa 8))

/-- BWAIT (R320). -/
def execBwait (x : TM) (s : State) : Out :=
  issueJump x.pg [x.a, x.d, x.d + 1] [x.d, x.d + 1] (fun s => do
    needIrrev s
    let va := addrTM x s
    let (s0, t) ← xlate .read va 32 s
    let s1 := s0.reads t 32
    if !settled s.me false (upto t.pa 32) then .error (.stall (.fence true true)) else
    if s1.mem.bad t.pa then .error (.trapOpen cPOISON) else
    let want := (s.me.rg x.d.toNat).toNat % 2 ^ 32
    let timeout := s.me.rg (x.d.toNat + 1)
    if timeout ≠ 0 ∧ s1.mem.word (t.pa + 16) 4 = want ∧ s1.mem.word t.pa 8 < s1.mem.word (t.pa + 8) 8 then
      .ok (park (.barrier t.pa want timeout (w64 s.gtsc) x.d.toNat false) s1)
    else .ok (advance ((takeBarrier s1 s.cur t.pa x.d.toNat).onMe fun th => th.sync (decide (x.acq = 1))))) s

/-- A performance counter of a core (R323): 48 bits. -/
def perfOf (s : State) (core c : Nat) : W := w64 (Tab.getD s.fab.perf (core * 8 + c) 0 % 2 ^ 48)

/-- CNTRD's value, or PRIV (R322). -/
def counterOf (s : State) (sel : Nat) (a : W) : Except Stop W :=
  let t := s.me
  match sel with
  | 0 => .ok (w64 t.l)
  | 1 => .ok (w64 t.s)
  | 2 => .ok (w64 t.c)
  | 3 => .ok (w64 t.k)
  | 4 => .ok (w64 (t.l + t.s * 2 ^ 8 + t.c * 2 ^ 16 + t.k * 2 ^ 24))
  | 5 => .ok (w64 ((s.taskOf s.cur).map Task.aborts |>.getD 0))
  | 6 => .ok (w64 (Tab.getD s.eng.fallback (shardOf s.cur) 0))
  | 16 =>
    match s.inv (fld a 17 0) with
    | some i =>
      if i.owner = t.own then .ok (w64 (Tab.getD (i.st (fld a 31 18)).drops (fld a 39 32) 0))
      else .error (.trap cPRIV a)
    | none => .error (.trap cPRIV a)
  | n =>
    match trefCore (fld a 25 8 * 256) with
    | some core => if mayCore s t.own core then .ok (perfOf s core (n - 8)) else .error (.trap cPRIV a)
    | none => .error (.trap cPRIV a)

/-- CNTRD (R322). -/
def execCntrd (x : T3) (s : State) : Out :=
  issue x.pg [x.a] [x.d] (fun s => do
    needQ [x.d] s
    let v ← counterOf s x.c.toNat (s.me.rg x.a.toNat)
    putV x.d v s) s

end Sys2Proof.Machine
end

