-- ==== Sys2Proof/Machine/Msgs.lean ====
section
/-! DEFINITION. Active messages: building them, the inboxes, the counters they raise and retire (spec 02_machine R32, 09_memory_ops
R182, R183, 11_queues R214). -/
namespace Sys2Proof.Machine

/-- Source numbers of engines (R33). -/
def srcBasin (die : Nat) : Nat := 0x400 + die
def srcHard (die : Nat) : Nat := 0x410 + die
def srcBte (tid : Nat) : Nat := 0x420 + dieOf tid * 8 + shardOf tid % 32 / 4
def srcColl : Nat := 0x480
def srcDir : Nat := 0x481
def srcBench : Nat := 0x490

/-- The source number of a dot block: that of its C-cell (R33). -/
def isDotSrc (n : Nat) : Bool := decide (0x8000 ≤ n) && decide (n < 0xc000) && decide (n % 4096 < 0xc00) && decide (n % 8 < 4)

/-- Messages that an inbox holds (R214); the hard cores' request queue has no stated depth. A dot engine's record issues only while the engine
is free (R296), so that its inbox never fills. -/
def inboxDepth (eng : Nat) : Option Nat :=
  if isDotSrc eng then some 2 else
  if 0x400 ≤ eng ∧ eng < 0x404 then some 64
  else if 0x420 ≤ eng ∧ eng < 0x440 then some 64
  else if eng = srcColl ∨ eng = srcDir then some 256
  else none

/-- An inbox, and its replacement. -/
def State.inbox (s : State) (eng : Nat) : List Msg := Tab.getD s.eng.inbox eng []
def State.putInbox (s : State) (eng : Nat) (ms : List Msg) : State :=
  { s with eng := { s.eng with inbox := Tab.set s.eng.inbox [] eng ms } }

/-- Is there room in an inbox (R214)? -/
def inboxRoom (s : State) (eng : Nat) : Bool :=
  match inboxDepth eng with
  | some n => decide ((s.inbox eng).length < n)
  | none => true

/-- A message enters an inbox (R214). -/
def deliver (eng : Nat) (m : Msg) (s : State) : State := s.putInbox eng (s.inbox eng ++ [m])

/-- The message of a TX word, as its thread sends it: everything but the operands that a descriptor gives (R182). -/
def msgOf (op : Nat) (x : TX) (s : State) : Msg :=
  { op := op, fn := x.fn.toNat, cls := x.cls.toNat, imm := x.imm.toNat, scope := x.scope.toNat,
    acq := decide (x.acq = 1), rel := decide (x.rel = 1), tid := s.cur, owner := s.me.own, ctxid := s.me.ctxid, prv := s.me.prv,
    modul := s.me.modul, pc := s.me.pc, no := s.nextId, opnd := [], reply := 0, hv := false, hidx := 0, hreg := 0,
    a := s.me.rg x.a.toNat, b := s.me.rg x.b.toNat, d := x.b.toNat }

/-- With the h operand of B (R74). -/
def Msg.withH (m : Msg) (x : TX) (s : State) : Msg :=
  let h := s.me.rh (x.b.toNat - 88)
  { m with hv := bit h.toNat 15, hidx := h.toNat % 4096, hreg := x.b.toNat - 88 }

/-- Send a command: its counter C rises; a full inbox holds the thread with the counter raised (R182, R214). -/
def sendCmd (eng : Nat) (m : Msg) (s : State) : State :=
  let s1 := ({ s with nextId := s.nextId + 1 }).onMe fun t => { t with c := t.c + 1 }
  if inboxRoom s eng then advance (deliver eng m s1)
  else s1.onMe fun t => { t with st := .stalled, why := .inbox eng m }

/-- Change the thread that sent a message, when this run of it did. -/
def onSender (m : Msg) (f : Thread → Thread) (s : State) : State :=
  if m.tid = hostTid then s else s.onTh m.tid fun t => if t.born ≤ m.no then f t else t

/-- C, K fall when a command of this run of the thread retires (R314). -/
def retireC (m : Msg) (s : State) : State := onSender m (fun t => { t with c := t.c - 1 }) s
def retireK (m : Msg) (s : State) : State := onSender m (fun t => { t with k := t.k - 1 }) s

/-- An imprecise trap falls due for the sender (R163, R256). -/
def dueTrap (m : Msg) (code : Nat) (v : W) (s : State) : State := onSender m (fun t => { t with imp := t.imp ++ [(code, v)] }) s

/-- A g register of the sender takes a result. -/
def setResult (m : Msg) (v : W) (s : State) : State := onSender m (fun t => t.wg m.d v) s

/-- Read the fixed part of a command's operand at issue: PAGE, or POISON whose xval is not stated (log 2). Earlier accesses of the
thread to the same bytes come first (R190). -/
def readAtIssue (va n : Nat) (s : State) : Except Stop (State × List Byte) := do
  let (s1, xs) ← xlatesX .read va n s
  let pas := xs.map Xl.pa
  let s2 := (s1.bring ((xs.filter Xl.cached).map Xl.pa)).refresh pas
  if !cmdSettled s.me pas then .error (.stall (.fence true true)) else
  if pas.any s2.mem.bad then .error (.trapOpen cPOISON) else .ok (s2, pas.map s2.mem.rd)

/-- The words of some bytes. -/
def wordsOf (bs : List Byte) : List W := (upto 0 (bs.length / 8)).map fun k => w64 (leAt bs (8 * k) 8)

/-- Who a message acts for on a die (R143, R182). -/
def Msg.who (m : Msg) : Who := ⟨dieOf m.tid, m.ctxid, m.owner, m.prv, none⟩

/-- The record of a command to its sender's context (R172, R183): KIND 0, at the word that sent it. -/
def recSender (m : Msg) (src code : Nat) (v : W) (s : State) : State := s.recThread m.tid src code 0 m.pc.toNat v

/-- The reply word (R183). -/
def replyWord (status code done : Nat) : W := w64 (status * 2 ^ 56 + code * 2 ^ 48 + done % 2 ^ 48)

/-- Write a reply word and retire the counter; one that cannot be written makes a PAGE record instead (R183). -/
def writeReply (m : Msg) (src status code done : Nat) (s : State) : State :=
  if m.reply = 0 then s else
  match writeVa s m.who none m.reply.toNat (toBytes 8 (replyWord status code done).toNat) with
  | .ok s1 => s1
  | .error (k, va) => recSender m src cPAGE (pageValue k .write va) s

/-- An engine's first access waits for the sender's earlier accesses: all of them with ACQ (R182, R197), else those that R190 orders before
the command's issue. -/
def acqHeld (m : Msg) (s : State) : Bool := (m.acq && (s.th m.tid).unperformed m.no) || (s.th m.tid).ordered m.no
def relHeld (m : Msg) (s : State) : Bool := m.rel && (s.th m.tid).unperformed m.no

end Sys2Proof.Machine
end

