-- ==== Sys2Proof/Machine/System.lean ====
section
/-! DEFINITION. Exceptions and system instructions, opcodes 0xD0 to 0xD9 but the context moves; the four resolutions of a trap; waking
a parked thread (spec 17_faults R328, R339 to R342, 03_encoding R62, 05_integer R100). -/
namespace Sys2Proof.Machine

/-- ILLEGAL_INSTRUCTION_WORD (R62): a precise ILLEGAL trap whatever the predicate; xval holds the word. -/
def execIllegalInstructionWord (w : W) (s : State) : Out := .next (takeTrap s.cur cILLEGAL s.me.pc w s)

/-- TRAP (R340). -/
def execTrap (x : TI) (s : State) : Out := issueJump x.pg [] [] (fun _ => .error (.trap cTRAP (w64 x.imm.toNat))) s

/-- A BRK goes to the debug port when it is open (R340). -/
def toPort (pg : BitVec 4) (s : State) : State :=
  if s.debugOpen && predTrue pg s.me then { s with well := { s.well with breaks := s.cur :: s.well.breaks } } else s

/-- BRK (R340). -/
def execBrk (x : TI) (s : State) : Out := issueJump x.pg [] [] (fun _ => .error (.trap cBRK (w64 x.imm.toNat))) (toPort x.pg s)

/-- ERET (R340). -/
def execEret (x : T3) (s : State) : Out :=
  issueJump x.pg [] [] (fun s =>
    if s.me.hnd = false ∧ s.me.prv = false then .error (.trapOpen cPRIV)
    else if s.me.sys.xpc.toNat % 8 ≠ 0 then .error (.trapOpen cALIGN)
    else .ok (leaveTrap s.cur s)) s

/-- May the issuing thread post a vector to a thread (R341)? -/
def needPost (t : Nat) (s : State) : Except Stop Unit :=
  if !isThreadNo t then .error (.trapOpen cPRIV)
  else if (s.th t).own ≠ s.me.own ∧ s.me.prv = false then .error (.trapOpen cPRIV)
  else .ok ()

/-- MSGI (R341). -/
def execMsgi (x : TX) (s : State) : Out :=
  issue x.pg [x.a] [] (fun s => do
    needIrrev s
    let t := (s.me.rg x.a.toNat).toNat % 65536
    needPost t s
    if x.rel = 1 ∧ fenceMet s.me true true = false then .error (.stall (.fence true true))
    else .ok (s.post t (bits x.imm.toNat 5 0))) s

/-- IDLE (R341). -/
def execIdle (x : T3) (s : State) : Out :=
  issueJump x.pg [] [] (fun s => if s.me.intReady then .ok (advance s) else .ok (park .idle s)) s

/-- SIGNAL (R341): an ATOM.add.n64, then the vector of D + 1. -/
def execSignal (x : TM) (s : State) : Out :=
  issue x.pg [x.a, x.d, x.d + 1] [] (fun s => do
    let v := s.me.rg (x.d.toNat + 1)
    needIrrev s
    (if bit v.toNat 63 then needPost (fld v 15 0) s else .ok ())
    rmwBody .signal 2 x.d.toNat (addrTM x s) 8 8 x.scope.toNat false (decide (x.rel = 1)) (s.me.rg x.d.toNat) v s) s

/-- A context descriptor read from memory (R327). -/
def readCtx (m : Mem) (ctxid : Nat) : CtxDesc :=
  let b := m.ctxBase + ctxid * 64
  ⟨m.word b 8, m.word (b + 8) 8, w64 (m.word (b + 16) 8), w64 (m.word (b + 24) 8), m.word (b + 34) 2, m.word (b + 36) 1,
    m.word (b + 40) 2, m.word (b + 44) 4, w64 (m.word (b + 48) 8), m.word (b + 56) 4⟩

/-- PTSYNC (R342): earlier stores performed; then the named descriptor is read afresh. -/
def execPtsync (x : TM) (s : State) : Out :=
  issue x.pg [x.d] [] (fun s => do
    needPrv s
    if !fenceMet s.me false true then .error (.stall (.fence false true)) else
    let v := s.me.rg x.d.toNat
    if v = allOnes then .ok s
    else .ok { s with mem := { s.mem with ctx := Tab.put s.mem.ctx (fld v 15 0) (readCtx s.mem (fld v 15 0)) } }) s

/-- An empty message of a TM word. -/
def msgOfTM (op : Nat) (x : TM) (s : State) : Msg :=
  { op := op, fn := 0, cls := 0, imm := 0, scope := x.scope.toNat, acq := false, rel := false, tid := s.cur, owner := s.me.own,
    ctxid := s.me.ctxid, prv := s.me.prv, modul := s.me.modul, pc := s.me.pc, no := s.nextId,
    opnd := [w64 (addrTM x s), s.me.rg x.d.toNat], reply := 0, hv := false, hidx := 0, hreg := 0,
    a := s.me.rg x.a.toNat, b := 0, d := 0 }

/-- A started command with nothing done. -/
def Cmd.start (id eng : Nat) (m : Msg) : Cmd := ⟨id, eng, m, none, none, false, 0, 0, [], none, [], [], none, [], 0, 0⟩

/-- Add a started command. -/
def addCmd (c : Cmd) (s : State) : State :=
  { s with nextId := s.nextId + 1, eng := { s.eng with cmds := s.eng.cmds ++ [{ c with id := s.nextId }] } }

/-- A command that its own hard core runs at once: C rises and the command is in progress. -/
def startOwn (m : Msg) (s : State) : State :=
  addCmd (Cmd.start 0 (srcHard (dieOf s.cur)) m)
    (({ s with nextId := s.nextId + 1 }).onMe fun t => { t with c := t.c + 1 })

/-- TLBINV (R342): the operand's reserved bits must be zero; it counts on C until ENGINE_REPLY completes it. -/
def execTlbinv (x : TM) (s : State) : Out :=
  issue x.pg [x.a, x.d] [] (fun s => do
    needPrv s
    if bits (s.me.rg x.d.toNat).toNat 63 18 ≠ 0 then .error (.trapOpen cPRIV) else
    needRoom 2 s
    .ok (startOwn (msgOfTM 0xd6 x s) s)) s

/-- The entries that a TLBINV leaves (R342). -/
def tlbKeeps (va opnd : W) (e : TlbEnt) : Bool :=
  !bit opnd.toNat 17 && !(decide (e.ctxid = fld opnd 15 0) && (bit opnd.toNat 16 || e.covers e.ctxid va.toNat))

/-- May the walk of a miss fill an entry that a TLBINV covers (R156)? Of one address: where a page of the largest size would hold both. -/
def missCovered (va opnd : W) (m : Miss) : Bool :=
  bit opnd.toNat 17 || (decide (m.ctxid = fld opnd 15 0) && (bit opnd.toNat 16 || decide (m.va % 2 ^ 51 / 2 ^ 33 = va.toNat % 2 ^ 51 / 2 ^ 33)))

/-- Invalidate (R156, R342): SCOPE 3 the thread's die, 4 the package. The walks that it covers are over, and their fills dropped. -/
def tlbInvalidate (m : Msg) (s : State) : State :=
  let va := m.opnd.headD 0
  let op := (m.opnd.drop 1).headD 0
  { s with mem := { s.mem with
    tlb := s.mem.tlb.map fun e =>
      if m.scope = 4 ∨ e.1 / 32 = dieOf m.tid then (e.1, e.2.filter (tlbKeeps va op)) else e,
    misses := s.mem.misses.map fun e =>
      if m.scope = 4 ∨ e.1 / 32 = dieOf m.tid then (e.1, e.2.filter fun x => !missCovered va op x) else e } }

/-! ### Resolving a trap (R328) -/

/-- Does the open debug port hold a thread that trapped with BRK, in place of the hard core (R340)? -/
def portHolds (s : State) (tid : Nat) : Bool :=
  s.debugOpen && decide (tid ∈ s.well.breaks) && decide ((s.th tid).sys.xcause.toNat = cBRK)

/-- TRAP_RESUME (R328). -/
def execTrapResume (tid : Nat) (s : State) : Out :=
  if (s.th tid).st = .trapped ∧ portHolds s tid = false then .next (s.onTh tid fun t => { t with st := .runnable, pc := alignPc t.sys.xpc }) else .next s

/-- TRAP_SKIP (R328). -/
def execTrapSkip (tid : Nat) (s : State) : Out :=
  if (s.th tid).st = .trapped ∧ portHolds s tid = false then .next (s.onTh tid fun t => { t with st := .runnable, pc := alignPc t.sys.xpc + 8 }) else .next s

/-- HVEC of a thread's context (R327). -/
def hvecOf (s : State) (tid : Nat) : W :=
  match Tab.look s.mem.ctx (s.th tid).ctxid with
  | some c => c.hvec
  | none => 0

/-- TRAP_HANDLER (R328): refused, with nothing changed, when HVEC is 0 or HND is set. -/
def execTrapHandler (tid : Nat) (s : State) : Out :=
  if (s.th tid).st = .trapped ∧ portHolds s tid = false ∧ hvecOf s tid ≠ 0 ∧ (s.th tid).hnd = false then
    .next (s.onTh tid fun t => { t with st := .runnable, pc := alignPc (hvecOf s tid), hnd := true })
  else .next s

/-- TRAP_END (R328): the thread halts; its task ends as TABORT ends it, or, irrevocable, as TEND ends it first. -/
def execTrapEnd (tid : Nat) (s : State) : Out :=
  if (s.th tid).st = .trapped ∧ portHolds s tid = false then
    match s.taskOf tid with
    | none => .next (s.onTh tid fun t => { t with st := .halted, why := .none })
    | some k =>
      if k.irrev then .next (s.onTh tid fun t => { t with st := .stalled, why := .commit none })
      else
        let s1 := discardTask (s.onTh tid dropStores) k
        let s2 := match k.firing with
          | some e => removeEntry s1 e
          | none => s1
        .next (s2.onTh tid fun t => { t with st := .halted, why := .none })
  else .next s

/-! ### Waking (R100, R320, R341) -/

/-- A parked word completes: what WAITA or BWAIT reads, with no check for poison (log 73); the pc past the word. A DOPEN.wait that a message
interrupt has woken leaves its open waiting at the directory: DESIGN CHOICE (log 43). -/
def finishPark (tid : Nat) (s : State) : State :=
  let go := fun (st : State) => st.onTh tid fun t => { t with st := .runnable, why := .none, pc := t.pc + 8 }
  match (s.th tid).why with
  | .watch pa _ _ _ d _ => go (s.onTh tid fun t => t.wg d (w64 ((s.refresh (upto pa 8)).mem.word pa 8)))
  | .barrier pa _ _ _ d _ => go (takeBarrier s tid pa d)
  | .idle | .name _ => go s
  | _ => s

/-- THREAD_WAKE (R41, R79, R100, R320, R341): the watched word differed, the barrier was met, or an enabled vector is pending, which wakes
every PARKED thread. -/
def execThreadWake (tid : Nat) (s : State) : Out :=
  let t := s.th tid
  if t.st ≠ .parked ∨ s.frozen tid = true then .next s else
  match t.why with
  | .watch _ _ _ _ _ woken => if woken || t.intReady then .next (finishPark tid s) else .next s
  | .barrier _ _ _ _ _ woken => if woken || t.intReady then .next (finishPark tid s) else .next s
  | .idle | .name _ => if t.intReady then .next (finishPark tid s) else .next s
  | _ => .next s

/-- A timeout has passed (R100). -/
def timedOut (s : State) (timeout start : W) : Bool :=
  decide (timeout ≠ allOnes) && decide (timeout.toNat ≤ s.since start.toNat)

/-- PARK_TIMEOUT (R100, R320). -/
def execParkTimeout (tid : Nat) (s : State) : Out :=
  if (s.th tid).st ≠ .parked ∨ s.frozen tid = true then .next s else
  match (s.th tid).why with
  | .watch _ _ tmo start _ _ => if timedOut s tmo start then .next (finishPark tid s) else .next s
  | .barrier _ _ tmo start _ _ => if timedOut s tmo start then .next (finishPark tid s) else .next s
  | _ => .next s

end Sys2Proof.Machine
end

