-- ==== Sys2Proof/Machine/Directory.lean ====
section
/-! DEFINITION. The name directory and its instructions, opcodes 0xC0 to 0xC5 (spec 13_tables R250 to R260). -/
namespace Sys2Proof.Machine

/-! ### The directory's tables -/

/-- A valid name (R253). -/
def nameOk (bs : List Byte) : Bool :=
  decide (bs.headD 0 ≠ 0) && (bs.dropWhile fun b => decide (b ≠ 0)).all fun b => decide (b = 0)

/-- The object a name is bound to. -/
def State.bound (s : State) (name : List Byte) : Option NameEnt := s.tab.names.find? fun e => decide (e.name = name)

/-- The bound object that an owner may open (R257). -/
def openable (s : State) (name : List Byte) (owner : Nat) : Option Nat :=
  match s.bound name with
  | some e => if e.owner = owner then some e.obj else none
  | none => none

/-- The lowest free handle-table index of a context (R252). -/
def freeHandle (s : State) (ctxid : Nat) : Option Nat :=
  let used := (s.tab.handles.filter fun e => decide (e.1 / 4096 = ctxid)).map fun e => (e.1 % 4096, ())
  let i := lowestGap 0 used
  if i < 4096 then some i else none

/-- Put an object record. -/
def putObj (s : State) (k : Nat) (o : Obj) : State := { s with tab := { s.tab with objs := Tab.put s.tab.objs k o } }

/-- Reclaim an object that is neither bound nor open: its slot takes the record, DONE last (R255). -/
def reclaim (s : State) (k : Nat) : State :=
  match Tab.look s.tab.objs k with
  | none => s
  | some o =>
    if o.bound || decide (o.opens ≠ 0) then s else
    let s1 := { s with tab := { s.tab with objs := Tab.del s.tab.objs k } }
    if o.reclaim = 0 then s1 else
    let who : Who := ⟨0, o.ctxid, o.owner, o.prv, none⟩
    let tail := toBytes 8 o.desc.base.toNat ++ toBytes 8 o.desc.extent ++ toBytes 8 s.gtsc
    match translates s1 who .write o.reclaim.toNat 32 with
    | .error (kd, va) => s1.recHard srcDir cPAGE 0 0 (pageValue kd .write va)
    | .ok (s2, pas) =>
      writeRuns (writeRuns s2 none (pas.drop 8) tail) none (pas.take 8) (toBytes 8 (2 ^ 63 + o.desc.gen))

/-- Update an object and reclaim it when that is due. -/
def onObj (s : State) (k : Nat) (f : Obj → Obj) : State :=
  match Tab.look s.tab.objs k with
  | some o => reclaim (putObj s k (f o)) k
  | none => s

/-- The 64 bytes of a handle-table entry in the table at HTAB, where the context has a descriptor (R250, R252). -/
def writeHandle (s : State) (ctxid idx : Nat) (d : Desc) (v : Bool) : State :=
  match Tab.look s.mem.ctx ctxid with
  | some c => homeWrite s none (c.htab + 64 * idx) (d.toBytes64 v)
  | none => s

/-- The 64 bytes of an entry that is not open, as they stand in the table: those it had, with V clear, once a close has been there (R258, R260). -/
def closedHandle (s : State) (ctxid idx : Nat) : List Byte :=
  match Tab.look s.mem.ctx ctxid with
  | some c => s.mem.rds (c.htab + 64 * idx) 64
  | none => List.replicate 64 0

/-- Open an object for a context (R257): the handle index, or none when the table is full. -/
def openObj (s : State) (ctxid obj : Nat) (wr : Bool) : Option (State × Nat) :=
  match freeHandle s ctxid, Tab.look s.tab.objs obj with
  | some i, some o =>
    let s1 := { s with tab := { s.tab with handles := Tab.put s.tab.handles (ctxid * 4096 + i) ⟨{ o.desc with wr := wr }, obj⟩ } }
    some (putObj (writeHandle s1 ctxid i { o.desc with wr := wr } true) obj { o with opens := o.opens + 1 }, i)
  | _, _ => none

/-- Close a handle-table entry (R258). -/
def closeHandle (s : State) (ctxid idx : Nat) : State :=
  match s.handle ctxid idx with
  | none => s
  | some h =>
    let s1 := { s with tab := { s.tab with handles := Tab.del s.tab.handles (ctxid * 4096 + idx % 4096) } }
    onObj (writeHandle s1 ctxid (idx % 4096) h.desc false) h.obj fun o => { o with opens := o.opens - 1 }

/-- The teardown of a context closes every open entry as DCLOSE does (R252); what brings it is log 42. -/
def closeCtx (s : State) (ctxid : Nat) : State :=
  (s.tab.handles.filter fun e => decide (e.1 / 4096 = ctxid)).foldl (fun s e => closeHandle s ctxid (e.1 % 4096)) s

/-! ### Descriptors (R251) -/

/-- The greatest and the least index of a descriptor. -/
def indexMax (d : Desc) : Int :=
  ((d.dims.zip d.strides).foldl (fun a (e : Nat × Int) => if 0 < e.2 then a + ((e.1 : Int) - 1) * e.2 else a) 0)
def indexMin (d : Desc) : Int :=
  ((d.dims.zip d.strides).foldl (fun a (e : Nat × Int) => if e.2 < 0 then a + ((e.1 : Int) - 1) * e.2 else a) 0)

/-- What DBIND asks of a descriptor, on its bytes and its resolved form (R250, R251). -/
def descOk (bs : List Byte) (d : Desc) : Bool :=
  let sc := leAt bs 48 8
  decide (leAt bs 13 1 % 128 = 0) && decide (d.gen = 0) && decide (leAt bs 15 1 < 8) && decide (1 ≤ d.extent) &&
  canonical d.base.toNat && decide (d.base.toNat % 64 = 0) && !fmtReserved d.fmt &&
  decide (1 ≤ d.rank) && decide (d.rank ≤ 4) && d.dims.all (fun n => decide (n ≠ 0)) &&
  (d.dim.drop d.rank).all (fun n => decide (n = 0)) && (d.stride.drop d.rank).all (fun n => decide (n = 0)) &&
  decide (0 ≤ indexMin d) &&
  decide ((unitOf d.fmt (indexMax d).toNat).1 + unitBytes d.fmt ≤ d.extent) &&
  (!isBlock d.fmt || (decide (d.dims.getLastD 0 % 32 = 0) && decide (d.strides.getLastD 0 = 1))) &&
  decide (d.pattern ≤ 4) && decide (d.rcap ≤ 64) && decide (d.sparse < 4096) &&
  (if bit sc 63 then decide (bits sc 62 51 = 0) else decide (sc < 255))

/-! ### Acting on a message -/

/-- A DCLOSE or a DDESC as the directory acts on it: with its h register as every earlier DOPEN of the thread has left it (R72, R74). DEDUCED
(log 28): R72 lets a read of a register that awaits its DOPEN give either value. -/
def Msg.hNow (m : Msg) (s : State) : Msg :=
  let t := s.th m.tid
  if m.tid ≠ hostTid ∧ t.born ≤ m.no then { m with hv := bit (t.rh m.hreg).toNat 15, hidx := (t.rh m.hreg).toNat % 4096 } else m

/-- A value that a failing read of the directory reports (R256). -/
def dirReadErr : ReadErr → Nat × W
  | .page k va => (cPAGE, pageValue k .read va)
  | .poison va => (cPOISON, w64 (va % 2 ^ 51))
  | .write k va => (cPAGE, pageValue k .write va)

/-- A command completes: an acquire is over, C falls. -/
def doneAcq (m : Msg) (s : State) : State :=
  retire m.tid (s.onTh m.tid fun t => { t with pend := t.pend.map fun e => if e.no = m.no ∧ e.kind = .acqCmd then { e with done := true } else e })
def dirDone (m : Msg) (s : State) : State := retireC m (doneAcq m s)

/-- The h register of a DOPEN is written (R74); a thread parked at that DOPEN.wait moves past it. -/
def setHandle (m : Msg) (v : Bool) (idx : Nat) (s : State) : State :=
  s.onTh m.tid fun t =>
    if t.born ≤ m.no then
      let t1 := { t.wh m.hreg v idx with hpend := t.hpend.erase m.hreg }
      if t1.why = .name m.no then { t1 with st := .runnable, why := .none, pc := t1.pc + 8 } else t1
    else t

/-- A51: the low 51 bits of A, as the directory's traps report them. -/
def a51 (m : Msg) : Nat := m.a.toNat % 2 ^ 51

/-- A DOPEN that fails: B is written with V = 0 (R257). The INDEX beside it is 0: DESIGN CHOICE (log 76). -/
def failOpen (m : Msg) (code : Nat) (v : W) (s : State) : State := dueTrap m code v (dirDone m (setHandle m false 0 s))

/-- A DOPEN completes on an object, or fails for want of an index (R257). -/
def finishOpen (m : Msg) (obj : Nat) (s : State) : State :=
  match openObj s m.ctxid obj (decide (m.cls = 1)) with
  | some (s1, i) => dirDone m (setHandle m true i s1)
  | none => failOpen m cNOTBOUND (w64 (a51 m + 2 ^ 63)) s

/-- An open waits for its name. -/
def addWait (w : WaitOpen) (s : State) : State := { s with tab := { s.tab with waits := s.tab.waits ++ [w] } }

/-- DOPEN's turn (R257). -/
def dirOpen (m : Msg) (s : State) : State :=
  match readVa s m.who m.a.toNat 32 with
  | .error e => failOpen m (dirReadErr e).1 (dirReadErr e).2 s
  | .ok (s1, name) =>
    match openable s1 name m.owner with
    | some obj => finishOpen m obj s1
    | none =>
      if m.fn = 0 then failOpen m cNOTBOUND (w64 (a51 m)) s1
      else if m.b = 0 then failOpen m cTIMEOUT (w64 (a51 m)) s1
      else
        addWait ⟨m, name, m.b, w64 s1.gtsc⟩ s1

/-- DCLOSE's turn (R258): it clears V and leaves the INDEX that stands in the register (R74). -/
def dirClose (m : Msg) (s : State) : State :=
  if m.hv then
    dirDone m (closeHandle (onSender m (fun t => t.wh m.hreg false ((t.rh m.hreg).toNat % 4096)) s) m.ctxid m.hidx)
  else dirDone m s

/-- Remove a name (R258). -/
def unbindName (s : State) (e : NameEnt) : State :=
  onObj { s with tab := { s.tab with names := s.tab.names.filter fun n => decide (n.name ≠ e.name) } } e.obj
    fun o => { o with bound := false }

/-- DUNBIND's turn (R258). -/
def dirUnbind (m : Msg) (s : State) : State :=
  match readVa s m.who m.a.toNat 32 with
  | .error e => dueTrap m (dirReadErr e).1 (dirReadErr e).2 (dirDone m s)
  | .ok (s1, name) =>
    match s1.bound name with
    | some e => if e.owner = m.owner then dirDone m (unbindName s1 e) else dueTrap m cNOTBOUND (w64 (a51 m)) (dirDone m s1)
    | none => dueTrap m cNOTBOUND (w64 (a51 m)) (dirDone m s1)

/-- A record of a bind set as the directory reads it: name, descriptor bytes and VA when it binds, reclaim slot. -/
structure BindRec where
  name : List Byte
  desc : Option (List Byte × Nat)
  slot : W
  deriving DecidableEq, Repr

/-- Read the name and descriptor of one record. -/
def readRec (who : Who) (e : Nat × Nat × Nat) (s : State) : Except ReadErr (State × BindRec) :=
  match readVa s who e.1 32 with
  | .error x => .error x
  | .ok (s1, name) =>
    if e.2.1 = 0 then .ok (s1, ⟨name, none, w64 e.2.2⟩) else
    match readVa s1 who e.2.1 64 with
    | .error x => .error x
    | .ok (s2, d) => .ok (s2, ⟨name, some (d, e.2.1), w64 e.2.2⟩)

/-- Read every record of a set. -/
def readRecs (who : Who) : List (Nat × Nat × Nat) → State → Except ReadErr (State × List BindRec)
  | [], s => .ok (s, [])
  | e :: es, s =>
    match readRec who e s with
    | .error x => .error x
    | .ok (s1, r) =>
      match readRecs who es s1 with
      | .error x => .error x
      | .ok (s2, rs) => .ok (s2, r :: rs)

/-- Why a record of a set is refused (R259); `before` are the records ahead of it. DESIGN CHOICE (log 91): of several reasons the first in the
order 2, 5, 4, 6, 1, 3 is reported, and a name entry that an unbind record of the same set frees is not free for reason 3. -/
def recFails (s : State) (owner : Nat) (before : List BindRec) (r : BindRec) : Option Nat :=
  if !nameOk r.name then some 2
  else if before.any (fun b => decide (b.name = r.name)) then some 5
  else if (match s.bound r.name with | some e => decide (e.owner ≠ owner) | none => false) then some 4
  else match r.desc with
    | none => if (s.bound r.name).isNone then some 6 else none
    | some (bs, va) =>
      if !descOk bs (Desc.ofBytes64 bs va) then some 1
      else if (s.bound r.name).isNone ∧
          1048576 ≤ s.tab.names.length + (before.filter fun b => b.desc.isSome && (s.bound b.name).isNone).length then some 3
      else none

/-- The first failing record of a set. -/
def setFails (s : State) (owner : Nat) (before : List BindRec) : List BindRec → Option (Nat × Nat)
  | [] => none
  | r :: rs =>
    match recFails s owner before r with
    | some reason => some (reason, before.length)
    | none => setFails s owner (before ++ [r]) rs

/-- Bind or unbind one record of a set that passed (R254, R259). -/
def bindOne (m : Msg) (gen : Nat) (s : State) (r : BindRec) : State :=
  let s1 := match s.bound r.name with
    | some e => unbindName s e
    | none => s
  match r.desc with
  | none => s1
  | some (bs, va) =>
    let o : Obj := ⟨{ Desc.ofBytes64 bs va with gen := gen, wr := false }, m.owner, m.ctxid, m.prv, 0, true, r.slot⟩
    let k := s1.tab.nextObj
    { s1 with tab := { s1.tab with objs := Tab.put s1.tab.objs k o, nextObj := k + 1, names := s1.tab.names ++ [⟨r.name, m.owner, k⟩] } }

/-- Opens that wait on a name of the set complete, in the order in which they parked (R254). -/
def wakeOpens (names : List (List Byte)) (s : State) : State :=
  s.tab.waits.foldl (fun s w =>
    if w.name ∈ names then
      match openable s w.name w.msg.owner with
      | some obj =>
        finishOpen w.msg obj { s with tab := { s.tab with waits := s.tab.waits.filter fun x => decide (x.msg ≠ w.msg) } }
      | none => s
    else s) s

/-- A bind set acts (R254, R259). -/
def bindSet (m : Msg) (es : List (Nat × Nat × Nat)) (s : State) : State :=
  match readRecs m.who es s with
  | .error e => dueTrap m (dirReadErr e).1 (dirReadErr e).2 (dirDone m s)
  | .ok (s1, rs) =>
    match setFails s1 m.owner [] rs with
    | some (reason, i) => dueTrap m cBINDFAIL (w64 (i * 256 + reason)) (dirDone m s1)
    | none =>
      let s2 := rs.foldl (bindOne m s1.tab.gen) s1
      let s3 := { s2 with tab := { s2.tab with gen := (s1.tab.gen + 1) % 2 ^ 32 } }
      dirDone m (wakeOpens (rs.map BindRec.name) s3)

/-- The records of a bind list (R256). -/
def listRecs (bs : List Byte) (n : Nat) : List (Nat × Nat × Nat) :=
  (upto 0 n).map fun i => (leAt bs (32 * i) 8, leAt bs (32 * i + 8) 8, leAt bs (32 * i + 16) 8)

/-- DBIND's turn. -/
def dirBind (m : Msg) (s : State) : State :=
  if m.cls = 0 then bindSet m [(m.a.toNat, m.b.toNat, 0)] s else
  match readVa s m.who m.a.toNat (32 * (m.imm % 16 + 1)) with
  | .error e => dueTrap m (dirReadErr e).1 (dirReadErr e).2 (dirDone m s)
  | .ok (s1, bs) => bindSet m (listRecs bs (m.imm % 16 + 1)) s1

/-- DSTAT's turn (R260). -/
def dirStat (m : Msg) (s : State) : State :=
  match readVa s m.who m.a.toNat 32 with
  | .error e => dueTrap m (dirReadErr e).1 (dirReadErr e).2 (dirDone m s)
  | .ok (s1, name) =>
    let v := match (openable s1 name m.owner).bind fun k => Tab.look s1.tab.objs k with
      | some o => w64 (2 ^ 63 + min o.opens (2 ^ 30 - 1) * 2 ^ 32 + o.desc.gen)
      | none => 0
    dirDone m (setResult m v s1)

/-- DDESC's turn (R260): the entry that an h register with V = 1 names, open or closed since. -/
def dirDesc (m : Msg) (s : State) : State :=
  let bs := if !m.hv then List.replicate 64 0 else match s.handle m.ctxid m.hidx with
    | some h => h.desc.toBytes64 true
    | none => closedHandle s m.ctxid m.hidx
  match writeVa s m.who none m.a.toNat bs with
  | .ok s1 => dirDone m s1
  | .error (k, va) => dueTrap m cPAGE (pageValue k .write va) (dirDone m s)

/-- A message's turn at the directory (R253). -/
def dirTurn (m : Msg) (s : State) : State :=
  match m.op with
  | 0xc0 => dirOpen m s
  | 0xc1 => dirClose (m.hNow s) s
  | 0xc2 => dirBind m s
  | 0xc3 => dirUnbind m s
  | 0xc4 => dirStat m s
  | _ => dirDesc (m.hNow s) s

/-! ### Instructions (R256 to R260) -/

/-- Send a directory command; one that acquires holds later accesses until it completes. -/
def sendDir (m : Msg) (s : State) : State :=
  sendCmd srcDir m (if m.acq then pushPend { Pend.mk0 .acqCmd 0 0 0 0 [] with acq := true } s else s)

/-- The common part: irrevocability, the checks, room in C. -/
def dirIssue (checks : List (Acc × Nat × Nat × Nat)) (m : Msg) (s : State) : Except Stop State := do
  needIrrev s
  needAll checks s
  needRoom 2 s
  .ok (sendDir m s)

/-- DOPEN (R257). -/
def execDopen (x : TX) (s : State) : Out :=
  issueJump x.pg [x.a] [] (fun s => do
    let m := (msgOf 0xc0 x s).withH x s
    let s1 ← dirIssue [(.read, m.a.toNat, 32, 8)] m s
    .ok (s1.onMe fun t => { t with hpend := t.hpend ++ [m.hreg] })) s

/-- The thread of a DOPEN.wait that has been sent parks at its word. -/
def parkOpen (no : Nat) (pc : W) (t : Thread) : Thread := { t with pc := pc, st := .parked, why := .name no }

/-- DOPEN.wait (R257): the thread parks at the word until the open completes. -/
def execDopenWait (x : TX) (s : State) : Out :=
  issueJump x.pg [x.a, x.a + 1] [] (fun s => do
    let m := { (msgOf 0xc0 x s).withH x s with b := s.me.rg (x.a.toNat + 1) }
    needIrrev s
    needAll [(.read, m.a.toNat, 32, 8)] s
    needRoom 2 s
    let s1 := (sendDir m s).onMe fun t => { t with hpend := t.hpend ++ [m.hreg] }
    .ok (if inboxRoom s srcDir then s1.onMe (parkOpen m.no s.me.pc) else s1)) s

/-- DCLOSE (R258). -/
def execDclose (x : TX) (s : State) : Out :=
  issueJump x.pg [x.b] [] (fun s => dirIssue [] ((msgOf 0xc1 x s).withH x s) s) s

/-- DBIND (R259). -/
def execDbind (x : TX) (s : State) : Out :=
  issueJump x.pg [x.a, x.b] [] (fun s =>
    let m := msgOf 0xc2 x s
    dirIssue [(.read, m.a.toNat, 32, 8), (.read, m.b.toNat, 64, 8)] m s) s

/-- What a bind list's records name is checked at issue (R256). -/
def listChecks (es : List (Nat × Nat × Nat)) : List (Acc × Nat × Nat × Nat) :=
  es.flatMap fun e =>
    [(.read, e.1, 32, 8)] ++ (if e.2.1 = 0 then [] else [(.read, e.2.1, 64, 8)]) ++ if e.2.2 = 0 then [] else [(.write, e.2.2, 32, 8)]

/-- DBIND.set (R254, R259): the thread reads the list behind its own earlier stores to it (R190), for the checks alone. -/
def execDbindSet (x : TX) (s : State) : Out :=
  issueJump x.pg [x.a] [] (fun s => do
    let m := msgOf 0xc2 x s
    let n := m.imm % 16 + 1
    needIrrev s
    needAll [(.read, m.a.toNat, 32 * n, 8)] s
    let (s1, xs) ← xlatesX .read m.a.toNat (32 * n) s
    let pas := xs.map Xl.pa
    if !cmdSettled s.me pas then .error (.stall (.fence true true)) else
    dirIssue (listChecks (listRecs (pas.map (s1.refresh pas).mem.rd) n)) m s) s

/-- DUNBIND (R258). -/
def execDunbind (x : TX) (s : State) : Out :=
  issueJump x.pg [x.a] [] (fun s =>
    let m := msgOf 0xc3 x s
    dirIssue [(.read, m.a.toNat, 32, 8)] m s) s

/-- DSTAT (R260): gB takes the result when the command completes. -/
def execDstat (x : TX) (s : State) : Out :=
  issueJump x.pg [x.a] [x.b] (fun s =>
    let m := msgOf 0xc4 x s
    dirIssue [(.read, m.a.toNat, 32, 8)] m s) s

/-- DDESC (R260). -/
def execDdesc (x : TX) (s : State) : Out :=
  issueJump x.pg [x.a, x.b] [] (fun s =>
    let m := (msgOf 0xc5 x s).withH x s
    dirIssue [(.write, m.a.toNat, 64, 64)] m s) s

/-- DOPEN_TIMEOUT (R257): the first open of a thread whose time has passed times out. -/
def execDopenTimeout (tid : Nat) (s : State) : Out :=
  match s.tab.waits.find? fun w => decide (w.msg.tid = tid) && timedOut s w.timeout w.start with
  | none => .next s
  | some w =>
    .next (failOpen w.msg cTIMEOUT (w64 (a51 w.msg))
      { s with tab := { s.tab with waits := s.tab.waits.filter fun x => decide (x.msg ≠ w.msg) } })

end Sys2Proof.Machine
end

