-- ==== Sys2Proof/Machine/Fire.lean ====
section
/-! DEFINITION. How a node fires: its fields, the space at its targets, what a firing sends and clears, records of elements, the end
of an invocation (spec 02_machine R31 to R44, 04_registers R80, 12_nodes R219 to R222, 14_rules R278). -/
namespace Sys2Proof.Machine

/-! ### Elements (R33, R325) -/

/-- The source number of an element. DESIGN CHOICE (log 91): a weir, which R33's table does not number, has that of the router of its core. -/
def Place.src (p : Place) : Nat :=
  let die := p.core / 384
  0x8000 + die * 4096 +
    match p.elem with
    | 6 => 0xc00 + p.slot
    | 8 => 0xc80 + p.slot / 16
    | 7 => p.core % 384 * 8 + 5
    | c => p.core % 384 * 8 + c

/-- LOC of an element, KIND 1. -/
def Place.loc (p : Place) : Nat :=
  let die := p.core / 384 * 2 ^ 28
  let xy := p.core % 384 / 24 * 2 ^ 24 + p.core % 24 * 2 ^ 16
  die + (if p.elem = 6 ∨ p.elem = 8 then 0 else xy) + p.elem * 256 + p.slot

/-- The router of a region's origin core: it speaks for the region (R318). -/
def Region.router (r : Region) : Place := ⟨coreNo r.die r.y0 r.x0, 5, 0, 0, 0⟩

/-- A record of an element to the launching thread of an invocation (R326). -/
def recElem (s : State) (i : Inv) (p : Place) (code : Nat) (v : W) : State := s.recThread i.tid p.src code 1 p.loc v

/-- A record of an element to the hard core of its die (R326). -/
def recElemHard (s : State) (p : Place) (code : Nat) (v : W) : State := s.recHard p.src code 1 p.loc v

/-! ### The end of an invocation (R31, R222, R278) -/

/-- End the q bindings that name an invocation. -/
def endBindings (s : State) (iid : Nat) : State :=
  { s with threads := s.threads.map fun e => (e.1, { e.2 with q := e.2.q.filter fun b => decide (b.2.iid ≠ iid) }) }

/-- A network ends: its entries become FREE, its firings are withdrawn, deltas held for it are discarded, its scorer handles close
(R278). -/
def endNet (s : State) (iid : Nat) (i : Inv) : State :=
  match s.net iid with
  | none => s
  | some n =>
    let es := (s.fab.basin.filter fun e => decide (e.2.net = iid)).map Prod.fst
    let s1 := es.foldl removeEntry s
    let s2 := { s1 with
      tasks := s1.tasks.map fun t => { t with deltas := t.deltas.filter fun d => decide (d.net ≠ iid) },
      fab := { s1.fab with nets := Tab.del s1.fab.nets iid } }
    n.scorers.foldl (fun s e => closeHandle s i.ctxid e.2.handle) s2

/-- An entry of the cache as its region of device memory holds it: a 64-byte header and 8 bytes for each node (R262). The spec gives the
entries no places in the region (log 10). -/
def Placed.bytes (p : Placed) : List Byte :=
  p.image ++ toBytes 1 p.w ++ toBytes 1 p.h ++ toBytes 2 p.recs.length ++ toBytes 4 p.users ++ toBytes 8 p.last ++ List.replicate 32 0 ++
  p.recs.flatMap fun r => toBytes 8 r.toNat

/-- Bytes from one entry to the next in the cache's region (log 10): a header and 16,384 node records. -/
def placedStep : Nat := 64 + 8 * 16384

/-- The cache takes new entries, and its region of device memory those that differ, once it is reserved (R262). -/
def State.putPlaced (s : State) (ps : List Placed) : State :=
  let s1 := { s with fab := { s.fab with placed := ps } }
  match s.fab.cacheAt with
  | none => s1
  | some b => (upto 0 ps.length).foldl (fun s1 k =>
      if ps[k]? = s.fab.placed[k]? then s1 else match ps[k]? with
        | some p => homeWrite s1 none (b + k * placedStep) p.bytes
        | none => s1) s1

/-- A running invocation that used a placement-cache entry uses it no more (R69, R262). -/
def unplace (s : State) (i : Inv) : State :=
  if i.cached then s.putPlaced (s.fab.placed.map fun p => if p.image = i.image then { p with users := p.users - 1 } else p) else s

/-- A command of a command queue is over: what it waited for has happened (R348). -/
def finishHost (id : Nat) (w : W) (s : State) : State :=
  { s with out := { s.out with cmds := s.out.cmds.map fun c => if c.id = id then { c with finished := true, result := w } else c } }

/-- A graph command writes its result word and retires (R236, R237); one of a command queue keeps it for its completion (R349). -/
def graphReply (m : Msg) (status iid : Nat) (s : State) : State :=
  let w := w64 (status * 2 ^ 56 + if status = 0 then iid else 0)
  if m.tid = hostTid then finishHost m.no w s else retireC m (setResult m w s)

/-- Write into the save area of a command; what cannot be written is left. -/
def saveWrite (m : Msg) (off : Nat) (bs : List Byte) (s : State) : State :=
  match writeVa s m.who none (m.a.toNat + off) bs with
  | .ok s1 => s1
  | .error _ => s

/-- A command in progress on an invocation that ends: a save is abandoned, its KIND is 0 and it reports OK (R333); any other
command finds no live invocation. -/
def endCmds (i : Inv) (iid : Nat) (s : State) : State :=
  match i.cmd with
  | none => s
  | some m =>
    if m.op = 0xc9 ∨ m.op = 0xca then graphReply m 0 iid (if m.fn = 1 then s else saveWrite m 0 [0] s) else graphReply m 6 0 s

/-- An invocation ends: frames, tags, bindings, node state go; its region is free. -/
def endInv (s : State) (iid : Nat) : State :=
  match s.inv iid with
  | none => s
  | some i =>
    let s1 := endCmds i iid (unplace (endBindings (endNet s iid i) iid) i)
    { s1 with fab := { s1.fab with
      invs := Tab.del s1.fab.invs iid,
      reqs := s1.fab.reqs.filter fun r => decide (r.msg.isSome ∨ r.iid ≠ iid) } }

/-- A fault in its region ends an invocation (R31): its record goes to the launching thread. -/
def failInv (s : State) (iid : Nat) (p : Place) (code : Nat) (v : W) : State :=
  match s.inv iid with
  | none => s
  | some i => endInv (recElem s i p code v) iid

/-- A node whose records go to the hard core of its die: of an AG cell, a weir, or a memory node of an M-cell (R326). -/
def Node.toHard (nd : Node) : Bool := decide (nd.op ∈ [0x8a, 0x8b, 0x8c, 0x8d, 0x97, 0x9b])

/-- A fault of a node ends its invocation: its record goes where R326 sends it. -/
def failNode (s : State) (iid : Nat) (nd : Node) (code : Nat) (v : W) : State :=
  if nd.toHard then endInv (recElemHard s nd.place code v) iid else failInv s iid nd.place code v

/-! ### Targets and space (R37, R208, R212) -/

/-- The channel node that a target names. -/
def Inv.chanAt (i : Inv) (dst : Nat) : Option Node :=
  match Tab.look i.nodes dst with
  | some n => if n.op = 0x96 then some n else none
  | none => none

/-- The key of the free-slot count that a token takes on its way to a target. -/
def sendKey (i : Inv) (p which dst tag : Nat) : Nat :=
  match i.chanAt dst with
  | some c => usedKey p which (if aaDests c = 0 then 0 else tag)
  | none => usedKey p which 0

/-- Does a token's tag name a destination of an all-to-all channel, by its place in the tag block (R38, R212)? -/
def aaReserved (i : Inv) (c : Node) (tag : Nat) : Bool := decide (tag % 2 ^ i.k < aaDests c)

/-- Slots that an all-to-all channel's tokens hold beyond the one that each destination reserves (R212); a tag that names none has none
(DESIGN CHOICE, log 91). -/
def sharedUsed (i : Inv) (c : Node) (p which : Nat) : Nat :=
  i.used.foldl (fun n e => if e.1 / 65536 = p * 2 + which then n + (e.2 - b2n (aaReserved i c (e.1 % 65536))) else n) 0

/-- Has a target space for a token of a tag (R39)? -/
def hasSpace (i : Inv) (p which dst tag : Nat) : Bool :=
  let key := sendKey i p which dst tag
  match i.chanAt dst with
  | some c =>
    if aaDests c = 0 then decide (0 < freeSlots i key (chanCap c))
    else (aaReserved i c tag && decide (Tab.getD i.used key 0 = 0)) || decide (sharedUsed i c p which + aaDests c < chanCap c)
  | none => decide (Tab.getD i.used key 0 = 0)

/-- A token that a firing sends: to both targets, or to one of them. -/
structure Emit where
  which : Option Nat
  tok : Tok
  deriving DecidableEq, Repr

/-- The targets that a token goes to. -/
def Emit.targets (e : Emit) (nd : Node) : List (Nat × Nat × Nat) :=
  match e.which with
  | none => nd.targets
  | some w => nd.targets.filter fun t => decide (t.1 = w)

/-- Entries in use in the token buffer of a C-cell; one whose last target has accepted frees in the next cycle (R39, R80). -/
def bufUsed (s : State) (i : Inv) (nd : Node) : Nat :=
  (i.tbuf.filter fun b => match Tab.look i.nodes b.node with
    | some m => decide (m.place.core = nd.place.core) && decide (m.place.elem = nd.place.elem)
    | none => false).length +
  (s.shot.filter fun u => decide (u = .freed nd.place.core nd.place.elem)).length

/-- The token buffer has room (R40): a C-cell fires only with an entry free, and takes one for each token. -/
def bufRoom (s : State) (i : Inv) (nd : Node) (outs : List Emit) : Bool :=
  decide (4 ≤ nd.place.elem) || decide (bufUsed s i nd + max 1 (outs.filter fun e => decide (e.targets nd ≠ [])).length ≤ 48)

/-- A node whose firings fill queues of its own, which its targets' space does not hold back: EXPERT and SPILL (R210, R233). -/
def Node.queues (nd : Node) : Bool := decide (nd.op = 0x99) || decide (nd.op = 0x9b)

/-- Every target has space (R39), whatever a firing for a tag sends: for its token, or for one of the firing's tag. -/
def canSend (s : State) (i : Inv) (n : Nat) (nd : Node) (tag : Nat) (outs : List Emit) : Bool :=
  bufRoom s i nd outs && (outs.all fun e => (e.targets nd).all fun t => hasSpace i n t.1 t.2.1 e.tok.tag) &&
  (nd.queues || nd.targets.all fun t => (outs.any fun e => decide (t ∈ e.targets nd)) || hasSpace i n t.1 t.2.1 tag)

/-- Send one token: its slots are taken, it stands in the token buffer (R80). -/
def sendOne (n : Nat) (nd : Node) (i : Inv) (e : Emit) : Inv :=
  let ts := e.targets nd
  if ts = [] then i else
  let i1 := ts.foldl (fun i t => i.take (sendKey i n t.1 t.2.1 e.tok.tag)) i
  { i1 with tbuf := i1.tbuf ++ [⟨e.tok, n, ts.any fun t => decide (t.1 = 0), ts.any fun t => decide (t.1 = 1)⟩] }

/-! ### Fields (R35 to R37) -/

/-- Is a field present, its value, its flags, its insertion sequence: 0 L, 1 R, 2 P. -/
def Slot.has (x : Slot) (f : Nat) : Bool := match f with | 0 => x.hasL | 1 => x.hasR | _ => x.hasP
def Slot.tok (x : Slot) (f tag : Nat) : Tok := match f with
  | 0 => ⟨x.l, tag, x.lf, x.lseq⟩
  | 1 => ⟨x.r, tag, x.rf, x.rseq⟩
  | _ => ⟨x.p, tag, x.pf, 0⟩

/-- Set a field, clear a field. DESIGN CHOICE (log 91): the value and the flags of a field whose presence bit a firing clears read zero
(R36 speaks of the presence bits alone). -/
def Slot.set (x : Slot) (f : Nat) (t : Tok) : Slot := match f with
  | 0 => { x with l := t.v, lf := t.flg, hasL := true, lseq := t.seq }
  | 1 => { x with r := t.v, rf := t.flg, hasR := true, rseq := t.seq }
  | _ => { x with p := t.v, pf := t.flg, hasP := true }
def Slot.clear (x : Slot) (f : Nat) : Slot := match f with
  | 0 => { x with l := 0, lf := .zero, hasL := false, lseq := 0 }
  | 1 => { x with r := 0, rf := .zero, hasR := false, rseq := 0 }
  | _ => { x with p := 0, pf := .zero, hasP := false }

/-- A slot of a field frees: its producer may send again, at once or, at a node that a drain delta lists, when the delta has acted
(R37, R243). -/
def Inv.freeField (i : Inv) (n f : Nat) : Inv :=
  match feeder i.nodes n f with
  | none => i
  | some (p, w) =>
    let key := usedKey p w 0
    if (i.ct n).hold then { i with credits := i.credits ++ [key] } else i.give key

/-- A node with both targets none that consumes EOS has reached end of stream (R222). -/
def Inv.consume (i : Inv) (n : Nat) (f : Flg) : Inv :=
  match Tab.look i.nodes n with
  | some nd => if nd.targets = [] ∧ f.eos = true then i.onCt n fun x => { x with ended := true } else i
  | none => i

/-- Clear some fields of a node for a tag. -/
def Inv.clearFields (i : Inv) (n tag : Nat) (fs : List Nat) : Inv :=
  fs.foldl (fun i f =>
    ((i.consume n ((i.slot n tag).tok f tag).flg).putSlot n tag ((i.slot n tag).clear f)).freeField n f) i

/-! ### One firing -/

/-- What a firing sees: the state, its invocation, its node, the tag. -/
structure Ctx where
  s : State
  iid : Nat
  i : Inv
  n : Nat
  nd : Node
  tag : Nat
  deriving DecidableEq, Repr

def Ctx.w (c : Ctx) : NW := c.nd.w
def Ctx.lit (c : Ctx) : Nat := c.nd.w.lit.toNat
def Ctx.fn (c : Ctx) : Nat := c.nd.w.fn.toNat
def Ctx.st (c : Ctx) : NodeSt := c.i.st c.n
def Ctx.base (c : Ctx) : Nat := baseTag c.iid
def Ctx.slot (c : Ctx) : Slot := c.i.slot c.n c.tag
def Ctx.has (c : Ctx) (f : Nat) : Bool := c.slot.has f
def Ctx.tok (c : Ctx) (f : Nat) : Tok := c.slot.tok f c.tag
def Ctx.val (c : Ctx) (f : Nat) : W := (c.tok f).v
def Ctx.flg (c : Ctx) (f : Nat) : Flg := (c.tok f).flg

/-- Flags of a result (R220): EOS and EOR of any consumed operand, SCL as the node gives it. -/
def resFlg (scl : Bool) (fs : List Flg) : Flg := ⟨scl, fs.any Flg.eos, fs.any Flg.eor, false, false⟩

/-- A flagged token whose end must not be lost, and its end token (R221). DESIGN CHOICE (log 91): it has the tag of the token that it stands
for, under TAGM 0b11 too. -/
def Flg.ends (f : Flg) : Bool := f.eos || f.eor
def endTok (t : Tok) : Tok := ⟨0, t.tag, ⟨t.flg.scl, t.flg.eos, t.flg.eor, false, false⟩, 0⟩

/-- A lane's tag (R219): base plus an index modulo 2^k. -/
def laneTag (base k x : Nat) : Nat := (base + x % 2 ^ k) % 65536

/-- The tag of a result (R219). -/
def Ctx.outTag (c : Ctx) (t : Nat) (v : W) : Nat :=
  match c.w.tagm.toNat with
  | 0 => t
  | 1 => laneTag c.base c.i.k ((t + 65536 - c.base) % 65536 + 1)
  | 2 => c.base
  | _ => laneTag c.base c.i.k v.toNat

/-- A result token: a value and flags with the tag that TAGM gives a firing tag. -/
def Ctx.res (c : Ctx) (t : Nat) (v : W) (f : Flg) : Tok := ⟨v, c.outTag t v, f, 0⟩

/-- Count an event of a core in a performance counter (R323). -/
def bump (s : State) (core c n : Nat) : State :=
  { s with fab := { s.fab with perf := Tab.set s.fab.perf 0 (core * 8 + c) ((Tab.getD s.fab.perf (core * 8 + c) 0 + n) % 2 ^ 48) } }

/-- A firing completes: `i` is the invocation with its effect, `outs` what it sends; with no space nothing happens. -/
def Ctx.done (c : Ctx) (s : State) (i : Inv) (outs : List Emit) : Option State :=
  if canSend s i c.n c.nd c.tag outs then
    let i1 := outs.foldl (sendOne c.n c.nd) i
    let i2 := { i1 with active := s.cycle, raised := false, fired := s.gtsc }
    let s1 := s.putInv c.iid i2
    some (if c.nd.place.elem < 4 then bump s1 c.nd.place.core 0 1 else if c.nd.place.elem = 4 then bump s1 c.nd.place.core 1 1 else s1)
  else none

/-- Clear fields and send: the shape of most nodes. -/
def Ctx.pass (c : Ctx) (fs : List Nat) (outs : List Emit) : Option State := c.done c.s (c.i.clearFields c.n c.tag fs) outs

/-- The same with a change of node state. -/
def Ctx.passSt (c : Ctx) (fs : List Nat) (f : NodeSt → NodeSt) (outs : List Emit) : Option State :=
  c.done c.s ((c.i.clearFields c.n c.tag fs).onSt c.n f) outs

/-- To both targets, to one. -/
def both (t : Tok) : List Emit := [⟨none, t⟩]
def only (w : Nat) (t : Tok) : Emit := ⟨some w, t⟩

/-- Does the node of a turn take part in firing: its invocation is in the fabric, its element is not blocked, it has not saved. -/
def nodeCtx (s : State) : Option Ctx :=
  let (iid, n, tag) := s.site
  match s.inv iid with
  | none => none
  | some i =>
    match Tab.look i.nodes n with
    | none => none
    | some nd =>
      if i.phase = .out ∨ (i.ct n).blocked ∨ (i.ct n).saved ∨ (i.ct n).stopped then none else some ⟨s, iid, i, n, nd, tag⟩

/-- The sink rule (R222): a node with both targets none that consumes EOS has ended; when every sink has, the invocation ends. -/
def endIfDone (s : State) (iid : Nat) : State :=
  match s.inv iid with
  | some i => if i.finished then endInv s iid else s
  | none => s

/-- A poisoned value that a node consumes ends its invocation (R162); the record's VALUE is not stated (log 2). -/
def poisonEnd (s : State) (c : Ctx) : State :=
  failNode { s with fresh := s.fresh + 1 } c.iid c.nd cPOISON (Config.freeValue s.fresh)

/-- A firing that fails: like any firing it needs a free entry of the token buffer, and space at every target (R39, R40). -/
def Ctx.fails (c : Ctx) (t : State) : Option State := if canSend c.s c.i c.n c.nd c.tag [] then some t else none

/-- Run one firing: not ready, or no space, changes nothing. -/
def fireAny (s : State) (f : Ctx → Option State) : Out :=
  match nodeCtx s with
  | none => .next s
  | some c =>
    match f c with
    | some s1 => .next (endIfDone s1 c.iid)
    | none => .next s

/-- One firing of a node's word: a poisoned token that it takes ends the invocation (R162). -/
def fire (s : State) (f : Ctx → Option State) : Out :=
  fireAny s fun c => (f c).map fun s1 => if tokPoisoned c.s c.iid c.i c.n c.tag c.nd then poisonEnd c.s c else s1

end Sys2Proof.Machine
end

