-- ==== Sys2Proof/Machine/Register.lean ====
section
/-! DEFINITION. Register instructions, opcodes 0x20 to 0x29 (spec 04_registers R75 to R84). -/
namespace Sys2Proof.Machine

/-- A MOV source: g, q, or the INDEX of an h register whatever its V holds (R57, R74). -/
def srcMov (s : State) (sp : Spec) : Except Stop W :=
  if isH sp then .ok (w64 ((s.me.rh (sp.toNat - 88)).toNat % 4096)) else srcV s sp

/-- The system value that a specifier names (R75). -/
def sysRead (s : State) (tid sp : Nat) : W :=
  let y := (s.th tid).sys
  match sp with
  | 104 => w64 tid
  | 105 => w64 s.cid
  | 106 => y.ts
  | 107 => s.gvt
  | 108 => w64 s.gtsc
  | 109 => y.fflags
  | 110 => y.xpc
  | 111 => y.xcause
  | 112 => y.xval
  | 113 => y.pw
  | 114 => y.ctx
  | 115 => y.owner
  | 116 => y.prio
  | 117 => y.quant
  | 118 => y.intmask
  | _ => y.intpend

/-- A pw value that is accepted: the three parts make 64 granules and every reserved bit is zero (R77). -/
def pwOk (v : W) : Bool :=
  let n := v.toNat
  decide (partRF n + partSP n + partACC n = 64) && decide (bits n 63 23 = 0) && !bit n 15 && !bit n 7

/-- A system value after a CSRW (R75 to R79): reserved bits of fflags are ignored, a bad pw or ctx is dropped, intpend is
cleared where the value holds 1, the narrow registers keep their width. -/
def sysWrite (y : Sys) (sp : Nat) (v : W) : Sys :=
  match sp with
  | 109 => { y with fflags := v &&& 0x3f }
  | 110 => { y with xpc := v }
  | 111 => { y with xcause := v &&& 0xff }
  | 112 => { y with xval := v }
  | 113 => if pwOk v then { y with pw := v } else y
  | 114 => if bits v.toNat 62 16 = 0 then { y with ctx := v } else y
  | 115 => { y with owner := v &&& 0xffff }
  | 116 => { y with prio := v &&& 3 }
  | 117 => { y with quant := v &&& 0xffffffff }
  | 118 => { y with intmask := v }
  | 119 => { y with intpend := y.intpend &&& ~~~v }
  | _ => y

/-- System values as their registers keep them: reserved bits read zero (R75, R76, R78). -/
def Sys.masked (y : Sys) : Sys :=
  { y with
    fflags := y.fflags &&& 0x3f, xcause := y.xcause &&& 0xff, ctx := y.ctx &&& 0x800000000000ffff, owner := y.owner &&& 0xffff,
    prio := y.prio &&& 3, quant := y.quant &&& 0xffffffff }

/-- The system values that only a privileged thread may write (R75): 110 to 117 but pw. -/
def sysPriv (sp : Nat) : Bool := decide (110 ≤ sp) && decide (sp ≤ 117) && decide (sp ≠ 113)

/-- PLOG's operations (R84). -/
def plogOp (fn : Nat) (a b : Bool) : Bool :=
  match fn with
  | 0 => a && b
  | 1 => a || b
  | 2 => a ^^ b
  | 3 => a && !b
  | _ => !a

/-- The status word of a q register (R84). DESIGN CHOICE (log 91): one bound at issue, whose invocation does not exist yet, counts nothing, since its
accesses wait (R238). -/
def qStatus (s : State) (tid : Nat) (q : Nat) : W :=
  match Tab.look (s.th tid).q q with
  | none => 0
  | some b =>
    match s.inv b.iid with
    | none => w64 (2 ^ 63 + b2n b.out * 2 ^ 62 + b.cap * 2 ^ 32)
    | some i =>
      match Tab.look i.nodes b.node with
      | none => 0
      | some n =>
        let line := (i.st b.node).line
        let flg := if b.out then 0 else match line with | t :: _ => t.flg.bits | [] => 0
        let cnt := if b.out then freeSlots i (usedKey (threadProducer b.node) 0 0) (threadCap n) else line.length
        w64 (2 ^ 63 + b2n b.out * 2 ^ 62 + flg * 2 ^ 57 + chanCap n * 2 ^ 32 + cnt)

/-- MOV (R84). -/
def execMov (x : T3) (s : State) : Out :=
  issue x.pg [x.a] [x.d] (fun s => do
    needQ [x.d, x.a] s
    let a ← srcMov s x.a
    putV x.d a (deqAll [x.a] s)) s

/-- MOVI (R84). -/
def execMovi (x : TI) (s : State) : Out :=
  issue x.pg [] [x.d] (fun s => do
    needQ [x.d] s
    putV x.d (wInt (sext x.imm.toNat 32)) s) s

/-- MOVHI (R84): D is read and written. -/
def execMovhi (x : TI) (s : State) : Out :=
  issue x.pg [x.d] [x.d] (fun s =>
    putV x.d (w64 (x.imm.toNat * 2 ^ 32 + (s.me.rg x.d.toNat).toNat % 2 ^ 32)) s) s

/-- LEA, plain (R84): no memory access, no fault. -/
def execLea (x : TM) (s : State) : Out :=
  issue x.pg [x.a] [x.d] (fun s => do
    needQ [x.d] s
    putV x.d (w64 (addrTM x s)) s) s

/-- LEA, indexed (R53, R84). -/
def execLeaIndexed (x : T3) (s : State) : Out :=
  issue x.pg [x.a, x.b] [x.d] (fun s => do
    needQ [x.d] s
    putV x.d (w64 (addrT3 x s)) s) s

/-- PLOG (R84). -/
def execPlog (x : T3) (s : State) : Out :=
  issue x.pg [] [] (fun s =>
    let v := plogOp x.fn.toNat (s.me.rp (x.a.toNat - 64)) (s.me.rp (x.b.toNat - 64))
    .ok (s.onMe fun t => t.wp (x.d.toNat - 64) v)) s

/-- An outstanding access raises flags when it is performed: fadd, a block conversion (R133, R169, R173). -/
def Pend.flagged (e : Pend) : Bool :=
  match e.kind with
  | .atom | .stred => decide (e.fn / 4 = 7)
  | .conv | .convr | .convw => true
  | _ => false

/-- fflags is read and written after the flags of every earlier word (R76). -/
def needFlags (sp : Nat) (s : State) : Except Stop Unit :=
  if sp = 109 ∧ s.me.pend.any Pend.flagged = true then .error (.stall .flags) else .ok ()

/-- The vectors posted to a thread in this cycle, which a CSRW of intpend leaves set: those of MSGI and SIGNAL (R79), and, DESIGN CHOICE (log 91),
those of a fault record and of an NVMe completion too. -/
def postedNow (s : State) (tid : Nat) : W :=
  s.shot.foldl (fun m u => match u with
    | .posted t v => if t = tid then m ||| (1#64 <<< v) else m
    | _ => m) 0

/-- CSRR (R75, R84). -/
def execCsrr (x : T3) (s : State) : Out :=
  issue x.pg [] [x.d] (fun s => do
    needQ [x.d] s
    needFlags x.a.toNat s
    putV x.d (sysRead s s.cur x.a.toNat) s) s

/-- CSRW (R75, R84): PRIV when an unprivileged thread names a privileged value. -/
def execCsrw (x : T3) (s : State) : Out :=
  issue x.pg [x.a] [] (fun s => do
    needQ [x.a] s
    if sysPriv x.d.toNat && !s.me.prv then .error (.trap cPRIV (w64 x.d.toNat)) else
    let a ← srcV s x.a
    needFlags x.d.toNat s
    let a := if x.d.toNat = 119 then a &&& ~~~(postedNow s s.cur) else a
    .ok ((deqAll [x.a] s).onMe fun t => { t with sys := sysWrite t.sys x.d.toNat a })) s

/-- TSC (R84): waits until L and S are zero. -/
def execTsc (x : T3) (s : State) : Out :=
  issue x.pg [] [x.d] (fun s => do
    needQ [x.d] s
    if s.me.l = 0 ∧ s.me.s = 0 then putV x.d (w64 s.gtsc) s else .error (.stall (.limits 0 0 15 15))) s

/-- QPEEK (R84): nothing is dequeued. -/
def execQpeek (x : T3) (s : State) : Out :=
  issue x.pg [] [x.d] (fun s => do
    needQ [x.a] s
    let t ← qHead s x.a
    putV x.d t.v s) s

/-- QSTAT (R84): never stalls, never faults. -/
def execQstat (x : T3) (s : State) : Out :=
  issue x.pg [] [x.d] (fun s => putV x.d (qStatus s s.cur (qNo x.a)) s) s

end Sys2Proof.Machine
end

