-- ==== Sys2Proof/Machine/Nodes.lean ====
section
/-! DEFINITION. Node firings of the C-cell: arithmetic, flow, tags, bits, lanes and experts (spec 12_nodes R218 to R234, 05_integer
R96, 07_float R124, R134). -/
namespace Sys2Proof.Machine

/-! ### Arithmetic, conversion and MOV (R59, R96, R124, R134) -/

/-- The fields that a node of an arithmetic, conversion or MOV opcode uses. -/
def arithFields (op : Nat) : List Nat :=
  if op = 0x1a ∨ op = 0x33 ∨ op = 0x18 ∨ op = 0x16 then [0, 1, 2]
  else if op = 0x08 ∨ op = 0x09 ∨ (0x12 ≤ op ∧ op ≤ 0x14) ∨ op = 0x1b ∨ op = 0x20 ∨ (0x37 ≤ op ∧ op ≤ 0x3d) ∨ op = 0x40 ∨ op = 0x41
    then [0]
  else [0, 1]

/-- A condition as a token value. -/
def ofBool (f : Nat → Nat → Nat → W → W → Bool × Nat) (cond : Nat) : Pure3 := fun fn md a b _ => (w64 (b2n (f fn md cond a b).1), 0)

/-- The operation of an integer or MOV opcode on L, R and P. -/
def arithInt (op cimm : Nat) : Pure3 :=
  match op with
  | 0x00 => intAdd | 0x01 => intSub | 0x02 => intMul | 0x03 => intMulh | 0x04 => intDiv | 0x05 => intRem
  | 0x06 => intMin | 0x07 => intMax | 0x08 => intAbs | 0x09 => intNeg
  | 0x0a => intAnd | 0x0b => intOr | 0x0c => intXor | 0x0d => intAndn
  | 0x0e => intShl | 0x0f => intShr | 0x10 => intSar | 0x11 => intRol
  | 0x12 => intPopc | 0x13 => intClz | 0x14 => intCtz
  | 0x15 => fun fn _ a b _ => intBfx fn (b.toNat % 2 ^ 32) a
  | 0x16 => fun fn _ a b c => intBfi fn (b.toNat % 2 ^ 32) a c
  | 0x17 => ofBool intCmp cimm
  | 0x18 => fun fn md a b c => intSel (bit c.toNat 0) fn md a b c
  | 0x1a => intMadd | 0x1b => intSatn | 0x1c => intHash
  | _ => fun _ _ a _ _ => (a, 0)

/-- The operation of a floating or conversion opcode on L, R and P. -/
def arithFlt (op cimm : Nat) : Pure3 :=
  match op with
  | 0x30 => fltAdd | 0x31 => fltSub | 0x32 => fltMul | 0x33 => fltFma
  | 0x34 => fltMinMax false | 0x35 => fltMinMax true
  | 0x36 => ofBool fltCmp cimm
  | 0x37 => fltUnary rcpOf | 0x38 => fltUnary rsqOf | 0x39 => fltUnary exp2Of | 0x3a => fltUnary log2Of
  | 0x3b => fltUnary tanhOf | 0x3c => fltUnary sigmOf | 0x3d => fltClass | 0x3e => fltScale
  | 0x40 => fltCvt cimm | 0x41 => intCvt cimm
  | 0x42 => bxPackOne cimm | 0x44 => mxPackOne cimm
  | 0x43 => unpackOne cimm | 0x45 => unpackOne cimm
  | 0x46 => fltE8 false | _ => fltE8 true

/-- SCL of an arithmetic result (R135, R220). -/
def arithScl (op : Nat) (l : Flg) : Bool :=
  if op = 0x46 then true else if op = 0x47 ∨ op = 0x17 ∨ op = 0x36 then false else l.scl

/-- One arithmetic firing. -/
def arithF (c : Ctx) : Option State :=
  let op := c.nd.op
  let fs := arithFields op
  if !fs.all c.has then none else
  let cimm := c.lit % 128
  let f := if op < 0x30 then arithInt op cimm else arithFlt op cimm
  let v := (f c.fn (c.lit / 128 * 4096) (c.val 0) (c.val 1) (c.val 2)).1
  c.pass fs (both (c.res c.tag v (resFlg (arithScl op (c.flg 0)) (fs.map c.flg))))

/-- NODE_ARITH_FIRE (R59). -/
def execNodeArithFire (_op : BitVec 8) (_w : NW) (s : State) : Out := fire s arithF

/-! ### Flow, source and tag nodes (R224) -/

/-- A node that passes the token of a field on, with other operands consumed. -/
def passTok (c : Ctx) (f : Nat) (fs : List Nat) : Tok := c.res c.tag (c.val f) (resFlg (c.flg f).scl (fs.map c.flg))

/-- STEER, ROUTE: the token to one target, an end token to the other when it is flagged (R221). -/
def oneWay (c : Ctx) (first : Bool) (fs : List Nat) : List Emit :=
  let t := passTok c 0 fs
  let w := if first then 0 else 1
  only w t :: (if t.flg.ends then [only (1 - w) (endTok t)] else [])

/-- STEER (R224). -/
def execSteer (_w : NW) (s : State) : Out :=
  fire s fun c => if c.has 0 && c.has 2 then c.pass [0, 2] (oneWay c (bit (c.val 2).toNat 0) [0, 2]) else none

/-- MERGE (R224). -/
def execMerge (_w : NW) (s : State) : Out :=
  fire s fun c =>
    let f := if bit (c.val 2).toNat 0 then 0 else 1
    if c.has 2 && c.has f then c.pass [f, 2] (both (passTok c f [f, 2])) else none

/-- GATE (R224): a discarded end is not lost (R221). -/
def execGate (_w : NW) (s : State) : Out :=
  fire s fun c =>
    if c.has 0 && c.has 2 then
      let t := passTok c 0 [0, 2]
      c.pass [0, 2] (if bit (c.val 2).toNat 0 then both t else if t.flg.ends then both (endTok t) else [])
    else none

/-- FCOMP (R224): its own tag, counting the tokens that pass. -/
def execFcomp (_w : NW) (s : State) : Out :=
  fire s fun c =>
    if c.has 0 && c.has 2 then
      let t := { passTok c 0 [0, 2] with tag := laneTag c.base c.i.k c.st.cnt }
      if bit (c.val 2).toNat 0 then
        c.passSt [0, 2] (fun x => { x with cnt := (x.cnt + 1) % 65536 }) (both t)
      else c.pass [0, 2] (if t.flg.ends then both (endTok t) else [])
    else none

/-- REPEAT (R220, R223, R224): one copy for each firing; the last consumes L, and R where it gave the count, and carries their end flags. -/
def execRepeat (w : NW) (s : State) : Out :=
  fire s fun c =>
    let fs := if w.lit = 0 then [0, 1] else [0]
    if !fs.all c.has then none else
    let count := if w.lit = 0 then (c.val 1).toNat % 65536 else w.lit.toNat
    let left := if c.st.busy then c.st.cnt else count
    let t := passTok c 0 fs
    if left = 0 then c.pass fs (if t.flg.ends then both (endTok t) else [])
    else if left = 1 then c.passSt fs (fun x => { x with busy := false, cnt := 0 }) (both t)
    else c.passSt [] (fun x => { x with busy := true, cnt := left - 1 }) (both { t with flg := { t.flg with eos := false, eor := false } })

/-- DELAY (R82, R224): a push, and the head when the line is over its depth; after a flagged token one held token for each firing. -/
def execDelay (w : NW) (s : State) : Out :=
  fire s fun c =>
    let d := w.lit.toNat % 32 + 1
    if c.st.flush then
      match c.st.line with
      | t :: rest => c.passSt [] (fun x => { x with line := rest, head := (x.head + 1) % d, flush := decide (rest ≠ []) }) (both t)
      | [] => c.passSt [] (fun x => { x with flush := false }) []
    else if c.has 0 then
      let line := c.st.line ++ [c.tok 0]
      let fl := (c.flg 0).ends
      match line with
      | t :: rest =>
        if d < line.length then c.passSt [0] (fun x => { x with line := rest, head := (x.head + 1) % d, flush := fl && decide (rest ≠ []) }) (both t)
        else c.passSt [0] (fun x => { x with line := line, flush := fl }) []
      | [] => none
    else none

/-- ACCUM's addition (R224): ADD or FADD in the node's type, modifiers in LIT13. -/
def accumAdd (c : Ctx) : W :=
  let md := bits c.lit 12 11 <<< 16 ||| b2n (bit c.lit 10) <<< 15
  (if c.fn < 8 then intAdd c.fn md c.st.acc (c.val 0) 0 else fltAdd c.fn md c.st.acc (c.val 0) 0).1

/-- ACCUM (R81, R224). -/
def execAccum (w : NW) (s : State) : Out :=
  fire s fun c =>
    if c.has 0 then
      let v := accumAdd c
      let n := w.lit.toNat % 1024
      if (c.flg 0).ends || (decide (n ≠ 0) && decide (c.st.cnt + 1 = n)) then
        c.passSt [0] (fun x => { x with acc := 0, cnt := 0 }) (both (c.res c.tag v (resFlg false [c.flg 0])))
      else c.passSt [0] (fun x => { x with acc := v, cnt := (x.cnt + 1) % 2 ^ 32 }) []
    else none

/-- GEN, free-running (R81, R219, R224). -/
def execGen (_w : NW) (s : State) : Out :=
  fire s fun c =>
    if c.st.cnt = 0 then none else
    let last := decide (c.st.cnt = 1)
    let t := c.res (laneTag c.base c.i.k c.st.emits) c.st.acc ⟨false, last, false, false, false⟩
    c.passSt [] (fun x => { x with acc := x.acc + 1, cnt := x.cnt - 1, emits := x.emits + 1 }) (both t)

/-- GEN, triggered (R81, R224): L is held through its run. -/
def execGenTrig (w : NW) (s : State) : Out :=
  fire s fun c =>
    if c.has 0 then
      let cur := if c.st.busy then c.st.acc else c.val 0
      let rem := if c.st.busy then c.st.cnt else w.lit.toNat + 1
      let last := decide (rem = 1)
      let t := c.res c.tag cur ⟨false, last && (c.flg 0).eos, last, false, false⟩
      c.passSt (if last then [0] else []) (fun x => { x with acc := cur + 1, cnt := rem - 1, busy := !last }) (both t)
    else none

/-- SINK (R222, R224). -/
def execSink (_w : NW) (s : State) : Out := fire s fun c => if c.has 0 then c.pass [0] [] else none

/-- SRC (R219, R223, R224). -/
def execSrc (w : NW) (s : State) : Out :=
  fire s fun c =>
    if c.st.sent then none else
    let t := c.res (laneTag c.base c.i.k c.st.emits) (wInt (sext w.lit.toNat 13)) ⟨false, decide (w.fn = 1), false, false, false⟩
    c.passSt [] (fun x => { x with sent := true, emits := x.emits + 1 }) (both t)

/-- TAGSET (R224). -/
def execTagset (_w : NW) (s : State) : Out :=
  fire s fun c =>
    if c.has 0 && c.has 1 then
      c.pass [0, 1] (both { passTok c 0 [0, 1] with tag := laneTag c.base c.i.k (c.val 1).toNat })
    else none

/-- TAGGET (R224). -/
def execTagget (_w : NW) (s : State) : Out :=
  fire s fun c =>
    if c.has 0 then
      c.pass [0] (both (c.res c.tag (w64 ((c.tag + 65536 - c.base) % 65536)) (resFlg false [c.flg 0])))
    else none

/-- ROUTE (R224). -/
def execRoute (w : NW) (s : State) : Out :=
  fire s fun c => if c.has 0 then c.pass [0] (oneWay c (!bit (c.val 0).toNat (w.lit.toNat % 64)) [0]) else none

/-- BOUND (R199): accesses are performed at their homes before their tokens leave, so L passes at once (log 5). -/
def execBound (_w : NW) (s : State) : Out := fire s fun c => if c.has 0 then c.pass [0] (both (passTok c 0 [0])) else none

/-! ### MERGE2, LUT6, FSM (R228, R229) -/

/-- Is the key of one pair smaller than that of another: signed, unsigned, or F32 with NaN last? -/
def keyLess (fn : Nat) (a b : W) : Bool :=
  let x := a.toNat / 2 ^ 32
  let y := b.toNat / 2 ^ 32
  if fn = 8 then
    let u := dec fF32 x
    let v := dec fF32 y
    if u.isNan then false else if v.isNan then true else fvLt false u v
  else decide (valOf fn x < valOf fn y)

/-- The old tokens of one input flow on alone while FRS stands on the other (R245). -/
def merge2Alone (c : Ctx) : Option Nat :=
  if 0 ∈ (c.i.ct c.n).frs ∧ c.has 1 = true ∧ c.has 0 = false then some 1
  else if 1 ∈ (c.i.ct c.n).frs ∧ c.has 0 = true ∧ c.has 1 = false then some 0
  else none

/-- MERGE2 (R228). -/
def execMerge2 (w : NW) (s : State) : Out :=
  fire s fun c =>
    match merge2Alone c with
    | some f => c.pass [f] (both (passTok c f [f]))
    | none =>
    if c.has 0 && c.has 1 then
      match (c.flg 0).ends, (c.flg 1).ends with
      | true, true =>
        c.pass [0, 1] (both (c.res c.tag 0 ⟨(c.flg 0).scl, (c.flg 0).eos && (c.flg 1).eos, true, false, false⟩))
      | true, false => c.pass [1] (both (passTok c 1 [1]))
      | false, true => c.pass [0] (both (passTok c 0 [0]))
      | false, false =>
        let f := if keyLess w.fn.toNat (c.val 1) (c.val 0) then 1 else 0
        c.pass [f] (both (passTok c f [f]))
    else none

/-- LUT6's value (R229). -/
def lut6 (ext : List W) (l r p : W) : W :=
  w64 ((upto 0 64).foldl (fun acc j =>
    let b := fun (x : W) (k : Nat) => b2n (bit x.toNat (k % 64))
    let idx := b l j * 32 + b r j * 16 + b p j * 8 + b l (j + 1) * 4 + b r (j + 1) * 2 + b p (j + 1)
    if bit (ext.getD (j % 4) 0).toNat idx then acc + 2 ^ j else acc) 0)

/-- LUT6 (R229). -/
def execLut6 (_w : NW) (s : State) : Out :=
  fire s fun c =>
    if c.has 0 && c.has 1 && c.has 2 then
      c.pass [0, 1, 2] (both (c.res c.tag (lut6 c.nd.ext (c.val 0) (c.val 1) (c.val 2)) (resFlg false [c.flg 0, c.flg 1, c.flg 2])))
    else none

/-- FSM (R229). -/
def execFsm (w : NW) (s : State) : Out :=
  fire s fun c =>
    if c.has 0 then
      let b := bits w.lit.toNat 9 4
      let sym := bits (c.val 0).toNat (b + 1) b
      let at_ := 4 * (4 * c.st.st + sym)
      let next := bits (c.nd.ext.getD (at_ / 64) 0).toNat (at_ % 64 + 3) (at_ % 64)
      let v := w64 (next * 2 ^ 60 + (c.val 0).toNat % 2 ^ 60)
      let send := bit w.lit.toNat 10 || decide (next ≠ c.st.st)
      c.passSt [0] (fun x => { x with st := next, acc := c.val 0 })
        (if send then both (c.res c.tag v (resFlg false [c.flg 0]))
         else if (c.flg 0).ends then both (endTok (c.res c.tag v (resFlg (c.flg 0).scl [c.flg 0]))) else [])
    else none

/-! ### Lanes (R230) -/

/-- The first FALLOC node of an invocation: its state holds the lane bitmap of the M-cell. -/
def laneOwner (i : Inv) : Option Nat := (i.nodes.find? fun e => decide (e.2.op = 0x94)).map Prod.fst

/-- FALLOC (R230). -/
def execFalloc (_w : NW) (s : State) : Out :=
  fire s fun c =>
    match laneOwner c.i with
    | none => none
    | some o =>
      let busy := (c.i.st o).lanes
      match (upto 0 (2 ^ c.i.k)).find? fun l => !decide (l ∈ busy) with
      | some l =>
        if c.has 0 then
          c.done c.s ((c.i.clearFields c.n c.tag [0]).onSt o fun x => { x with lanes := busy ++ [l] })
            (both { passTok c 0 [0] with tag := laneTag c.base c.i.k l })
        else none
      | none => none

/-- FFREE (R230). -/
def execFfree (_w : NW) (s : State) : Out :=
  fire s fun c =>
    if c.has 0 then
      let i1 := c.i.clearFields c.n c.tag [0]
      let i2 := match laneOwner c.i with
        | some o => i1.onSt o fun x => { x with lanes := x.lanes.filter fun l => decide (l ≠ (c.tag + 65536 - c.base) % 65536) }
        | none => i1
      c.done c.s i2 (both (passTok c 0 [0]))
    else none

/-! ### Channels and weirs (R44, R207, R231, R232) -/

/-- The ring position that a channel delivers from: its head; an all-to-all channel passes over a destination that waits (R212). -/
def chanPick (c : Ctx) : Option (Nat × Tok) :=
  let out := fun (t : Tok) => both { t with tag := c.outTag t.tag t.v }
  let old := c.st.line.takeWhile fun t => !t.flg.frs
  if aaDests c.nd = 0 then
    match old with
    | t :: _ => some (0, t)
    | [] => none
  else findIdxFrom (fun t => canSend c.s c.i c.n c.nd t.tag (out t)) 0 old

/-- CHAN (R207, R208, R231): one token of its ring goes to T1, but not in the cycle in which it entered an empty one; an FRS token stays (R244); its slot returns on the credit wire. A thread takes the tokens of a
channel without a target (R73). -/
def execChan (_w : NW) (s : State) : Out :=
  fire s fun c =>
    if c.nd.targets = [] ∨ justQueued c.s c.iid c.n 0 = true then none else
    match chanPick c with
    | none => none
    | some (k, t) =>
      c.done c.s ((c.i.popChan c.n (dropAt c.st.line k)).freeChan c.n t.tag) (both { t with tag := c.outTag t.tag t.v })

/-- The address of an entry of a region's spoil queue. -/
def spoilVa (i : Inv) (k : Nat) : Nat := i.region.dump.toNat + k % 256 * 32

/-- Enter a token in a region's spoil queue (R213): the entry is written first, those of one cycle in ascending source number; of those that find
no room, the highest are counted instead. -/
def spoil (s : State) (iid : Nat) (t : Tok) (reason dst field : Nat) (src : Nat) : State :=
  match s.inv iid with
  | none => s
  | some i =>
    let (rd, wr, ovf) := i.spoil
    let who : Who := ⟨i.region.die, i.ctxid, i.owner, true, none⟩
    let bs := toBytes 8 t.v.toNat ++ toBytes 2 t.tag ++ toBytes 1 (t.flg.bits) ++ toBytes 1 reason ++ toBytes 2 (dst * 4 + field) ++
      toBytes 2 src ++ toBytes 8 s.gtsc ++ toBytes 8 0
    let full := decide (256 ≤ wr - rd)
    let n := min (s.shot.filter fun u => decide (u = .spoiled iid)).length (wr - rd)
    let old := (upto (wr - n) n).map fun k => match readVa s who (spoilVa i k) 32 with
      | .ok (_, old) => old
      | .error _ => List.replicate 32 0
    let all := (upto (wr - n) (if full then n else n + 1)).zip (insertBy (fun a b => decide (leAt a 14 2 < leAt b 14 2)) bs old)
    let s1 := all.foldl (fun st e => match writeVa st who none (spoilVa i e.1) e.2 with
      | .ok s1 => s1
      | .error _ => st) s
    if full then s1.onInv iid fun i => { i with spoil := (rd, wr, if ovf = 0xffffffff then ovf else ovf + 1) }
    else (s1.onInv iid fun i => { i with spoil := (rd, wr + 1, ovf) }).mark (.spoiled iid)

/-- The owner of the region that sent the token at a weir's L: of the invocation itself, where no other region's stream brought it (R44;
log 61). -/
def weirFrom (c : Ctx) : Nat := Tab.getD c.st.senders c.tag c.i.owner

/-- Does a weir's word admit an owner (R232)? -/
def weirAdmits (e : W) (owner : Nat) : Bool := decide (fld e 15 0 = owner) || (bit e.toNat 32 && decide (fld e 31 16 = owner))

/-- WEIR (R44, R232): the owner of the sending region is checked, and the rate over the last 1,024 cycles. -/
def execWeir (_w : NW) (s : State) : Out :=
  fire s fun c =>
    if !c.has 0 then none else
    let e := c.nd.ext1
    let gone := fun (x : NodeSt) => { x with senders := Tab.del x.senders c.tag }
    if weirAdmits e (weirFrom c) then
      let recent := c.st.sends.filter fun t => decide (c.s.cycle ≤ t + 1024)
      if fld e 63 48 ≠ 0 ∧ fld e 63 48 ≤ recent.length then none
      else c.passSt [0] (fun x => { gone x with sends := c.s.cycle :: recent }) (both (passTok c 0 [0]))
    else
      match c.passSt [0] gone [] with
      | none => none
      | some s1 =>
        some (recElemHard (spoil s1 c.iid (c.tok 0) 2 c.n 0 c.nd.place.src) c.nd.place cPRIV (w64 (weirFrom c)))

/-! ### Experts (R210, R211, R233) -/

/-- The destination that a P value names (R233). -/
def exDest (n : Node) (p : W) : Nat := min (p.toNat % 256) (exDests n - 1)

/-- Tokens of one destination in the queue, in the spill area. -/
def exQ (x : NodeSt) (d : Nat) : List Tok := Tab.getD x.queues d []
def exSpc (x : NodeSt) (d : Nat) : Nat := (Tab.getD x.spill d []).length

/-- Put a token in a destination's queue. -/
def exPut (d : Nat) (t : Tok) (x : NodeSt) : NodeSt := { x with queues := Tab.put x.queues d (exQ x d ++ [t]) }

/-- Is a destination's queue full? Must a token for it go to the spill area (R211)? -/
def exFull (nd : Node) (x : NodeSt) (d : Nat) : Bool := decide (exCap nd ≤ (exQ x d).length)
def exSpills (nd : Node) (x : NodeSt) (d : Nat) : Bool := decide (exMode nd = 1) && (exFull nd x d || decide (exSpc x d ≠ 0))

/-- A token for the spill area leaves by T2, after those that wait to, and is remembered until it returns. -/
def exSpill (d : Nat) (t : Tok) (x : NodeSt) : NodeSt :=
  { x with spill := Tab.put x.spill d (Tab.getD x.spill d [] ++ [t]), outs := x.outs ++ [(1, t)] }

/-- A token of a destination enters its queue or its spill area. -/
def exEnter (nd : Node) (d : Nat) (t : Tok) (x : NodeSt) : NodeSt := if exSpills nd x d then exSpill d t x else exPut d t x

/-- The end tokens of a flagged token for every destination but its own (R221), each with its destination's tag (R233). -/
def exEnds (c : Ctx) (d : Nat) (t : Tok) : List (Nat × Tok) :=
  if t.flg.ends then
    ((upto 0 (exDests c.nd)).filter fun e => decide (e ≠ d)).map fun e => (e, { endTok t with tag := laneTag c.base c.i.k e })
  else []

/-- The tokens of a firing on L and P by destination: its own, and the end tokens that it stands for. -/
def exArrivals (c : Ctx) : List (Nat × Tok) :=
  let d := exDest c.nd (c.val 2)
  let t := { passTok c 0 [0, 2] with tag := laneTag c.base c.i.k d }
  (d, t) :: exEnds c d t

/-- Must a token wait: its queue is full under STALL, or under DROP when it is flagged (R211)? -/
def exWaits (nd : Node) (x : NodeSt) (e : Nat × Tok) : Bool :=
  exFull nd x e.1 && (decide (exMode nd = 0) || (decide (exMode nd = 2) && e.2.flg.ends))

/-- Destinations whose queues a firing of EXPERT has filled from empty hold their token for this cycle (R208). -/
def exMarked (c : Ctx) (o : Option State) : Option State :=
  o.map fun s => match s.inv c.iid with
    | some i => (i.st c.n).queues.foldl (fun s e => if exQ c.st e.1 = [] then s.mark (.queued c.iid c.n e.1) else s) s
    | none => s

/-- EXPERT's own firing on a returned token: it enters its destination's queue, which has room (R211, R233). -/
def exReturn (c : Ctx) : Option State :=
  let d := (c.tag + 65536 - c.base) % 65536
  exMarked c (c.passSt [1] (fun x => exPut d (c.tok 1) { x with spill := Tab.set x.spill [] d ((Tab.getD x.spill d []).drop 1) }) [])

/-- EXPERT's firing on L and P, with the end tokens that it stands for. -/
def exNew (c : Ctx) : Option State :=
  let nd := c.nd
  let d := exDest nd (c.val 2)
  let all := exArrivals c
  if all.any (exWaits nd c.st) then none
  else if exMode nd = 2 ∧ exFull nd c.st d then
    c.passSt [0, 2] (fun x => { x with drops := Tab.put x.drops d (min 0xffffffff (Tab.getD x.drops d 0 + 1)) }) []
  else
    exMarked c (c.passSt [0, 2] (fun x => all.foldl (fun x e => exEnter nd e.1 e.2 x) x) [])

/-- EXPERT (R210, R211, R233): a returned token whose queue has room first, then tokens that wait for T2, then the token on L and its
destination on P. -/
def execExpert (_w : NW) (s : State) : Out :=
  fire s fun c =>
    if c.has 1 && !exFull c.nd c.st ((c.tag + 65536 - c.base) % 65536) then exReturn c else
    match c.st.outs with
    | (w, t) :: rest => c.passSt [] (fun x => { x with outs := rest }) [only w t]
    | [] => if !c.has 1 && c.has 0 && c.has 2 then exNew c else none

/-- The next destination in turn that holds a token which may leave in this cycle (R208, R233). -/
def exNext (s : State) (iid n : Nat) (nd : Node) (x : NodeSt) : Option Nat :=
  ((upto 0 (exDests nd)).map fun k => (x.rr + k) % exDests nd).find? fun d => decide (exQ x d ≠ []) && !justQueued s iid n d

/-- EXPERT_DRAIN (R233): a queued token goes to T1, round-robin over the destinations that hold tokens. -/
def execExpertDrain (iid node : Nat) (s : State) : Out :=
  fireAny { s with site := (iid, node, 0) } fun c =>
    if c.nd.op ≠ 0x99 then none else
    match exNext c.s c.iid c.n c.nd c.st with
    | none => none
    | some d =>
      match exQ c.st d with
      | [] => none
      | t :: rest =>
        (c.passSt [] (fun x => { x with queues := Tab.set x.queues [] d rest, rr := (d + 1) % exDests c.nd }) [only 0 t]).map fun s1 =>
          if queuePoisoned c.s c.i c.nd d then poisonEnd c.s c else s1

/-! ### TOPK (R234) -/

/-- N and M of a TOPK pattern code. -/
def topkNM (p : Nat) : Nat × Nat := match p with | 0 => (1, 4) | 1 => (2, 4) | 2 => (2, 8) | _ => (4, 8)

/-- |a| against |b| for ranking: a NaN counts as the largest. -/
def magLt (a b : FV) : Bool :=
  if a.isNan then false else if b.isNan then true else fvLt false (a.absIf true) (b.absIf true)

/-- Which of the values are among the n largest in magnitude, ties to the lower index. -/
def keepTop (n : Nat) (vs : List FV) : List Bool :=
  (upto 0 vs.length).map fun k =>
    let v := vs.getD k (.nan false)
    let ahead := (upto 0 vs.length).filter fun j =>
      let u := vs.getD j (.nan false)
      if j < k then !magLt u v else decide (k < j) && magLt v u
    decide (ahead.length < n)

/-- The tokens of a group as TOPK sends them: the last carries the closing flags. -/
def topkOut (fn n : Nat) (ts : List Tok) : List Tok :=
  let keep := keepTop n (ts.map fun t => dec (fmtOf fn) t.v.toNat)
  (ts.zip keep).map fun e => if e.2 then e.1 else { e.1 with v := 0 }

/-- TOPK (R234). -/
def execTopk (w : NW) (s : State) : Out :=
  fire s fun c =>
    let (n, m) := topkNM w.lit.toNat
    if c.st.flush then
      match c.st.line with
      | t :: rest =>
        let t1 := c.res t.tag t.v ⟨false, t.flg.eos, t.flg.eor, false, false⟩
        c.passSt [] (fun x => { x with line := rest, flush := decide (rest ≠ []) }) (both t1)
      | [] => c.passSt [] (fun x => { x with flush := false }) []
    else if c.has 0 then
      let line := c.st.line ++ [c.tok 0]
      if line.length = m ∨ (c.flg 0).ends = true then
        c.passSt [0] (fun x => { x with line := topkOut w.fn.toNat n line, flush := true }) []
      else c.passSt [0] (fun x => { x with line := line }) []
    else none

end Sys2Proof.Machine
end

