-- ==== Sys2Proof/Machine/TileData.lean ====
section
/-! DEFINITION. The elements of a tile: layout, values with their scales, encoding, exact block sums (spec 15_tiles R294, R304 to R311,
06_numbers R109 to R116). -/
namespace Sys2Proof.Machine

/-! ### Layout (R294) -/

/-- A tile as an instruction reads or writes it: its entry, its descriptor, rows and columns, bytes from one row to the next. -/
structure View where
  key : Nat
  desc : Desc
  rows : Nat
  cols : Nat
  pitch : Nat
  deriving DecidableEq, Repr

/-- Does a tile lie in accumulator storage (R141)? -/
def inAcc (s : State) (key : Nat) : Bool :=
  let p := s.mem.partOf (key / 256)
  decide ((partRF p + partSP p) * 65536 ≤ (s.tile key).offset * 512)

/-- Bytes of one row. -/
def rowBytes (fmt cols : Nat) : Nat := cols / unitElems fmt * unitBytes fmt

/-- A view of a tile; an F32 tile in accumulator storage has a row pitch of 64 elements. -/
def viewOf (s : State) (key : Nat) (d : Desc) (rows cols : Nat) : View :=
  ⟨key, d, rows, cols, if d.fmt = 8 ∧ inAcc s key = true then 256 else rowBytes d.fmt cols⟩

/-- Bytes from the first to the last of a view; does it fit in its chunks; has it whole blocks? -/
def View.span (v : View) : Nat := (v.rows - 1) * v.pitch + rowBytes v.desc.fmt v.cols
def View.fits (s : State) (v : View) : Bool := decide (v.span ≤ (s.tile v.key).bytes)
def View.blocks (v : View) : Bool := !isBlock v.desc.fmt || decide (v.cols % 32 = 0)

/-- The bytes of a tile from an offset. -/
def tileBytes (s : State) (key off n : Nat) : List Byte := s.mem.rds (tilePa s key off) n

/-- The chunk of the first poisoned line of a tile's first n bytes (R300). -/
def tilePoison (s : State) (key n : Nat) : Option Nat :=
  ((upto 0 ((n + 63) / 64)).find? fun l => s.mem.bad (tilePa s key (64 * l))).map fun l => l / 8

/-- The lines of a tile that hold a byte of some row of a view. -/
def View.lines (v : View) : List Nat :=
  let n := rowBytes v.desc.fmt v.cols
  ((upto 0 v.rows).flatMap fun i => if n = 0 then [] else upto (i * v.pitch / 64) ((i * v.pitch + (n - 1)) / 64 + 1 - i * v.pitch / 64)).eraseDups

/-- The chunk of the first poisoned line of a view (R300). -/
def View.poison (s : State) (v : View) : Option Nat := (v.lines.find? fun l => s.mem.bad (tilePa s v.key (64 * l))).map fun l => l / 8

/-- The TREF of an entry (R184). -/
def trefOf (key : Nat) : Nat :=
  let c := key / 256
  c / 384 * 2 ^ 24 + c % 384 / 24 * 2 ^ 16 + c % 24 * 2 ^ 8 + key % 256

/-! ### Values -/

/-- The scale bytes of a descriptor for a number of elements (R111, R251): the base's, or a vector's of one byte for each 32. -/
def scaleBytes (s : State) (who : Who) (scale : W) (n : Nat) : Except ReadErr (State × List Nat) :=
  if bit scale.toNat 63 then
    match readVa s who (wInt (sext (scale.toNat % 2 ^ 51) 51)).toNat ((n + 31) / 32) with
    | .ok (s1, bs) => .ok (s1, bs.map BitVec.toNat)
    | .error e => .error e
  else .ok (s, [scale.toNat % 256])

/-- A value under the scale of its element index: a NaN scale makes it NaN, signalling as the element was (R111, R116). -/
def scaled (sc : List Nat) (vec : Bool) (e : Nat) (x : FV) : FV :=
  let S := sc.getD (if vec then e / 32 else 0) 0
  if S = 255 then .nan x.isSig else x.scale ((S : Int) - 127)

/-- The values of one row's bytes. -/
def rowVals (fmt cols : Nat) (bs : List Byte) : List FV :=
  (upto 0 (cols / unitElems fmt)).flatMap fun u => unitVals fmt ((bs.drop (u * unitBytes fmt)).take (unitBytes fmt))

/-- Pool bytes of a tile show what stands there (R138). -/
def State.refreshTile (s : State) (key n : Nat) : State := s.refresh [tilePa s key 0, tilePa s key (n - 1)]

/-- The rows of a view, without the descriptor's scale. -/
def View.raw (s : State) (v : View) : List (List FV) :=
  let s := s.refreshTile v.key v.span
  (upto 0 v.rows).map fun i => rowVals v.desc.fmt v.cols (tileBytes s v.key (i * v.pitch) (rowBytes v.desc.fmt v.cols))

/-- Apply the scales of a descriptor to rows. -/
def scaleRows (sc : List Nat) (vec : Bool) (cols : Nat) (rows : List (List FV)) : List (List FV) :=
  (upto 0 rows.length).map fun i => (upto 0 cols).map fun k => scaled sc vec (i * cols + k) ((rows.getD i []).getD k (.fin false 0 0))

/-- The exact values of a view (R304). -/
def View.vals (s : State) (who : Who) (v : View) : Except ReadErr (State × List (List FV)) :=
  match scaleBytes s who v.desc.scale (v.rows * v.cols) with
  | .error e => .error e
  | .ok (s1, sc) => .ok (s1, scaleRows sc (bit v.desc.scale.toNat 63) v.cols (v.raw s))

/-! ### Encoding -/

/-- A value in a scalar format (R112): its code and flags; none where the spec states no result, a value that an integer format or
E8M0 does not hold (log 2). -/
def encScalar (fmt mode : Nat) (x : FV) : Option (Nat × Nat) :=
  if fmt < 8 then
    match x with
    | .fin n m e =>
      let r := roundTo 1 n m e 0 false
      let v : Int := if n then -(r.1 : Int) else r.1
      if r.2 || decide (v < loOf fmt) || decide (hiOf fmt < v) then none else some (lowBits fmt v, 0)
    | _ => none
  else if fmt = 13 then
    match x with
    | .nan _ => some (255, 0)
    | .fin false m e =>
      let t := topExp m e + 127
      if m = 2 ^ (bitLen m - 1) ∧ m ≠ 0 ∧ 0 ≤ t ∧ t ≤ 254 then some (t.toNat, 0) else none
    | _ => none
  else
    let r := round (fmtOf fmt) mode x.exact
    some (r.code, r.flags)

/-- Bytes of one row in a format, its flags, NV for a signalling element among them (R118), and the free values it took from a count on. -/
def encRow (fmt mode fresh : Nat) (xs : List FV) : List Byte × Nat × Nat :=
  if isBlock fmt then
    let r := (upto 0 (xs.length / 32)).map fun b => packBlock fmt ((xs.drop (32 * b)).take 32)
    (r.flatMap Prod.fst, orAll (r.map Prod.snd), fresh)
  else
    xs.foldl (fun (a : List Byte × Nat × Nat) x =>
      match encScalar fmt mode x with
      | some (c, f) => (a.1 ++ toBytes (unitBytes fmt) c, a.2.1 ||| f ||| sigFlag [x], a.2.2)
      | none => (a.1 ++ toBytes (unitBytes fmt) (Config.freeValue a.2.2).toNat, a.2.1 ||| sigFlag [x], a.2.2 + 1)) ([], 0, fresh)

/-- What an operation writes into a tile: bytes by offset, flags, free values taken. -/
structure TileOut where
  bytes : List (Nat × Byte)
  flags : Nat
  fresh : Nat
  deriving DecidableEq, Repr

/-- Bytes at rising offsets. -/
def atOff (off : Nat) (bs : List Byte) : List (Nat × Byte) := (upto off bs.length).zip bs

/-- The rows of a result as its view stores them. -/
def View.encode (v : View) (mode fresh : Nat) (rows : List (List FV)) : TileOut :=
  (upto 0 v.rows).foldl (fun o i =>
    let r := encRow v.desc.fmt mode o.fresh (rows.getD i [])
    ⟨o.bytes ++ atOff (i * v.pitch) r.1, o.flags ||| r.2.1, r.2.2⟩) ⟨[], 0, fresh⟩

/-- Output chunks of a result: chunk number, and its bytes by offset. -/
def chunksOf (bs : List (Nat × Byte)) : List (Nat × List (Nat × Byte)) :=
  ((bs.map fun e => e.1 / 512).eraseDups).map fun c => (c, bs.filter fun e => decide (e.1 / 512 = c))

/-! ### Exact block sums (R115, R116) -/

/-- The exact sum of products, and its flags (R116): infinite products of both signs set NV beside a NaN too. -/
def blockSum (ps : List (FV × FV)) : FV × Nat :=
  let qs := ps.map fun p => xmul p.1 p.2
  let vs := qs.map Prod.fst
  let up := vs.any fun v => decide (v = .inf false)
  let dn := vs.any fun v => decide (v = .inf true)
  let inv := orAll (qs.map Prod.snd) ||| sigFlag (ps.map Prod.fst) ||| sigFlag (ps.map Prod.snd) ||| flagIf (up && dn) fNV
  if vs.any FV.isNan || (up && dn) then (.nan false, inv)
  else if up then (.inf false, inv)
  else if dn then (.inf true, inv)
  else
    let q := vs.foldl (fun (q : Int) v => match v with | .fin _ _ e => if e < q then e else q | _ => q) 0
    let t := vs.foldl (fun (a : Int) v => match v with | .fin n m e => a + sigAt n m e q | _ => a) 0
    (.fin (decide (t < 0)) t.natAbs q, inv)

/-- acc := RNE(acc + S, F32), on the code of acc (R115, R116). -/
def accStep (acc : Nat) (S : FV) : Nat × Nat :=
  let a := dec fF32 acc
  let r := xadd 0 a S
  let y := round fF32 0 r.1
  (y.code, y.flags ||| r.2 ||| flagIf a.isSig fNV)

/-- One output element: the blocks of its sum in turn. -/
def dotElem (acc : Nat) (blocks : List (List (FV × FV))) : Nat × Nat :=
  blocks.foldl (fun (a : Nat × Nat) b =>
    let S := blockSum b
    let r := accStep a.1 S.1
    (r.1, a.2 ||| S.2 ||| r.2)) (acc, 0)

/-- The pairs of two rows, in blocks of 32. -/
def rowBlocks (k : Nat) (xs ys : List FV) : List (List (FV × FV)) :=
  let ps := xs.zip ys
  (upto 0 ((k + 31) / 32)).map fun b => (ps.drop (32 * b)).take 32

/-- May two formats be multiplied (R121)? -/
def pairOk (a b : Nat) : Bool :=
  (isBxCode a && isBxCode b) || ((decide (a = 14) || decide (a = 15)) && (decide (b = 14) || decide (b = 15))) ||
  (decide (a = 16) && decide (b = 16)) || (decide (a = 9) && decide (b = 9))

end Sys2Proof.Machine
end

