-- ==== Sys2Proof/Machine/MemNodes.lean ====
section
/-! DEFINITION. Node firings that reach memory: AG cells, the M-cell memory nodes, tile streams, spill areas, and how a stopped
requester resumes (spec 08_memories R144 to R159, 12_nodes R225 to R233). -/
namespace Sys2Proof.Machine

/-! ### A requester that stops (R159) -/

/-- A failed address stops its requester, which keeps the token; the PAGE record goes to the hard core. -/
def stopNode (s : State) (c : Ctx) (t : Tok) (v : W) : State :=
  recElemHard (s.onInv c.iid fun i => { i.onSt c.n (fun x => { x with retained := some t }) with pages := i.pages + 1 }) c.nd.place cPAGE v

/-- Is the requester of a node stopped: the node itself, or any node of its AG cell (R159)? -/
def requesterStopped (c : Ctx) : Bool :=
  if c.nd.place.elem = 6 then
    c.i.nodes.any fun e => decide (e.2.place.elem = 6) && decide (e.2.place.core / 384 = c.nd.place.core / 384) &&
      decide (e.2.place.slot = c.nd.place.slot) && (c.i.st e.1).retained.isSome
  else c.st.retained.isSome

/-- A firing of a node whose requester is not stopped. -/
def fireMem (s : State) (f : Ctx → Option State) : Out := fire s fun c => if requesterStopped c then none else f c

/-- REQUESTER_RESUME (R159): the failed address is translated again when the node next fires. -/
def execRequesterResume (iid node : Nat) (s : State) : Out :=
  match s.inv iid with
  | some i =>
    if (i.st node).retained.isSome then
      .next (s.putInv iid { i.onSt node (fun x => { x with retained := none }) with pages := i.pages - 1 })
    else .next s
  | none => .next s

/-- The VA of a pool offset in the local windows (R142). -/
def windowVa (core off : Nat) : Nat := winBase + core / 384 * (2 * gib) + core % 384 * 0x400000 + off

/-- Is a bank that a pool offset of a core reaches HELD by an invocation (R144)? -/
def bankHeld (s : State) (iid core off : Nat) : Bool :=
  let b := Tab.getD s.mem.banks (core * 16 + (bankByte (s.mem.partOf core) off).1) .reset
  decide (b.st = .held) && decide (b.holder = iid)

/-- The end token of AGEN and MLOAD (R226). -/
def voidTok : W := 0xff00000000000000#64
def isVoid (v : W) : Bool := decide (fld v 63 56 = 255)

/-- The VA that an address token holds (R226). -/
def tokVa (v : W) : Nat := (wInt (sext (v.toNat % 2 ^ 51) 51)).toNat

/-! ### AGEN (R225) -/

/-- The end flags of a run. -/
def agEnd (c : Ctx) (t : Tok) : Flg := let e := bit c.lit 0; ⟨false, !e || t.flg.eos, e, false, false⟩

/-- The VA of the next unit of a run, in the descriptor that its handle names. -/
def agenVa (c : Ctx) (r : AgRun) (h : Handle) : Nat :=
  let e := (fld (c.nd.ext.getD 1 0) 47 0 : Int) + (r.next : Int) * sext (fld (c.nd.ext.getD 0 0) 63 32) 32
  (h.desc.base + w64 (unitOf h.desc.fmt e.toNat).1).toNat

/-- One address of a run, or its separate end token. -/
def agenRun (c : Ctx) (r : AgRun) : Option State :=
  let count := fld (c.nd.ext.getD 0 0) 31 0
  let stride := sext (fld (c.nd.ext.getD 0 0) 63 32) 32
  let start := fld (c.nd.ext.getD 1 0) 47 0
  let finish := fun (x : NodeSt) => { x with run := none }
  if count ≤ r.next then
    c.done c.s (c.i.onSt c.n finish) (both (c.res r.tok.tag voidTok (agEnd c r.tok)))
  else
    match c.s.handle c.i.ctxid r.handle with
    | none => c.fails (endInv (recElemHard c.s c.nd.place cPRIV (w64 r.handle)) c.iid)
    | some h =>
      let e := (start : Int) + (r.next : Int) * stride
      let u := unitOf h.desc.fmt e.toNat
      let va := agenVa c r h
      if e < 0 ∨ h.desc.extent < u.1 + unitBytes h.desc.fmt then
        c.fails (stopNode c.s c r.tok (pageValue .permission .read (h.desc.base + wInt (e / (unitElems h.desc.fmt : Int) * unitBytes h.desc.fmt)).toNat))
      else if (missBlocked c.s c.i.who va).isSome then none
      else
        match translate c.s c.i.who .read va with
        | .error k => c.fails (stopNode c.s c r.tok (pageValue k .read va))
        | .ok (s1, _) =>
          let last := decide (r.next + 1 = count) && decide (c.fn = 0)
          let t := c.res r.tok.tag (w64 (u.2 * 2 ^ 51 + va % 2 ^ 51)) (if last then agEnd c r.tok else .zero)
          c.done s1 (c.i.onSt c.n (if last then finish else fun x => { x with run := some { r with next := r.next + 1 } })) (both t)

/-- AGEN (R225): a token on L starts a run; then one address for each firing. -/
def execAgen (_w : NW) (s : State) : Out :=
  fireMem s fun c =>
    match c.st.run with
    | some r => agenRun c r
    | none => if c.has 0 then c.passSt [0] (fun x => { x with run := some ⟨0, (c.val 0).toNat % 4096, c.tok 0⟩ }) [] else none

/-! ### Tile streams (R147, R148) -/

/-- Rows and columns of a tile as its descriptor gives them. -/
def descShape (d : Desc) : Nat × Nat := ((d.dims.dropLast).foldl (fun a b => a * b) 1, d.dims.getLastD 1)

/-- The tile of a stream: key and view; none while its handle is not open. -/
def streamView (c : Ctx) : Option View :=
  let key := c.nd.place.core * 256 + bits c.lit 8 1
  match c.s.handle c.i.ctxid (c.s.tile key).handle with
  | some h => some (viewOf c.s key h.desc (descShape h.desc).1 (descShape h.desc).2)
  | none => none

/-- A tile's chunks lie in scratchpad banks that the invocation holds (R144); accumulator storage has no holder. -/
def tileHeld (c : Ctx) (key : Nat) : Bool :=
  inAcc c.s key || (upto 0 ((c.s.tile key).size + 1)).all fun k => bankHeld c.s c.iid (key / 256) (((c.s.tile key).offset + k) * 512)

/-- The tokens of a stream: one for each element that is not zero, row-major; the last carries EOS; and OF with NX where a value has come to
±∞ by rounding (R147). -/
def streamToks (rows : List (List FV)) : List W × Nat :=
  let es := (upto 0 rows.length).flatMap fun i =>
    (upto 0 (rows.getD i []).length).filterMap fun j =>
      match (rows.getD i []).getD j (.fin false 0 0) with
      | .fin _ 0 _ => none
      | x => some (i, j, round fF32 0 x.exact)
  if es = [] then ([w64 0xffffffff00000000], 0)
  else (es.map fun e => w64 (e.1 * 2 ^ 48 + e.2.1 * 2 ^ 32 + e.2.2.code), if es.any fun e => e.2.2.flags &&& fOF ≠ 0 then fOF ||| fNX else 0)

/-- The next token of a stream in progress. -/
def streamNext (c : Ctx) : Option State :=
  match c.st.outs with
  | [] => none
  | (_, t) :: rest => c.passSt (if rest = [] then [0] else []) (fun x => { x with outs := rest }) (both { t with tag := c.outTag c.tag t.v })

/-- MLOAD of a tile (R147, R227): any token on L starts the stream of a READY tile. -/
def mloadTile (c : Ctx) : Option State :=
  if c.st.outs ≠ [] then streamNext c
  else if !c.has 0 then none
  else
    match streamView c with
    | none => none
    | some v =>
      let e := c.s.tile v.key
      if e.st ≠ .ready ∨ tileHeld c v.key = false then none
      else if e.poison || (tilePoison c.s v.key v.span).isSome then c.fails (poisonEnd c.s c)
      else
        match v.vals c.s c.i.who with
        | .error (.poison _) => c.fails (poisonEnd c.s c)
        | .error r => c.fails (stopNode c.s c (c.tok 0) r.report.2)
        | .ok (s1, rows) =>
          let (ws, f) := streamToks rows
          let n := ws.length
          let ts := (upto 0 n).map fun k =>
            (0, (⟨ws.getD k 0, c.tag, ⟨false, decide (k + 1 = n), decide (k + 1 = n) && (c.flg 0).eor, false, false⟩, 0⟩ : Tok))
          let s2 := s1.onTile v.key fun e => { e with flags := e.flags ||| f }
          c.done s2 (c.i.onSt c.n fun x => { x with outs := ts }) []

/-- The operand-ring descriptor that a tile lies in (R301): its number and itself. -/
def ringOf (s : State) (key : Nat) : Option (Nat × ORing) :=
  (s.tab.orings.find? fun e =>
    e.2.v && decide (e.1 / 16 = key / 256) && decide (e.2.first ≤ key % 256) && decide (key % 256 ≤ e.2.first + e.2.count))

/-- May a writer start on a tile of a ring (R302)? Only at its tail. -/
def ringTailOk (s : State) (key : Nat) : Bool :=
  match ringOf s key with
  | some (_, r) => decide (r.first + r.tail = key % 256)
  | none => true

/-- A writer that starts on the tail tile advances TAIL (R301). -/
def ringAdvance (s : State) (key : Nat) : State :=
  match ringOf s key with
  | some (k, r) => { s with tab := { s.tab with orings := Tab.put s.tab.orings k { r with tail := (r.tail + 1) % (r.count + 1) } } }
  | none => s

/-- Start writing an EMPTY tile (R247, R248). -/
def startFill (s : State) (key : Nat) : State := (ringAdvance s key).onTile key fun e => e.fresh .filling

/-- Write bytes of a tile by offset. -/
def tileWrite (s : State) (key : Nat) (bs : List (Nat × Byte)) : State := writeRuns s none (bs.map fun e => tilePa s key e.1) (bs.map Prod.snd)

/-- The values that a stream's tokens place: later tokens stand. -/
def placeToks (rows cols : Nat) (ts : List Tok) : List (List FV) :=
  (upto 0 rows).map fun i => (upto 0 cols).map fun j =>
    match ts.reverse.find? fun t => decide (fld t.v 63 48 = i) && decide (fld t.v 47 32 = j) with
    | some t => dec fF32 (t.v.toNat % 2 ^ 32)
    | none => .fin false 0 0

/-- The tile of a stream that a bad coordinate has spoilt takes POISON (R148). -/
def spoilTile (s : State) (key : Nat) : State := s.onTile key fun e => { e with poison := true }

/-- One token of a stream into a tile that has been started (R148): no flag is recorded (R119), and a poisoned tile never becomes READY (R248). -/
def mstoreTok (c : Ctx) (s : State) (v : View) : Option State :=
  let t := c.tok 0
  let out := if t.flg.ends ∧ c.nd.targets ≠ [] then both (endTok (c.res c.tag 0 (resFlg t.flg.scl [t.flg]))) else []
  let i1 := c.i.clearFields c.n c.tag [0]
  if c.st.flush then c.done s (i1.onSt c.n fun x => { x with flush := !t.flg.eos, busy := !t.flg.eos, line := [] }) out
  else
    let r := fld t.v 63 48
    let k := fld t.v 47 32
    let sentinel := decide (r = 0xffff) && decide (k = 0xffff)
    if !sentinel && (decide (v.rows ≤ r) || decide (v.cols ≤ k)) then
      match c.done (spoilTile s v.key) (i1.onSt c.n fun x => { x with flush := !t.flg.eos, busy := !t.flg.eos, line := [] }) out with
      | some s1 => some (recElem { s1 with fresh := s1.fresh + 1 } c.i c.nd.place cSPARSE (Config.freeValue s1.fresh))
      | none => none
    else
      let line := if sentinel then c.st.line else c.st.line ++ [t]
      if t.flg.eos then
        let o := v.encode 0 s.fresh (placeToks v.rows v.cols line)
        let s1 := tileWrite { s with fresh := o.fresh } v.key o.bytes
        let s2 := s1.onTile v.key fun e =>
          { e with st := if e.poison then e.st else .ready, bitmap := w64 (2 ^ (e.size + 1) - 1) }
        c.done s2 (i1.onSt c.n fun x => { x with busy := false, line := [] }) out
      else c.done s (i1.onSt c.n fun x => { x with busy := true, line := line }) out

/-- MSTORE into a tile (R148): the first token, or the next one of a restored stream (R248), starts an EMPTY tile at its ring's tail and
writes every element as zero. In accumulator storage, which no node writes (R141), the address fails with kind WINDOW: DEDUCED (log 77). -/
def mstoreTile (c : Ctx) : Option State :=
  if !c.has 0 then none else
  match streamView c with
  | none => none
  | some v =>
    if inAcc c.s v.key then
      c.fails (stopNode c.s c (c.tok 0) (pageValue .window .write (windowVa (v.key / 256) ((c.s.tile v.key).offset * 512))))
    else if tileHeld c v.key = false then none
    else if c.st.flush ∨ c.st.busy = true ∧ (c.s.tile v.key).st = .filling then mstoreTok c c.s v
    else if (c.s.tile v.key).st ≠ .empty ∨ ringTailOk c.s v.key = false then none
    else
      let o := v.encode 0 c.s.fresh (placeToks v.rows v.cols [])
      mstoreTok c (tileWrite (startFill { c.s with fresh := o.fresh } v.key) v.key o.bytes) v

/-! ### MLOAD, MSTORE, RMW (R227) -/

/-- An element read from memory as MLOAD sends it. -/
def loadVal (fn lane : Nat) (bs : List Byte) : W :=
  if fn < 8 then wInt (valOf fn (ofBytes bs))
  else w64 (round fF32 0 ((unitVals fn bs).getD lane (.fin false 0 0)).exact).code

/-- MLOAD of an element: a void address reads nothing and sends an end token, of value 0 as R221 has it (22_prog_merge (9); log 59). -/
def mloadElem (c : Ctx) : Option State :=
  if !c.has 0 then none
  else if isVoid (c.val 0) then c.pass [0] (both (c.res c.tag 0 (resFlg (c.flg 0).scl [c.flg 0])))
  else
    let va := tokVa (c.val 0)
    if (missBlocked c.s c.i.who va).isSome then none else
    match readVa c.s c.i.who va (unitBytes c.fn) with
    | .error (.poison _) => c.fails (poisonEnd c.s c)
    | .error r => c.fails (stopNode c.s c (c.tok 0) r.report.2)
    | .ok (s1, bs) =>
      let lane := if isBlock c.fn then fld (c.val 0) 55 51 else 0
      let v := loadVal c.fn lane bs
      c.done s1 (c.i.clearFields c.n c.tag [0]) (both (c.res c.tag v (resFlg false [c.flg 0])))

/-- MLOAD (R227). -/
def execMload (w : NW) (s : State) : Out := fireMem s fun c => if bit w.lit.toNat 0 then mloadTile c else mloadElem c

/-- The bytes that MSTORE writes for a value. -/
def storeBytes (fn : Nat) (v : W) : List Byte :=
  if fn < 8 then toBytes (unitBytes fn) v.toNat
  else if fn = 13 then toBytes 1 v.toNat
  else toBytes (unitBytes fn) (round (fmtOf fn) 0 (dec fF32 (v.toNat % 2 ^ 32)).exact).code

/-- MSTORE of an element. DESIGN CHOICE (log 91): its result takes R's SCL, as R227 has it, where R220 gives other nodes' results SCL 0; and the end
flags of both operands, as R220 has them. -/
def mstoreElem (c : Ctx) : Option State :=
  if !(c.has 0 && c.has 1) then none else
  let t := c.res c.tag 0 (resFlg (c.flg 1).scl [c.flg 0, c.flg 1])
  if isVoid (c.val 0) then c.pass [0, 1] (both t)
  else
    let va := tokVa (c.val 0)
    if (missBlocked c.s c.i.who va).isSome || !canSend c.s c.i c.n c.nd c.tag (both t) then none else
    match writeVa c.s c.i.who none va (storeBytes c.fn (c.val 1)) with
    | .error (k, a) => some (stopNode c.s c (c.tok 0) (pageValue k .write a))
    | .ok s1 =>
      match s1.inv c.iid with
      | some i1 => c.done s1 (i1.clearFields c.n c.tag [0, 1]) (both t)
      | none => some s1

/-- MSTORE (R227). -/
def execMstore (w : NW) (s : State) : Out := fireMem s fun c => if bit w.lit.toNat 0 then mstoreTile c else mstoreElem c

/-- RMW (R227): an atomic on a scratchpad word of the node's own core. -/
def execRmw (w : NW) (s : State) : Out :=
  fire s fun c =>
    if !c.has 0 then none else
    let core := c.nd.place.core
    let part := c.s.mem.partOf core
    let off := fld (c.val 0) 63 32
    if off % 4 ≠ 0 then
      c.fails (failNode { c.s with fresh := c.s.fresh + 1 } c.iid c.nd cALIGN (Config.freeValue c.s.fresh))
    else if partSP part * 65536 ≤ off then
      c.fails (failNode c.s c.iid c.nd cPAGE (pageValue .window .write (windowVa core (partRF part * 65536 + off))))
    else
      let p := partRF part * 65536 + off
      let pa := poolPa core p
      if bankHeld c.s c.iid core p = false then none
      else if c.s.mem.bad pa then c.fails (poisonEnd c.s c)
      else
        let old := (c.s.refresh (upto pa 4)).mem.word pa 4
        let r := atomOp w.fn.toNat old (fld (c.val 0) 31 0)
        let t := c.res c.tag (atomVal w.fn.toNat old) (resFlg false [c.flg 0])
        if !canSend c.s c.i c.n c.nd c.tag (both t) then none else
        let s1 := homeWrite c.s none pa (toBytes 4 r.1)
        match s1.inv c.iid with
        | some i1 => c.done s1 (i1.clearFields c.n c.tag [0]) (both t)
        | none => some s1

/-! ### SPILL (R233) -/

/-- Destinations of the EXPERT that feeds a SPILL node. -/
def spillDests (i : Inv) (n : Nat) : Nat :=
  match feeder i.nodes n 0 with
  | some (p, _) => match Tab.look i.nodes p with
    | some e => exDests e
    | none => 1
  | none => 1

/-- Entries of one destination's share of the spill area, and the VA of one. -/
def spillCap (c : Ctx) : Nat := fld c.nd.ext1 63 51 * 65536 / spillDests c.i c.n / 16
def spillVa (c : Ctx) (d k : Nat) : Nat := (tokVa (w64 (fld c.nd.ext1 50 0)) + (d * spillCap c + k % spillCap c) * 16) % 2 ^ 64

/-- SPILL (R233): a token on L is written to its destination's share; else the oldest token of that share returns, with its destination's tag
in the block that the invocation has now (R239). -/
def execSpill (_w : NW) (s : State) : Out :=
  fireMem s fun c =>
    let d := (c.tag + 65536 - c.base) % 65536
    let held := Tab.getD c.st.spill d []
    let wr := Tab.getD c.st.wrote d 0
    if c.has 0 && decide (held.length < spillCap c) then
      match writeVa c.s c.i.who none (spillVa c d wr) (tokBytes (c.tok 0)) with
      | .error (k, a) => c.fails (stopNode c.s c (c.tok 0) (pageValue k .write a))
      | .ok s1 =>
        match s1.inv c.iid with
        | some i1 =>
          c.done s1 ((i1.clearFields c.n c.tag [0]).onSt c.n fun x =>
            { x with spill := Tab.put x.spill d (held ++ [c.tok 0]), wrote := Tab.put x.wrote d (wr + 1) }) []
        | none => some s1
    else
      match held with
      | [] => none
      | t :: rest =>
        match readVa c.s c.i.who (spillVa c d (wr - held.length)) 16 with
        | .error (.poison _) => c.fails (poisonEnd c.s c)
        | .error r => c.fails (stopNode c.s c t r.report.2)
        | .ok (s1, bs) =>
          let u := { tokOfBytes bs with tag := c.tag }
          c.done s1 (c.i.onSt c.n fun x => { x with spill := Tab.set x.spill [] d rest }) (both { u with tag := c.outTag u.tag u.v })

end Sys2Proof.Machine
end

