-- ==== Sys2Proof/Machine/Rete.lean ====
section
/-! DEFINITION. Match nodes: ALPHA, MEMB, JOINB, NEGJ, SCORE, TERM (spec 14_rules R270 to R277). -/
namespace Sys2Proof.Machine

/-! ### Match tokens (R270) -/

/-- Kind, number of WMEs, and wids of a match token. -/
def mKind (v : W) : Nat := fld v 63 62
def mN (v : W) : Nat := fld v 61 60
def mWid (v : W) (k : Nat) : Nat := bits v.toNat (20 * k + 19) (20 * k)
def mWids (v : W) : List Nat := (upto 0 (mN v)).map (mWid v)

/-- The plus match of a minus match. -/
def plusOf (v : W) : W := v &&& ~~~(3#64 <<< 62)

/-- BASIN_FULL's value (R287): a reason and a node index. -/
def basinVal (reason node : Nat) : W := w64 (node * 2 ^ 32 + reason)

/-- A node ends its invocation with BASIN_FULL (R270, R273, R274). -/
def basinEnd (c : Ctx) (reason : Nat) : Option State := c.fails (failInv c.s c.iid c.nd.place cBASIN (basinVal reason c.n))

/-! ### The Mere as nodes read it (R268, R271) -/

/-- A failed read of a match node ends its invocation, with the record of its kind (log 20). -/
def mereFail (c : Ctx) : ReadErr → State
  | .poison _ => poisonEnd c.s c
  | e => failInv c.s c.iid c.nd.place e.report.1 e.report.2

/-- Read a WME record: the access is one of memory (R271), and the match sees the record as the Basin wrote it, whatever a program has
stored there (R268). -/
def wme (s : State) (i : Inv) (net : Net) (w : Nat) : Except ReadErr (State × List Byte) :=
  match readVa s i.who (net.slotVa w) 64 with
  | .error e => .error e
  | .ok (s1, bs) => .ok (s1, match Tab.look net.wm w with
    | some (_, _, own) => own
    | none => bs)

/-- An attribute of a record, 12 for CLASS; its timetag. -/
def attrOf (bs : List Byte) (j : Nat) : Nat := if j = 12 then leAt bs 0 2 else leAt bs (16 + 4 * j) 4
def ttOf (bs : List Byte) : Nat := leAt bs 8 6

/-- An attribute of a slot. -/
def attrAt (s : State) (i : Inv) (net : Net) (w j : Nat) : Except ReadErr (State × Nat) := do
  let (s1, bs) ← wme s i net w
  .ok (s1, attrOf bs j)

/-- The timetags of the WMEs of a match. -/
def ttsOf (i : Inv) (net : Net) : List Nat → State → Except ReadErr (State × List Nat)
  | [], s => .ok (s, [])
  | w :: ws, s => do
    let (s1, bs) ← wme s i net w
    let (s2, ts) ← ttsOf i net ws s1
    .ok (s2, ttOf bs :: ts)

/-- A match node of a network, on a token that is not reserved: a failed read ends the invocation. -/
def matchFire (s : State) (f : Ctx → Net → Except ReadErr (Option State)) : Out :=
  fire s fun c =>
    match c.s.net c.iid with
    | none => none
    | some net =>
      match f c net with
      | .ok r => r
      | .error e => c.fails (mereFail c e)

/-- Does a field hold a reserved kind (R270)? -/
def reservedIn (c : Ctx) (fs : List Nat) : Bool := fs.any fun f => c.has f && decide (mKind (c.val f) = 3)

/-! ### ALPHA (R272) -/

/-- The test of ALPHA: type 0 I32, 1 N32, 2 F32; a NaN fails every condition but `.ne`. -/
def alphaTest (ty cond x k : Nat) : Bool :=
  if ty = 2 then (fltCmp 8 0 cond (w64 x) (w64 k)).1
  else ordCond cond (decide (valOf (if ty = 0 then 2 else 6) x < valOf (if ty = 0 then 2 else 6) k)) (decide (x = k))

/-- ALPHA (R272). -/
def execAlpha (w : NW) (s : State) : Out :=
  matchFire s fun c net =>
    if !c.has 0 then .ok none
    else if reservedIn c [0] then .ok (basinEnd c 5)
    else
      let t := passTok c 0 [0]
      let t := { t with flg := { t.flg with scl := false } }
      if mKind t.v = 0 then do
        let (s1, x) ← attrAt c.s c.i net (mWid t.v (mN t.v - 1)) (bits w.lit.toNat 3 0)
        let hit := alphaTest (bits w.fn.toNat 4 3) (bits w.fn.toNat 2 0) x c.st.const
        .ok (c.done s1 (c.i.clearFields c.n c.tag [0]) [only (if hit then 0 else 1) t])
      else .ok (c.pass [0] (both t))

/-! ### Several tokens for one input (R271) -/

/-- Send the outputs of one input, one for each firing; the input clears with the last, which carries its end flags. `f` is the field
that the input stands in, kept in `st` while outputs wait. -/
def sendOuts (c : Ctx) (s : State) (i : Inv) (f : Nat) (outs : List (W × Nat)) : Option State :=
  let flg := c.flg f
  match outs with
  | [] =>
    c.done s (i.clearFields c.n c.tag [f]) (if flg.ends then both ⟨0, c.tag, resFlg false [flg], 0⟩ else [])
  | (v, q) :: rest =>
    if rest = [] then c.done s (i.clearFields c.n c.tag [f]) (both ⟨v, c.tag, resFlg false [flg], q⟩)
    else
      c.done s (i.onSt c.n fun x => { x with st := f, outs := rest.map fun e => (f, ⟨e.1, c.tag, .zero, e.2⟩) })
        (both ⟨v, c.tag, .zero, q⟩)

/-- The next of the outputs in progress. -/
def contOuts (c : Ctx) : Option State :=
  let i := c.i.onSt c.n fun x => { x with outs := [] }
  sendOuts c c.s i c.st.st (c.st.outs.map fun e => (e.2.v, e.2.seq))

/-! ### MEMB (R273) -/

/-- Do the first n wids of an entry equal those of a minus match? -/
def firstWids (v m : W) : Bool := decide (mWids v = (mWids m).take (mN v))

/-- Delete entries and send a minus for each, then what follows. -/
def membDelete (c : Ctx) (p : Beta → Bool) (after : List (W × Nat)) : Option State :=
  let gone := c.st.beta.filter p
  sendOuts c c.s (c.i.onSt c.n fun x => { x with beta := x.beta.filter fun b => !p b }) 0
    (gone.map (fun b => (minusOf b.m, 0)) ++ after)

/-- MEMB (R273): nothing happens, deletions included, while its first output has no space. -/
def execMemb (w : NW) (s : State) : Out :=
  matchFire s fun c net =>
    if c.st.outs ≠ [] then .ok (contOuts c)
    else if !c.has 0 then .ok none
    else
      let v := c.val 0
      match mKind v with
      | 0 =>
        if membCap w.lit.toNat ≤ c.st.beta.length then .ok (basinEnd c 3)
        else do
          let (s1, tts) ← ttsOf c.i net (mWids v) c.s
          let core := c.nd.place.core
          let q := Tab.getD s1.fab.seq core 0
          let s2 := { s1 with fab := { s1.fab with seq := Tab.put s1.fab.seq core ((q + 1) % 2 ^ 32) } }
          .ok (sendOuts c s2 (c.i.onSt c.n fun x => { x with beta := x.beta ++ [⟨v, tts, q, 0⟩] }) 0 [(v, q)])
      | 1 => .ok (membDelete c (fun b => firstWids v b.m) [])
      | 2 => .ok (membDelete c (fun b => decide (v.toNat % 2 ^ 48 ∈ b.tts)) [(v, 0)])
      | _ => .ok (basinEnd c 5)

/-! ### JOINB and NEGJ (R274) -/

/-- The entries of the MEMB that feeds a field, and its node. -/
def sideOf (c : Ctx) (f : Nat) : Nat × List Beta :=
  match feeder c.i.nodes c.n f with
  | some (p, _) => (p, (c.i.st p).beta)
  | none => (c.n, [])

/-- The key of a left match, of a right match (R271). -/
def leftKey (c : Ctx) (net : Net) (v : W) (s : State) : Except ReadErr (State × Nat) :=
  attrAt s c.i net (mWid v (bits c.lit 12 11)) (bits c.lit 10 7)
def rightKey (c : Ctx) (net : Net) (v : W) (s : State) : Except ReadErr (State × Nat) := attrAt s c.i net (mWid v 0) (bits c.lit 6 3)

/-- The entries whose key equals one. -/
def matching (key : W → State → Except ReadErr (State × Nat)) (k : Nat) : List Beta → State → Except ReadErr (State × List Beta)
  | [], s => .ok (s, [])
  | b :: bs, s => do
    let (s1, x) ← key b.m s
    let (s2, r) ← matching key k bs s1
    .ok (s2, if x = k then b :: r else r)

/-- Entries with a lower sequence, ascending. -/
def below (q : Nat) (bs : List Beta) : List Beta := bs.filter fun b => decide (b.seq < q)

/-- The field that a join takes next: L before R. -/
def joinField (c : Ctx) : Option Nat := if c.has 0 then some 0 else if c.has 1 then some 1 else none

/-- JOINB (R274): a result that would hold four wids ends the invocation; a probe that matches nothing has no result. -/
def execJoinb (_w : NW) (s : State) : Out :=
  matchFire s fun c net =>
    if c.st.outs ≠ [] then .ok (contOuts c) else
    match joinField c with
    | none => .ok none
    | some f =>
      let t := c.tok f
      match mKind t.v, f with
      | 0, 0 => do
        let (s1, k) ← leftKey c net t.v c.s
        let (s2, bs) ← matching (rightKey c net) k (below t.seq (sideOf c 1).2) s1
        if mN t.v = 3 ∧ bs ≠ [] then .ok (basinEnd c 4)
        else .ok (sendOuts c s2 c.i 0 (bs.map fun b => (plusTok (mWids t.v ++ [mWid b.m 0]), 0)))
      | 0, _ => do
        let (s1, k) ← rightKey c net t.v c.s
        let (s2, bs) ← matching (leftKey c net) k (below t.seq (sideOf c 0).2) s1
        if bs.any (fun b => decide (mN b.m = 3)) then .ok (basinEnd c 4)
        else .ok (sendOuts c s2 c.i 1 (bs.map fun b => (plusTok (mWids b.m ++ [mWid t.v 0]), 0)))
      | 1, 0 => .ok (sendOuts c c.s c.i 0 [(t.v, 0)])
      | 1, _ => .ok (sendOuts c c.s c.i f [])
      | 2, _ => .ok (sendOuts c c.s c.i f [(t.v, 0)])
      | _, _ => .ok (basinEnd c 5)

/-- Change the counts of the left entries named by their sequences. -/
def recount (c : Ctx) (f : Nat → Nat) (seqs : List Nat) : Inv :=
  c.i.onSt (sideOf c 0).1 fun x => { x with beta := x.beta.map fun b => if b.seq ∈ seqs then { b with count := f b.count } else b }

/-- NEGJ (R274). -/
def execNegj (_w : NW) (s : State) : Out :=
  matchFire s fun c net =>
    if c.st.outs ≠ [] then .ok (contOuts c) else
    match joinField c with
    | none => .ok none
    | some f =>
      let t := c.tok f
      match mKind t.v, f with
      | 0, 0 => do
        let (s1, k) ← leftKey c net t.v c.s
        let (s2, bs) ← matching (rightKey c net) k (below t.seq (sideOf c 1).2) s1
        if 65535 < bs.length then .ok (basinEnd c 3)
        else .ok (sendOuts c s2 (recount c (fun _ => bs.length) [t.seq]) 0 (if bs = [] then [(t.v, 0)] else []))
      | 0, _ => do
        let (s1, k) ← rightKey c net t.v c.s
        let (s2, bs) ← matching (leftKey c net) k (below t.seq (sideOf c 0).2) s1
        if bs.any (fun b => decide (65535 ≤ b.count)) then .ok (basinEnd c 3)
        else
          .ok (sendOuts c s2 (recount c (fun n => n + 1) (bs.map Beta.seq)) 1
            ((bs.filter fun b => decide (b.count = 0)).map fun b => (minusOf b.m, 0)))
      | 1, 1 => do
        let (s1, k) ← rightKey c net t.v c.s
        let (s2, bs) ← matching (leftKey c net) k (sideOf c 0).2 s1
        .ok (sendOuts c s2 (recount c (fun n => n - 1) (bs.map Beta.seq)) 1
          ((bs.filter fun b => decide (b.count = 1)).map fun b => (b.m, 0)))
      | 1, _ => .ok (sendOuts c c.s c.i f [(t.v, 0)])
      | 2, _ => .ok (sendOuts c c.s c.i f [(t.v, 0)])
      | _, _ => .ok (basinEnd c 5)

/-! ### SCORE (R263, R275) -/

/-- The two words of a score-table entry: V, PEND, KEY; SCORE, GEN. -/
def scoreWord (v pend : Bool) (key : Nat) : Nat := b2n v * 2 ^ 63 + b2n pend * 2 ^ 62 + key
def scoreVa (net : Net) (idx : Nat) : Nat := net.stab.toNat + 16 * idx

/-- Does an entry answer for a key under a generation? -/
def scoreHit (bs : List Byte) (key gen : Nat) : Bool :=
  bit (leAt bs 0 8) 63 && decide (leAt bs 0 8 % 2 ^ 56 = key) && decide (leAt bs 12 4 = gen)

/-- Write an entry of the score table, or the failure of its address. -/
def scorePut (s : State) (c : Ctx) (net : Net) (idx : Nat) (bs : List Byte) : Except ReadErr State :=
  match writeVa s c.i.who none (scoreVa net idx) bs with
  | .ok s1 => .ok s1
  | .error (k, a) => .error (.write k a)

/-- The inputs of a scorer (R275). -/
def scoreF (x y : Nat) : Nat := x % 2 ^ 24 * 2 ^ 24 + y % 2 ^ 24

/-- A lookup on L (R275): a hit answers; a pending entry is waited for; a miss marks the entry and asks the scorer. -/
def scoreLook (c : Ctx) (net : Net) (t : Tok) : Except ReadErr (Option State) := do
  let (s1, x) ← attrAt c.s c.i net (mWid t.v 0) (bits c.lit 5 2)
  let (s2, y) ← attrAt s1 c.i net (mWid t.v (bits c.lit 11 10)) (bits c.lit 9 6)
  let F := scoreF x y
  let sc := Tab.getD net.scorers (bits c.lit 1 0) ⟨0, [], 0, 0⟩
  let key := (hash64 (w64 F) (w64 sc.gen)).toNat % 2 ^ 56
  let idx := key % net.scap
  let (s3, bs) ← readVa s2 c.i.who (scoreVa net idx) 16
  let out := fun (w : Nat) (v : Nat) => [only w ⟨w64 v, t.tag, resFlg false [t.flg], 0⟩]
  let i1 := c.i.clearFields c.n c.tag [0]
  if scoreHit bs key sc.gen then .ok (c.done s3 i1 (out 1 (leAt bs 8 4)))
  else if bit (leAt bs 0 8) 62 then .ok none
  else if !canSend c.s c.i c.n c.nd c.tag (out 0 0) then .ok none
  else
    let free := (Config.freeValue s3.fresh).toNat
    let s4 ← scorePut { s3 with fresh := s3.fresh + 1 } c net idx
      (toBytes 8 (scoreWord false true key) ++ toBytes 4 free ++ toBytes 4 sc.gen)
    .ok (c.done s4 (i1.onSt c.n fun n => { n with score := Tab.put n.score c.tag idx }) (out 0 (sc.handle * 2 ^ 52 + F)))

/-- SCORE on L (R275). -/
def execScore (_w : NW) (s : State) : Out :=
  matchFire s fun c net =>
    if !c.has 0 || (Tab.look c.st.score c.tag).isSome then .ok none
    else
      let t := c.tok 0
      if mKind t.v = 3 then .ok (basinEnd c 5)
      else if mKind t.v = 0 then scoreLook c net t
      else .ok (c.pass [0] [only 1 ⟨0, t.tag, resFlg false [t.flg], 0⟩])

/-- SCORE_REPLY (R275): the scorer's result on R fills the pending entry and goes to T2. -/
def execScoreReply (iid node tag : Nat) (s : State) : Out :=
  matchFire { s with site := (iid, node, tag) } fun c net =>
    if c.nd.op ≠ 0xb8 then .ok none else
    match Tab.look c.st.score c.tag with
    | none => .ok none
    | some idx =>
      if !c.has 1 then .ok none
      else do
        let v := fld (c.val 1) 31 0
        let out := [only 1 ⟨w64 v, c.tag, resFlg false [c.flg 1], 0⟩]
        if !canSend c.s c.i c.n c.nd c.tag out then .ok none else
        let (s1, bs) ← readVa c.s c.i.who (scoreVa net idx) 16
        let s2 ← scorePut s1 c net idx (toBytes 8 (scoreWord true false (leAt bs 0 8 % 2 ^ 56)) ++ toBytes 4 v)
        .ok (c.done s2 ((c.i.clearFields c.n c.tag [1]).onSt c.n fun n => { n with score := Tab.del n.score c.tag }) out)

/-! ### TERM (R276, R277) -/

/-- The lowest free entry of the home die's Basin, or of the next dies' in turn. -/
def freeBasin (s : State) (home : Nat) : Option Nat :=
  (((upto 0 4).map fun k => (home + k) % 4).findSome? fun d =>
    let used := (s.fab.basin.filter fun e => decide (e.1 / 65536 = d)).map fun e => (e.1 % 65536, ())
    let g := lowestGap 0 used
    if g < 65536 then some (d * 65536 + g) else none)

/-- Entries of a network that pass a test. -/
def basinOf (s : State) (iid : Nat) (p : Basin → Bool) : List Nat :=
  (s.fab.basin.filter fun e => decide (e.2.net = iid) && p e.2).map Prod.fst

/-- TERM stalls for space: one record for each stall (R276). -/
def termFull (c : Ctx) (net : Net) : Option State :=
  if c.n ∈ net.full then none
  else some ((recElem c.s c.i c.nd.place cBASIN (basinVal 2 c.n)).onNet c.iid fun n => { n with full := n.full ++ [c.n] })

/-- TERM on a plus match (R276). -/
def termPlus (c : Ctx) (net : Net) (fs : List Nat) : Except ReadErr (Option State) :=
  let v := c.val 0
  let rule := net.rules.getD (c.lit % 4096) ⟨0, 0, 0⟩
  if basinOf c.s c.iid (fun b => decide (b.rule = rule.rule) && decide (b.m = v)) ≠ [] then .ok (c.pass fs [])
  else
    match freeBasin c.s c.i.region.die with
    | none => .ok (termFull c net)
    | some e => do
      let (s1, tts) ← ttsOf c.i net (mWids v) c.s
      let b : Basin := ⟨rule.rule, rule.sal, if bit c.lit 12 then fld (c.val 1) 31 0 else 0, .ready, mN v, c.iid, v, tts, 0⟩
      let s2 := (s1.putBasin (Tab.put s1.fab.basin e b)).onNet c.iid fun n => { n with full := n.full.filter fun k => decide (k ≠ c.n) }
      .ok (c.done s2 (c.i.clearFields c.n c.tag fs) [])

/-- TERM on a minus match or a scrub: entries go, and with them their firings (R276, R284). -/
def termRemove (c : Ctx) (fs : List Nat) (p : Basin → Bool) : Option State :=
  let s1 := (basinOf c.s c.iid p).foldl removeEntry c.s
  c.done s1 (c.i.clearFields c.n c.tag fs) []

/-- TERM (R276). -/
def execTerm (w : NW) (s : State) : Out :=
  matchFire s fun c net =>
    let fs := if bit w.lit.toNat 12 then [0, 1] else [0]
    if !fs.all c.has then .ok none
    else
      let v := c.val 0
      match mKind v with
      | 0 => termPlus c net fs
      | 1 => .ok (termRemove c fs fun b => decide (b.rule = (net.rules.getD (w.lit.toNat % 4096) ⟨0, 0, 0⟩).rule) && decide (b.m = plusOf v))
      | 2 => .ok (termRemove c fs fun b => decide (v.toNat % 2 ^ 48 ∈ b.tts))
      | _ => .ok (basinEnd c 5)

end Sys2Proof.Machine
end

