-- ==== Sys2Proof/Machine/Fabric.lean ====
section
/-! DEFINITION. Tokens between firings: acceptance, arrival, credits, orphans; banks; walks (spec 02_machine R36 to R39, 04_registers R80,
06_numbers R120, 08_memories R144, R154, 11_queues R208, 12_nodes R244, R245). -/
namespace Sys2Proof.Machine

/-! ### The fields that nodes use -/

/-- The fields that a node uses, by opcode (R224 to R234, R271). -/
def usesOf (nd : Node) : List Nat :=
  let lit := nd.w.lit.toNat
  match nd.op with
  | 0x80 | 0x82 | 0x83 => [0, 2]
  | 0x81 => [0, 1, 2]
  | 0x84 => if lit = 0 then [0, 1] else [0]
  | 0x87 => if nd.w.fn = 1 then [0] else []
  | 0x89 => []
  | 0x8c => if bit lit 0 then [0] else [0, 1]
  | 0x8f | 0x92 | 0xb4 | 0xb5 | 0xb8 => [0, 1]
  | 0x90 => [0, 1, 2]
  | 0x99 => [0, 1, 2]
  | 0xb7 => if bit lit 12 then [0, 1] else [0]
  | op => if op < 0x80 then arithFields op else [0]

/-- The fields that one firing pairs (R245); none for a node whose firings take one field. -/
def joinsOf (nd : Node) : List Nat :=
  match nd.op with
  | 0x81 | 0x8f | 0xb4 | 0xb5 | 0xb8 => []
  | 0x99 => [0, 2]
  | _ => if (usesOf nd).length < 2 then [] else usesOf nd

/-- The used fields that a producer of the image feeds; a channel that a thread writes is fed by none. -/
def Inv.fed (i : Inv) (n : Nat) (nd : Node) : List Nat := (usesOf nd).filter fun f => (feeder i.nodes n f).isSome

/-- A source (R244, R334): GEN in either form, SRC, AGEN, a channel written by the thread. -/
def isSource (i : Inv) (n : Nat) (nd : Node) : Bool :=
  decide (nd.op = 0x87) || decide (nd.op = 0x89) || decide (nd.op = 0x8a) ||
  (chanWritten nd && decide (i.fed n nd = []))

/-! ### Orphans (R245) -/

/-- Is the token on a field of a slot an orphan, with FRS standing on some fields? -/
def orphanAt (nd : Node) (x : Slot) (frs : List Nat) (g : Nat) : Bool :=
  if nd.op = 0x81 then
    if g < 2 then decide (2 ∈ frs) && !x.hasP
    else
      let f := if bit x.p.toNat 0 then 0 else 1
      decide (f ∈ frs) && !x.has f
  else decide (g ∈ joinsOf nd) && (joinsOf nd).any fun f => decide (f ≠ g) && decide (f ∈ frs) && !x.has f

/-- One token is an orphan: spoil queue, ORPHAN record; its slot goes back. -/
def orphan (s : State) (iid n g : Nat) (t : Tok) : State :=
  match s.inv iid with
  | none => s
  | some i =>
    match Tab.look i.nodes n with
    | none => s
    | some nd =>
      let s1 := spoil s iid t 1 n g nd.place.src
      let s2 := recElem s1 i nd.place cORPHAN (w64 (t.tag + g * 65536))
      s2.onInv iid fun i => i.freeField n g

/-- The present tokens of a node: tag and field. -/
def Inv.present (i : Inv) (n : Nat) : List (Nat × Nat) :=
  (i.frames.filter fun e => decide (e.1 / 65536 = n)).flatMap fun e =>
    ([0, 1, 2].filter fun f => e.2.has f).map fun f => (e.1 % 65536, f)

/-- Take a present token out as an orphan. -/
def orphanField (n : Nat) (iid : Nat) (s : State) (e : Nat × Nat) : State :=
  match s.inv iid with
  | none => s
  | some i =>
    let x := i.slot n e.1
    orphan (s.putInv iid (i.putSlot n e.1 (x.clear e.2))) iid n e.2 (x.tok e.2 e.1)

/-- FRS stands on a field: old tokens that it leaves without a partner are orphans. -/
def frsArrive (s : State) (iid n f : Nat) : State :=
  match s.inv iid with
  | none => s
  | some i =>
    match Tab.look i.nodes n with
    | none => s
    | some nd =>
      let i1 := (i.onCt n fun c => { c with frs := c.frs ++ [f] }).activity s
      let gone := (i1.present n).filter fun e => orphanAt nd (i1.slot n e.1) (i1.ct n).frs e.2
      gone.foldl (orphanField n iid) (s.putInv iid i1)

/-! ### Arrival (R36, R120) -/

/-- Does a token's SCL differ from what its field declares? A channel keeps every flag, and declares none (R207; log 29). -/
def sclBad (nd : Node) (f : Nat) (t : Tok) : Bool :=
  decide (nd.op ≠ 0x96) && ((decide (f = 0) && (t.flg.scl ^^ decide (nd.w.sl = 1))) || (decide (f = 1) && (t.flg.scl ^^ decide (nd.w.sr = 1))))

/-- Has a token room where it goes: its element is not blocked, its field is free (R63)? A marker takes no field (R335). -/
def fieldFree (i : Inv) (l : Link) : Bool :=
  !(i.ct l.dst).blocked && (l.tok.flg.mrk || (i.chanAt l.dst).isSome || !(i.slot l.dst l.tok.tag).has l.field)

/-- May a token arrive: a saved node takes markers only (R335). -/
def canArrive (i : Inv) (l : Link) : Bool := (!(i.ct l.dst).saved || l.tok.flg.mrk) && fieldFree i l

/-- May it arrive now? In the cycle in which its node saves it still comes to stand in its field (R382). -/
def arrivesNow (s : State) (iid : Nat) (i : Inv) (l : Link) : Bool :=
  canArrive i l || (decide (.saving iid l.dst ∈ s.shot) && fieldFree i l)

/-- Is a link token the first of its link? -/
def firstLink (i : Inv) (k : Nat) (l : Link) : Bool :=
  (i.links.take k).all fun e => !(decide (e.node = l.node) && decide (e.which = l.which))

/-- The pending bit of a target. -/
def TBuf.pending (b : TBuf) (w : Nat) : Bool := if w = 0 then b.pt1 else b.pt2

/-- The oldest entry of its producer that is pending to a target (R207). -/
def firstEntry (i : Inv) (k w : Nat) (b : TBuf) : Bool := (i.tbuf.take k).all fun e => !(decide (e.node = b.node) && e.pending w)

/-- The link of a buffered token to one target. -/
def linkOf (i : Inv) (b : TBuf) (w : Nat) : Option Link :=
  (Tab.look i.nodes b.node).bind fun nd => (nd.targets.find? fun t => decide (t.1 = w)).map fun t => ⟨b.tok, b.node, w, t.2.1, t.2.2⟩

/-- Do two nodes of an invocation share a C-cell? -/
def sameCell (i : Inv) (a b : Nat) : Bool :=
  match Tab.look i.nodes a, Tab.look i.nodes b with
  | some x, some y => decide (x.place.core = y.place.core) && decide (x.place.elem = y.place.elem) && decide (x.place.elem < 4)
  | _, _ => false

/-- The tokens that may arrive in this cycle: the first of each link, and the first entries for nodes of the same cell (R39, R80). -/
def Inv.arriving (i : Inv) : List Link :=
  ((((upto 0 i.links.length).zip i.links).filter fun e => firstLink i e.1 e.2).map Prod.snd ++
    ((upto 0 i.tbuf.length).zip i.tbuf).flatMap fun e =>
      [0, 1].filterMap fun w => if e.2.pending w && firstEntry i e.1 w e.2 then (linkOf i e.2 w).filter fun l => sameCell i l.node l.dst else none).filter
    (canArrive i)

/-- Mismatching tokens that arrive at one node in one cycle give a record each, L first, and the invocation ends (R120). -/
def scaleEnd (s : State) (iid : Nat) (i : Inv) (nd : Node) (l : Link) : State :=
  let more := i.arriving.filter fun m =>
    decide (m.dst = l.dst) && decide (m.field ≠ l.field) && !m.tok.flg.mrk && !m.tok.flg.frs && sclBad nd m.field m.tok
  let all := sortBy (fun a b => decide (a.field < b.field)) (l :: more.take 1)
  endInv (all.foldl (fun s l => recElem s i nd.place cSCALE (w64 (b2n l.tok.flg.scl * 2 ^ 17 + l.field * 2 ^ 16 + l.tok.tag))) s) iid

/-- A token arrives at its field, at a channel's ring; a marker and an FRS token take no firing. The slot of a field that its node has saved
goes back (R382). -/
def arriveTok (s : State) (iid : Nat) (l : Link) : State :=
  match s.inv iid with
  | none => s
  | some i =>
    match Tab.look i.nodes l.dst with
    | none => s
    | some nd =>
      let t := l.tok
      if t.flg.mrk then s.putInv iid (i.onCt l.dst fun c => { c with marks := c.marks ++ [l.field] })
      else if !t.flg.frs && sclBad nd l.field t then
        scaleEnd s iid i nd l
      else if nd.op = 0x96 then
        markQueued (s.putInv iid ((i.onSt l.dst fun x => { x with line := x.line ++ [t] }).activity s)) iid l.dst 0 (i.st l.dst).line
      else if t.flg.frs then frsArrive s iid l.dst l.field
      else
        let x := (i.slot l.dst t.tag).set l.field t
        if orphanAt nd x (i.ct l.dst).frs l.field then orphan s iid l.dst l.field t
        else
          let i1 := i.putSlot l.dst t.tag x
          s.putInv iid (if (i.ct l.dst).saved then i1.freeField l.dst l.field else i1)

/-- TOKEN_ARRIVAL (R36). -/
def execTokenArrival (iid k : Nat) (s : State) : Out :=
  match s.inv iid with
  | none => .next s
  | some i =>
    match i.links[k]? with
    | none => .next s
    | some l =>
      if i.phase = .out ∨ arrivesNow s iid i l = false ∨ firstLink i k l = false then .next s
      else .next (arriveTok (s.putInv iid { i with links := dropAt i.links k }) iid l)

/-! ### Acceptance (R80) -/

def TBuf.accepted (b : TBuf) (w : Nat) : TBuf := if w = 0 then { b with pt1 := false } else { b with pt2 := false }

/-- An entry leaves once no target is pending; it frees in the next cycle (R39). -/
def Inv.acceptAt (i : Inv) (k w : Nat) (b : TBuf) : Inv :=
  let b1 := b.accepted w
  { i with tbuf := if b1.pt1 || b1.pt2 then setAt i.tbuf k b1 else dropAt i.tbuf k }
def markFreed (s : State) (i : Inv) (w : Nat) (b : TBuf) : State :=
  if (b.accepted w).pt1 || (b.accepted w).pt2 then s else
  match Tab.look i.nodes b.node with
  | some nd => if nd.place.elem < 4 then s.mark (.freed nd.place.core nd.place.elem) else s
  | none => s

/-- TOKEN_ACCEPT (R80): the first hop takes the token: its field in the same cell, else its route. -/
def execTokenAccept (iid k : Nat) (second : Bool) (s : State) : Out :=
  let w := b2n second
  match s.inv iid with
  | none => .next s
  | some i =>
    match i.tbuf[k]? with
    | none => .next s
    | some b =>
      if i.phase = .out ∨ b.pending w = false ∨ firstEntry i k w b = false then .next s else
      match linkOf i b w with
      | none => .next s
      | some l =>
        let i1 := i.acceptAt k w b
        let s1 := markFreed s i w b
        if sameCell i b.node l.dst && (!(i.ct l.dst).saved || arrivesNow s iid i l) then
          if arrivesNow s iid i l then .next (arriveTok (s1.putInv iid i1) iid l) else .next s
        else .next (s1.putInv iid { i1 with links := i1.links ++ [l] })

/-! ### Credits (R208) -/

/-- The node whose queue a free-slot count belongs to. -/
def creditDst (i : Inv) (key : Nat) : Nat :=
  let p := key / 65536
  if 40000 ≤ p then p / 2 - 20000
  else match (Tab.look i.nodes (p / 2)).bind fun nd => nd.targets.find? fun t => decide (t.1 = p % 2) with
    | some t => t.2.1
    | none => p / 2

/-- The FRS token of an invocation. -/
def frsTok (iid : Nat) : Tok := ⟨0, baseTag iid, ⟨false, false, false, false, true⟩, 0⟩

/-- The FRS token that a channel written by the thread is owed enters it, once there is a slot (R208, R244). -/
def Inv.payFrs (i : Inv) (iid n : Nat) : Inv :=
  match Tab.look i.nodes n with
  | none => i
  | some nd =>
    let key := usedKey (threadProducer n) 0 0
    if (i.ct n).owed && decide (0 < freeSlots i key (threadCap nd)) then
      ((i.onSt n fun x => { x with line := x.line ++ [frsTok iid] }).onCt n fun c => { c with owed := false }).take key
    else i

/-- CREDIT_RETURN (R208): a freed slot reaches its producer's counter; one at a node that a drain delta lists is withheld (R243). -/
def execCreditReturn (iid k : Nat) (s : State) : Out :=
  match s.inv iid with
  | none => .next s
  | some i =>
    match i.credits[k]? with
    | none => .next s
    | some key =>
      if (i.ct (creditDst i key)).hold then .next s
      else .next (s.putInv iid (({ i with credits := dropAt i.credits k }.give key).payFrs iid (creditDst i key)))

/-! ### Banks (R144) -/

/-- A bank, and its replacement. -/
def State.bank (s : State) (b : Nat) : Bank := Tab.getD s.mem.banks b .reset
def State.putBank (s : State) (b : Nat) (x : Bank) : State := { s with mem := { s.mem with banks := Tab.put s.mem.banks b x } }

/-- BANK_PASS (R144): a PASSING bank whose port queues are empty sends its token. -/
def execBankPass (b : Nat) (s : State) : Out :=
  let x := s.bank b
  if x.st = .passing ∧ x.port = 0 then .next (s.putBank b { x with st := .awaiting }) else .next s

/-- BANK_TOKEN_ARRIVAL (R144). -/
def execBankTokenArrival (b : Nat) (s : State) : Out :=
  let x := s.bank b
  if x.st = .awaiting then .next (s.putBank b { x with st := .held, holder := x.receiver }) else .next s

/-! ### Walks (R154, R155) -/

/-- PAGE_WALK (R154, R155): the walker of a slice's first miss is free again. Where the TLB no longer holds what the miss filled, its page is
walked now; a walk that fails fills nothing, and its requester reports the failure when it translates again. -/
def execPageWalk (slice : Nat) (s : State) : Out :=
  match Tab.getD s.mem.misses slice [] with
  | [] => .next s
  | m :: rest =>
    let s1 := { s with mem := { s.mem with misses := Tab.set s.mem.misses [] slice rest } }
    if (Tab.getD s.mem.tlb slice []).any fun e => e.covers m.ctxid m.va && (e.dirty || !m.write) then .next s1
    else
      let acc := if m.fetch then Acc.fetch else if m.write then Acc.write else Acc.read
      match walkOnce s1 ⟨slice / 32, m.ctxid, 0, m.prv, none⟩ acc m.va with
      | .ok (s2, _) => .next s2
      | .error _ => .next s1

end Sys2Proof.Machine
end

