-- ==== Sys2Proof/Machine/TileRec.lean ====
section
/-! DEFINITION. Tile-task records: their fields, what each instruction uses, the tiles they name (spec 15_tiles R292, R293, R297, R303,
R312). -/
namespace Sys2Proof.Machine

/-! ### The fields of a record (R292, R293) -/

def Msg.tw (m : Msg) : Nat := (m.opnd.getD 0 0).toNat
def Msg.ta (m : Msg) : W := m.opnd.getD 1 0
def Msg.tb (m : Msg) : W := m.opnd.getD 2 0
def Msg.tc (m : Msg) : W := m.opnd.getD 3 0
def Msg.aux (m : Msg) : Nat := (m.opnd.getD 4 0).toNat
def Msg.dep (m : Msg) : Nat := (m.opnd.getD 5 0).toNat
def Msg.top (m : Msg) : Nat := bits m.tw 63 56
def Msg.tfn (m : Msg) : Nat := bits m.tw 55 51
def Msg.trm (m : Msg) : Nat := bits m.tw 50 49
def Msg.tz (m : Msg) : Bool := bit m.tw 48
def Msg.tres (m : Msg) : Bool := bit m.tw 47
def Msg.popa (m : Msg) : Bool := bit m.tw 46
def Msg.popb (m : Msg) : Bool := bit m.tw 45
def Msg.ti (m : Msg) : Nat := bits m.tw 43 38 + 1
def Msg.tj (m : Msg) : Nat := bits m.tw 37 32 + 1
def Msg.tk (m : Msg) : Nat := bits m.tw 31 24 + 1
def Msg.arg (m : Msg) : Nat := bits m.tw 23 0

/-- The entry that a TREF names, whoever owns it. -/
def rawKey (t : W) : Nat := (trefCore t.toNat).getD 0 * 256 + t.toNat % 256

/-! ### What a record names (R297, R303, R312) -/

/-- What a tile instruction uses: A, B, C, J, K, Z, RM and its greatest FN; I is used by every row but RINGDEF. -/
structure TileUse where
  a : Bool
  b : Bool
  c : Bool
  j : Bool
  k : Bool
  z : Bool
  rm : Bool
  fn : Nat
  deriving DecidableEq, Repr

/-- The rows of R303. -/
def tileUse (top : Nat) : TileUse :=
  match top with
  | 0xa0 => ⟨true, true, true, true, true, true, false, 0⟩
  | 0xa1 => ⟨true, true, true, true, true, true, false, 0⟩
  | 0xa2 => ⟨true, false, true, false, true, false, false, 1⟩
  | 0xa3 => ⟨true, true, true, true, true, true, false, 0⟩
  | 0xa4 => ⟨false, false, true, true, false, false, false, 0⟩
  | 0xa5 => ⟨true, false, true, true, false, false, true, 0⟩
  | 0xa6 => ⟨true, false, true, true, false, false, true, 0⟩
  | 0xa7 => ⟨true, false, true, true, false, false, false, 3⟩
  | 0xa8 => ⟨true, false, true, true, false, false, true, 0⟩
  | 0xa9 => ⟨true, false, true, false, true, false, false, 0⟩
  | 0xaa => ⟨false, false, false, false, false, false, false, 2⟩
  | _ => ⟨true, false, true, true, false, false, true, 3⟩

/-- The use of a record's instruction. -/
def Msg.use (m : Msg) : TileUse := tileUse m.top
def Msg.isRingdef (m : Msg) : Bool := decide (m.top = 0xaa)

/-- The dependence words with V set: TREF and state (R292). -/
def depsOf (m : Msg) : List (W × Nat) :=
  ([bits m.dep 31 0, bits m.dep 63 32].filter fun d => bit d 31).map fun d => (w64 (bits d 25 0), bits d 30 29)

/-- The tiles that a record reads, each once; the tile it writes; whether that is a fresh write (R297). -/
def readsOf (m : Msg) : List Nat := ((if m.use.a then [rawKey m.ta] else []) ++ if m.use.b then [rawKey m.tb] else []).eraseDups
def writeKey (m : Msg) : Nat := rawKey m.tc
def freshWrite (m : Msg) : Bool := m.use.c && (!m.use.z || m.tz)

/-- The run of entries that a RINGDEF names (R312). -/
def ringRun (m : Msg) : List Nat :=
  match m.tfn with
  | 0 => upto (rawKey m.ta) (bits m.arg 7 0 + 1)
  | 1 => if bit m.arg 12 then [] else upto (rawKey m.ta) (bits m.arg 11 4 + 1)
  | _ => []

/-- Every tile that a record names. -/
def namesOf (m : Msg) : List Nat :=
  (if m.isRingdef then ringRun m else readsOf m ++ if m.use.c then [writeKey m] else []) ++ (depsOf m).map fun d => rawKey d.1

/-- Every tile that a record or run which has not retired names. -/
def unretired (s : State) : List Nat :=
  (s.eng.dots.flatMap fun e => namesOf e.2.msg) ++ s.eng.rings.flatMap fun e => (e.2.slots.filter fun x => !x.left).flatMap fun x => namesOf x.msg

end Sys2Proof.Machine
end

