-- ==== Sys2Proof/Machine/TileOps.lean ====
section
/-! DEFINITION. What a dot engine computes from a tile-task record: products, images, decomposition, element operations (spec
15_tiles R292 to R294, R303 to R311, 06_numbers R115, R116). -/
namespace Sys2Proof.Machine

/-- The descriptor of a tile: that of its entry's handle in the record's context (R294). -/
def recDesc (s : State) (m : Msg) (key : Nat) : Option Desc := (s.handle m.ctxid (s.tile key).handle).map fun h => h.desc

/-- A tile of a record as its instruction reads or writes it. -/
def recView (ds : Tab Desc) (s : State) (t : W) (rows cols : Nat) : Option View :=
  (Tab.look ds (rawKey t)).map fun d => viewOf s (rawKey t) d rows cols

/-! ### Results -/

/-- What a computation writes: bytes of TC by offset, flags, DONE where R308 states it, and whether DENSE_FALLBACK counts. -/
structure DotOut where
  bytes : List (Nat × Byte)
  flags : Nat
  done : Option Nat
  fallback : Bool
  deriving DecidableEq, Repr

/-- What an issued record comes to: a result, or a stop with a code and a VALUE (R300, R310). -/
inductive Comp where
  | out (o : DotOut)
  | stop (code : Nat) (v : W)
  deriving DecidableEq, Repr

/-- A stop at an unreadable scale byte (R300); the VALUE of a poisoned scale vector is not stated (log 2). -/
def scaleStop (s : State) : ReadErr → State × Comp
  | .poison _ => ({ s with fresh := s.fresh + 1 }, .stop cPOISON (Config.freeValue s.fresh))
  | e => (s, .stop e.report.1 e.report.2)

/-- The poisoned line of a tile's first bytes as a stop reports it (R300). -/
def tileBad (s : State) (key n : Nat) : Option W := (tilePoison s key n).map fun c => w64 (trefOf key + c * 2 ^ 32)

/-- The same for the lines that hold the rows of a view. -/
def viewBad (s : State) (v : View) : Option W := (v.poison s).map fun c => w64 (trefOf v.key + c * 2 ^ 32)

/-- The values of a tile, and what follows from them. -/
def withVals (v : View) (who : Who) (s : State) (k : State → List (List FV) → State × Comp) : State × Comp :=
  match viewBad s v with
  | some x => (s, .stop cPOISON x)
  | none =>
    match v.vals s who with
    | .error e => scaleStop s e
    | .ok (s1, rows) => k s1 rows

/-- A finite stand-in for an exact result that lies strictly between two numbers far finer than any format: one just above the lower, and no
multiple of any format's last place. -/
def XV.toFV : XV → FV
  | .nan => .nan false
  | .inf n => .inf n
  | .val n m e st =>
    let k := (e + 512).toNat + 1
    if st then .fin n (m * 2 ^ k + 1) (e - k) else .fin n m e

/-! ### Products (R304, R311) -/

/-- The accumulators that a product starts from: +0, or the F32 codes of C. -/
def accCodes (s : State) (v : View) (z : Bool) (i : Nat) : List Nat :=
  (upto 0 v.cols).map fun j => if z then 0 else ofBytes (tileBytes s v.key (i * v.pitch + 4 * j) 4)

/-- Every element of C from the blocks of its sum. -/
def productOut (s : State) (v : View) (z : Bool) (blocks : Nat → Nat → List (List (FV × FV))) : State × Comp :=
  match (if z then none else viewBad s v) with
  | some x => (s, .stop cPOISON x)
  | none =>
    let rs := (upto 0 v.rows).map fun i =>
      let accs := accCodes s v z i
      (upto 0 v.cols).map fun j => dotElem (accs.getD j 0) (blocks i j)
    let bytes := (upto 0 v.rows).flatMap fun i => atOff (i * v.pitch) ((rs.getD i []).flatMap fun r => toBytes 4 r.1)
    (s, .out ⟨bytes, orAll (rs.flatMap fun r => r.map Prod.snd), none, false⟩)

/-- TMMA (R304). -/
def compMma (ds : Tab Desc) (m : Msg) (s : State) : Option (State × Comp) := do
  let a ← recView ds s m.ta m.ti m.tk
  let b ← recView ds s m.tb m.tj m.tk
  let c ← recView ds s m.tc m.ti m.tj
  some (withVals a m.who s fun s1 xs => withVals b m.who s1 fun s2 ys =>
    productOut s2 c m.tz fun i j => rowBlocks m.tk (xs.getD i []) (ys.getD j []))

/-! ### Images (R309) -/

/-- The header of an image. -/
structure DecImage where
  form : Nat
  fmt : Nat
  pattern : Nat
  t : Nat
  nres : Nat
  rows : Nat
  cols : Nat
  scale : W
  deriving DecidableEq, Repr

/-- Read a header. -/
def imgHeader (s : State) (key : Nat) : DecImage :=
  let h := tileBytes s key 0 64
  ⟨leAt h 0 1, leAt h 1 1, leAt h 2 1, leAt h 3 1, leAt h 4 1, leAt h 8 1 + 1, leAt h 9 1 + 1, w64 (leAt h 16 8)⟩

/-- N and M of a pattern code. -/
def nmOf (p : Nat) : Nat × Nat := match p with | 1 => (1, 4) | 2 => (2, 4) | 3 => (2, 8) | 4 => (4, 8) | _ => (0, 1)

/-- Codes of one term block, the bits of an index, the bytes of the block. -/
def termQ (p : Nat) : Nat := 32 * (nmOf p).1 / (nmOf p).2
def termLg (p : Nat) : Nat := (nmOf p).2.log2
def termBytes (fmt p : Nat) : Nat := termQ p * (elemBits fmt + termLg p) / 8 + 1

/-- Where the residual list starts, and the bytes of an image. -/
def residAt (h : DecImage) : Nat := (64 + h.t * h.rows * (h.cols / 32) * termBytes h.fmt h.pattern + 7) / 8 * 8
def imgBytes (h : DecImage) : Nat := if h.form = 1 then 64 + h.rows * rowBytes h.fmt h.cols else residAt h + 8 * h.nres

/-- The entries of one term block: k and value. -/
def termEntries (h : DecImage) (b : Nat) (bs : List Byte) : List (Nat × FV) :=
  let n := ofBytes bs
  let q := termQ h.pattern
  let w := elemBits h.fmt
  let lg := termLg h.pattern
  let x := n >>> (8 * (termBytes h.fmt h.pattern - 1))
  (upto 0 q).map fun c =>
    (32 * b + c / (nmOf h.pattern).1 * (nmOf h.pattern).2 + (n >>> (q * w + c * lg)) % 2 ^ lg,
      blockVal h.fmt ((n >>> (w * c)) % 2 ^ w) x)

/-- The term entries of row i and block b of an image. -/
def termsAt (s : State) (key : Nat) (h : DecImage) (i b : Nat) : List (Nat × FV) :=
  (upto 0 h.t).flatMap fun t =>
    termEntries h b (tileBytes s key (64 + ((t * h.rows + i) * (h.cols / 32) + b) * termBytes h.fmt h.pattern) (termBytes h.fmt h.pattern))

/-- The residual entries of an image: row, k, value. -/
def residEntries (s : State) (key : Nat) (h : DecImage) : List (Nat × Nat × FV) :=
  (upto 0 h.nres).map fun n =>
    let w := leAt (tileBytes s key (residAt h + 8 * n) 8) 0 8
    (bits w 63 58, bits w 57 50, blockVal h.fmt (bits w 31 0) (bits w 47 40))

/-- The entries of an image that a sum takes, for row i and block b: terms, residual, or a dense image's elements. -/
def imgEntries (s : State) (key : Nat) (h : DecImage) (terms resid : Bool) (i b : Nat) : List (Nat × FV) :=
  if h.form = 1 then
    if terms then
      let n := min 32 (h.cols - 32 * b)
      let bytes := tileBytes s key (64 + i * rowBytes h.fmt h.cols + rowBytes h.fmt (32 * b)) (rowBytes h.fmt n)
      ((upto 0 n).zip (rowVals h.fmt n bytes)).map fun e => (32 * b + e.1, e.2)
    else []
  else
    (if terms then termsAt s key h i b else []) ++
    (if resid then (residEntries s key h).filterMap fun e => if e.1 = i ∧ e.2.1 / 32 = b then some e.2 else none else [])

/-- TMMS and TRESID (R311): which entries of the image a block sum takes. -/
def compImage (terms resid : Bool) (ds : Tab Desc) (m : Msg) (s : State) : Option (State × Comp) := do
  let key := rawKey m.ta
  let b ← recView ds s m.tb m.tj m.tk
  let c ← recView ds s m.tc m.ti m.tj
  let h := imgHeader s key
  some (match tileBad s key (imgBytes h) with
  | some x => (s, .stop cPOISON x)
  | none =>
    match scaleBytes s m.who h.scale (h.rows * h.cols) with
    | .error e => scaleStop s e
    | .ok (s1, sc) =>
      let vec := bit h.scale.toNat 63
      withVals b m.who s1 fun s2 ys =>
        let rows := (upto 0 m.ti).map fun i => (upto 0 ((m.tk + 31) / 32)).map fun blk =>
          (imgEntries s2 key h terms resid i blk).map fun (e : Nat × FV) => (e.1, scaled sc vec (i * h.cols + e.1) e.2)
        productOut s2 c m.tz fun i j =>
          (rows.getD i []).map fun es => es.map fun e => (e.2, (ys.getD j []).getD e.1 (.fin false 0 0)))

/-! ### Decomposition (R308, R310) -/

/-- A block of A: its element codes and its exponent or scale byte. -/
structure Blk where
  codes : List Nat
  x : Nat
  deriving DecidableEq, Repr

/-- A stored block. -/
def blkOf (fmt : Nat) (bs : List Byte) : Blk :=
  let n := ofBytes bs
  let w := elemBits fmt
  ⟨(upto 0 32).map fun k => (n >>> (w * k)) % 2 ^ w, n >>> (8 * (unitBytes fmt - 1))⟩

/-- The blocks of a dense tile, by row. -/
def denseBlks (s : State) (v : View) : List (List Blk) :=
  (upto 0 v.rows).map fun i => (upto 0 (v.cols / 32)).map fun b =>
    blkOf v.desc.fmt (tileBytes s v.key (i * v.pitch + b * unitBytes v.desc.fmt) (unitBytes v.desc.fmt))

/-- Where the bitmap and the codes of a packed tile start. -/
def packedAt (rows cols : Nat) : Nat × Nat :=
  let map := 8 + (rows * cols / 32 + 7) / 8 * 8
  (map, map + ((rows * cols + 7) / 8 + 7) / 8 * 8)

/-- The bytes that a packed tile occupies, or none where its LEN is wrong (R310). -/
def packedLen (s : State) (v : View) : Option Nat :=
  let len := leAt (tileBytes s v.key 0 4) 0 4
  let (map, codes) := packedAt v.rows v.cols
  let n := codes + (len * elemBits v.desc.fmt + 7) / 8
  if n ≤ (s.tile v.key).bytes ∧ popc (v.rows * v.cols) (ofBytes (tileBytes s v.key map ((v.rows * v.cols + 7) / 8))) = len then some n
  else none

/-- The codes of a packed tile, in element order: those whose bit is set, in turn, and 0 elsewhere. -/
def unpackCodes (map codes w : Nat) : Nat → Nat → Nat → List Nat
  | 0, _, _ => []
  | n + 1, e, q =>
    if map.testBit e then (codes >>> (w * q)) % 2 ^ w :: unpackCodes map codes w n (e + 1) (q + 1)
    else 0 :: unpackCodes map codes w n (e + 1) q

/-- The blocks of a packed tile's dense equivalent. -/
def packedBlks (s : State) (v : View) (len : Nat) : List (List Blk) :=
  let (map, at_) := packedAt v.rows v.cols
  let n := v.rows * v.cols
  let cs := unpackCodes (ofBytes (tileBytes s v.key map ((n + 7) / 8))) (ofBytes (tileBytes s v.key at_ (len - at_)))
    (elemBits v.desc.fmt) n 0 0
  (upto 0 v.rows).map fun i => (upto 0 (v.cols / 32)).map fun b =>
    let blk := i * (v.cols / 32) + b
    ⟨(cs.drop (32 * blk)).take 32, leAt (tileBytes s v.key (8 + blk) 1) 0 1⟩

/-- An element of A that is not zero: k, its code, its block's byte, its magnitude m × 2^e. -/
structure Elem where
  i : Nat
  k : Nat
  code : Nat
  x : Nat
  m : Nat
  e : Int
  deriving DecidableEq, Repr

/-- The value of an element under A's scale. -/
def blkVals (fmt cols : Nat) (sc : List Nat) (vec : Bool) (i b : Nat) (k : Blk) : List FV :=
  (upto 0 32).map fun c => scaled sc vec (i * cols + 32 * b + c) (blockVal fmt (k.codes.getD c 0) k.x)

/-- The nonzero elements of a row, in ascending k. -/
def rowElems (fmt cols : Nat) (sc : List Nat) (vec : Bool) (i : Nat) (row : List Blk) : List Elem :=
  (upto 0 row.length).flatMap fun b =>
    let k := row.getD b ⟨[], 0⟩
    ((upto 0 32).zip (blkVals fmt cols sc vec i b k)).filterMap fun e =>
      match e.2 with
      | .fin _ v ex => if v = 0 then none else some ⟨i, 32 * b + e.1, k.codes.getD e.1 0, k.x, v, ex⟩
      | _ => none

/-- Does A hold a NaN or an infinite element? -/
def hasSpecial (fmt cols : Nat) (sc : List Nat) (vec : Bool) (rows : List (List Blk)) : Bool :=
  (upto 0 rows.length).any fun i => (upto 0 (rows.getD i []).length).any fun b =>
    (blkVals fmt cols sc vec i b ((rows.getD i []).getD b ⟨[], 0⟩)).any fun v => match v with
      | .fin _ _ _ => false
      | _ => true

/-- A magnitude at a common exponent. -/
def Elem.mag (q : Int) (e : Elem) : Nat := e.m * 2 ^ (e.e - q).toNat

/-- Little-endian fields of w bits each, packed. -/
def packBits (w : Nat) (xs : List Nat) : Nat := xs.reverse.foldl (fun a x => a * 2 ^ w + x % 2 ^ w) 0

/-- One term block: the slots of its groups, the absent ones zero. -/
def termBlock (fmt p t b x : Nat) (groups : List (List Elem)) : List Byte :=
  let (n, mm) := nmOf p
  let slots := (upto 0 (32 / mm)).flatMap fun g => (upto 0 n).map fun sl =>
    match (groups.getD (b * (32 / mm) + g) [])[t * n + sl]? with
    | some e => (e.code, e.k % mm)
    | none => (0, 0)
  toBytes (termQ p * elemBits fmt / 8) (packBits (elemBits fmt) (slots.map Prod.fst)) ++
  toBytes (termQ p * termLg p / 8) (packBits (termLg p) (slots.map Prod.snd)) ++ toBytes 1 x

/-- The groups of M consecutive k of a row. -/
def groupsOf (mm cols : Nat) (es : List Elem) : List (List Elem) :=
  (upto 0 (cols / mm)).map fun g => es.filter fun e => decide (e.k / mm = g)

/-- The header of an image (R309). -/
def headBytes (form fmt p t nres ndrop rows cols : Nat) (scale : W) : List Byte :=
  toBytes 1 form ++ toBytes 1 fmt ++ toBytes 1 p ++ toBytes 1 t ++ toBytes 1 nres ++ toBytes 1 0 ++ toBytes 2 (min ndrop 65535) ++
  toBytes 1 (rows - 1) ++ toBytes 1 (cols - 1) ++ toBytes 6 0 ++ toBytes 8 scale.toNat ++ List.replicate 40 0

/-- DONE of TDECOMP (R308). -/
def decDone (t nres ndrop form : Nat) : Nat := t + nres % 256 * 2 ^ 8 + min ndrop 65535 * 2 ^ 16 + form * 2 ^ 32

/-- How many entries of a sorted residual list are dropped: those whose cumulative sum stays within D × 2^-16 × total. -/
def dropCount (d total q : Nat) (mag : Elem → Nat) : Nat → List Elem → Nat
  | _, [] => q
  | sum, e :: es => if (sum + mag e) * 65536 ≤ d * total then dropCount d total (q + 1) mag (sum + mag e) es else q

/-- The image of A, its DONE, whether DENSE_FALLBACK counts, and how many free values it takes: NRES of a dense fallback that keeps
more than 64 entries is not stated (log 2). -/
def decompose (d : Desc) (rows cols fresh : Nat) (blks : List (List Blk)) (sc : List Nat) : List Byte × Nat × Bool × Nat :=
  let vec := bit d.scale.toNat 63
  let dense := (blks.flatMap fun r => r.flatMap fun b => blockBytes d.fmt b.codes b.x)
  if hasSpecial d.fmt cols sc vec blks then
    (headBytes 1 d.fmt d.pattern 0 0 0 rows cols d.scale ++ dense, decDone 0 0 0 1, false, 0)
  else
    let (n, mm) := d.nm
    let es := (upto 0 rows).map fun i => rowElems d.fmt cols sc vec i (blks.getD i [])
    let gs := es.map (groupsOf mm cols)
    let most := (gs.flatMap fun r => r.map List.length).foldl max 0
    let t := min d.tmax ((most + n - 1) / n)
    let resid := gs.flatMap fun r => r.flatMap fun g => g.drop (t * n)
    let all := es.flatMap id
    let q := all.foldl (fun (q : Int) e => if e.e < q then e.e else q) 0
    let sorted := sortBy (fun a b => decide (a.mag q < b.mag q)) resid
    let total := all.foldl (fun a e => a + e.mag q) 0
    let nd := dropCount d.drop total 0 (fun e => e.mag q) 0 sorted
    let kept := sorted.drop nd
    if d.rcap < kept.length then
      let open_ := decide (64 < resid.length)
      let nres := if open_ then (Config.freeValue fresh).toNat % 256 else resid.length
      (headBytes 1 d.fmt d.pattern t nres 0 rows cols d.scale ++ dense, decDone t nres 0 1, true, b2n open_)
    else
      let terms := (upto 0 t).flatMap fun k => (upto 0 rows).flatMap fun i => (upto 0 (cols / 32)).flatMap fun b =>
        termBlock d.fmt d.pattern k b ((blks.getD i []).getD b ⟨[], 0⟩).x (gs.getD i [])
      let head := headBytes 0 d.fmt d.pattern t kept.length nd rows cols d.scale ++ terms
      let list := (sortBy (fun a b => decide (a.i * 256 + a.k < b.i * 256 + b.k)) kept).flatMap fun e =>
        toBytes 8 (e.i * 2 ^ 58 + e.k * 2 ^ 50 + e.x * 2 ^ 40 + e.code)
      (head ++ List.replicate ((8 - head.length % 8) % 8) 0 ++ list, decDone t kept.length nd 0, false, 0)

/-- A decomposition's result from its blocks. -/
def decompOut (m : Msg) (d : Desc) (blks : List (List Blk)) (s : State) : State × Comp :=
  match scaleBytes s m.who d.scale (m.ti * m.tk) with
  | .error e => scaleStop s e
  | .ok (s1, sc) =>
    let r := decompose d m.ti m.tk s1.fresh blks sc
    ({ s1 with fresh := s1.fresh + r.2.2.2 }, .out ⟨atOff 0 r.1, 0, some r.2.1, r.2.2.1⟩)

/-- TDECOMP.dense (R308). -/
def compDense (ds : Tab Desc) (m : Msg) (s : State) : Option (State × Comp) := do
  let a ← recView ds s m.ta m.ti m.tk
  some (match viewBad s a with
  | some x => (s, .stop cPOISON x)
  | none => decompOut m a.desc (denseBlks s a) s)

/-- TDECOMP.packed (R310): a wrong LEN stops it with SPARSE_LEN, whose VALUE is not stated (log 2). -/
def compPacked (ds : Tab Desc) (m : Msg) (s : State) : Option (State × Comp) := do
  let a ← recView ds s m.ta m.ti m.tk
  let n := (packedLen s a).getD (min (s.tile a.key).bytes (packedAt m.ti m.tk).2)
  some (match tileBad s a.key n with
  | some x => (s, .stop cPOISON x)
  | none =>
    match packedLen s a with
    | some len => decompOut m a.desc (packedBlks s a len) s
    | none => ({ s with fresh := s.fresh + 1 }, .stop cSPARSE (Config.freeValue s.fresh)))

/-! ### Element operations (R305 to R307) -/

/-- Rows encoded into TC. -/
def encodeOut (c : View) (rm : Nat) (rows : List (List FV)) (s : State) : State × Comp :=
  let o := c.encode rm s.fresh rows
  ({ s with fresh := o.fresh }, .out ⟨o.bytes, o.flags, none, false⟩)

/-- TZERO (R305): +0 in every element; every code and the exponent of a block 0; no flag. -/
def compZero (ds : Tab Desc) (m : Msg) (s : State) : Option (State × Comp) := do
  let c ← recView ds s m.tc m.ti m.tj
  if isBlock c.desc.fmt then
    let row := (upto 0 (m.tj / 32)).flatMap fun _ => blockBytes c.desc.fmt (List.replicate 32 0) 0
    some (s, .out ⟨(upto 0 m.ti).flatMap fun i => atOff (i * c.pitch) row, 0, none, false⟩)
  else
    some (encodeOut c 0 (List.replicate m.ti (List.replicate m.tj (.fin false 0 0))) s)

/-- One element of TACT (R305): a NaN stays one, signalling as it was (R118). -/
def actOf (fn : Nat) (x : FV) : FV :=
  if x.isNan then x else
  match fn with
  | 0 => match x with
    | .nan g => .nan g
    | .inf n => if n then .fin false 0 0 else .inf false
    | .fin n v e => if n || decide (v = 0) then .fin false 0 0 else .fin false v e
  | 1 => (tanhOf x).1.toFV
  | 2 => (sigmOf x).1.toFV
  | _ => (exp2Of x).1.toFV

/-- An operation on each element of A (R305). -/
def compMap (f : FV → FV) (ds : Tab Desc) (m : Msg) (s : State) : Option (State × Comp) := do
  let a ← recView ds s m.ta m.ti m.tj
  let c ← recView ds s m.tc m.ti m.tj
  some (withVals a m.who s fun s1 rows => encodeOut c m.trm (rows.map fun r => r.map f) s1)

/-- TTRANS (R305). -/
def compTrans (ds : Tab Desc) (m : Msg) (s : State) : Option (State × Comp) := do
  let a ← recView ds s m.ta m.ti m.tj
  let c ← recView ds s m.tc m.tj m.ti
  some (withVals a m.who s fun s1 rows =>
    encodeOut c m.trm ((upto 0 m.tj).map fun j => rows.map fun r => r.getD j (.fin false 0 0)) s1)

/-- One reduction (R306): the F32 code and the flags of every step. -/
def redSum (xs : List FV) : Nat × Nat :=
  xs.foldl (fun (a : Nat × Nat) x =>
    let r := accStep a.1 x
    (r.1, a.2 ||| r.2 ||| flagIf x.isSig fNV)) (0, 0)
def redMax (xs : List FV) : Nat × Nat :=
  let rs := xs.map fun x => round fF32 0 x.exact
  let fl := orAll (rs.map Rounded.flags) ||| flagIf (xs.any FV.isSig) fNV
  ((rs.drop 1).foldl (fun (a : Nat) r => (fltMinMax true 8 0 (w64 a) (w64 r.code) 0).1.toNat) ((rs.map Rounded.code).headD 0), fl)

/-- The shape of TRED's C. -/
def redShape (m : Msg) : Nat × Nat := if m.tfn % 2 = 0 then (m.ti, 1) else (1, m.tj)

/-- TRED (R306). -/
def compRed (ds : Tab Desc) (m : Msg) (s : State) : Option (State × Comp) := do
  let a ← recView ds s m.ta m.ti m.tj
  let c ← recView ds s m.tc (redShape m).1 (redShape m).2
  some (withVals a m.who s fun s1 rows =>
    let vecs := if m.tfn % 2 = 0 then rows else (upto 0 m.tj).map fun j => rows.map fun r => r.getD j (.fin false 0 0)
    let rs := vecs.map (if m.tfn < 2 then redSum else redMax)
    let bytes := if m.tfn % 2 = 0 then (upto 0 m.ti).flatMap fun i => atOff (i * c.pitch) (toBytes 4 (rs.getD i (0, 0)).1)
      else atOff 0 (rs.flatMap fun r => toBytes 4 r.1)
    (s1, .out ⟨bytes, orAll (rs.map Prod.snd), none, false⟩))

/-- The elements of a row that TTOPK keeps (R307). -/
def keepRow (n mm : Nat) (xs : List FV) : List Bool :=
  (upto 0 ((xs.length + mm - 1) / mm)).flatMap fun g => keepTop n ((xs.drop (g * mm)).take mm)

/-- One row of TTOPK: kept codes as they are, the rest zero, the bytes of blocks kept. -/
def topkRow (fmt cols : Nat) (bs : List Byte) (keep : List Bool) : List Byte :=
  (upto 0 (cols / unitElems fmt)).flatMap fun u =>
    let ubs := (bs.drop (u * unitBytes fmt)).take (unitBytes fmt)
    if isBlock fmt then
      let k := blkOf fmt ubs
      blockBytes fmt (((upto 0 32).zip k.codes).map fun e => if keep.getD (32 * u + e.1) false then e.2 else 0) k.x
    else if keep.getD u false then ubs else List.replicate (unitBytes fmt) 0

/-- TTOPK (R307): exact, no flag. +0 in an E8M0 tile is not representable: a free value (log 2). -/
def compTopk (ds : Tab Desc) (m : Msg) (s : State) : Option (State × Comp) := do
  let a ← recView ds s m.ta m.ti m.tk
  let c ← recView ds s m.tc m.ti m.tk
  let (n, mm) := topkNM (m.arg % 8)
  some (withVals a m.who s fun s1 rows =>
    let out := (upto 0 m.ti).map fun i =>
      (topkRow a.desc.fmt m.tk (tileBytes s1 a.key (i * a.pitch) (rowBytes a.desc.fmt m.tk)) (keepRow n mm (rows.getD i [])),
        keepRow n mm (rows.getD i []))
    let one (f : Nat) (e : Bool × Byte) : Byte × Nat :=
      if a.desc.fmt = 13 ∧ e.1 = false then (BitVec.ofNat 8 (Config.freeValue f).toNat, f + 1) else (e.2, f)
    let r := (upto 0 m.ti).foldl (fun (o : List (Nat × Byte) × Nat) i =>
      let row := out.getD i ([], [])
      let bs := (upto 0 row.1.length).foldl (fun (p : List Byte × Nat) k =>
        let x := one p.2 (row.2.getD k true, row.1.getD k 0)
        (p.1 ++ [x.1], x.2)) ([], o.2)
      (o.1 ++ atOff (i * c.pitch) bs.1, bs.2)) ([], s1.fresh)
    ({ s1 with fresh := r.2 }, .out ⟨r.1, 0, none, false⟩))

/-- Pool bytes of the tiles that a record names show what stands there (R138). -/
def State.refreshTiles (m : Msg) (s : State) : State :=
  (readsOf m ++ if m.use.c then [writeKey m] else []).foldl (fun s k => s.refreshTile k (s.tile k).bytes) s

/-- What a record computes, with the descriptors of its tiles as they stood when it issued. -/
def compute (ds : Tab Desc) (m : Msg) (s : State) : Option (State × Comp) :=
  let s := s.refreshTiles m
  match m.top with
  | 0xa0 => compMma ds m s
  | 0xa1 => compImage true m.tres ds m s
  | 0xa2 => if m.tfn = 0 then compDense ds m s else compPacked ds m s
  | 0xa3 => compImage false true ds m s
  | 0xa4 => compZero ds m s
  | 0xa5 => compMap id ds m s
  | 0xa6 => compMap (fun x => x.scale ((m.arg % 256 : Nat) - 127 : Int)) ds m s
  | 0xa7 => compRed ds m s
  | 0xa8 => compTrans ds m s
  | 0xa9 => compTopk ds m s
  | 0xab => compMap (actOf m.tfn) ds m s
  | _ => none

end Sys2Proof.Machine
end

