-- ==== Sys2Proof/Machine/TileTask.lean ====
section
/-! DEFINITION. Tile tasks, opcodes 0xA0 to 0xAB: the tile-task scheduler of a shard, dot engines, operand rings, tile nodes (spec
11_queues R215, 15_tiles R292 to R313). -/
namespace Sys2Proof.Machine

/-! ### What a record must keep to (R293, R294, R298, R303) -/

/-- ARG and AUX (R303, R312). -/
def argOk (m : Msg) : Bool :=
  match m.top, m.tfn with
  | 0xa6, _ => decide (m.arg < 255) && decide (m.aux = 0)
  | 0xa9, _ => decide (m.arg < 4) && decide (m.aux = 0)
  | 0xaa, 0 => decide (m.arg < 2 ^ 14) && decide (m.aux = m.aux &&& 0x0fff1fff)
  | 0xaa, 1 => decide (m.arg < 2 ^ 13) && decide (m.aux = 0) &&
      (!bit m.arg 12 || (decide (bits m.arg 11 4 = 0) && decide (m.ta.toNat % 256 = 0)))
  | 0xaa, _ => decide (6 ≤ m.arg) && decide (m.arg ≤ 16) && decide (m.aux % 64 = 0) && decide (m.ta = 0) && decide (m.dep = 0)
  | _, _ => decide (m.arg = 0) && decide (m.aux = 0)

/-- Fields that an instruction does not use are zero, those it uses in range (R293, R303). -/
def fieldsOk (m : Msg) : Bool :=
  let u := m.use
  decide (m.tfn ≤ u.fn) && !bit m.tw 44 && (u.rm || decide (m.trm = 0)) && (u.z || !m.tz) && (decide (m.top = 0xa1) || !m.tres) &&
  (u.a || !m.popa) && (u.b || !m.popb) && (!m.isRingdef || decide (m.ti = 1)) && (u.j || decide (m.tj = 1)) &&
  (u.k || decide (m.tk = 1)) && (u.a || m.isRingdef || decide (m.ta = 0)) && (u.b || decide (m.tb = 0)) && (u.c || decide (m.tc = 0)) && argOk m

/-- The shard that a core lies in. -/
def coreShard (core : Nat) : Nat := core / 384 * 32 + core % 384 / 24 / 4 * 8 + core % 24 / 3

/-- A TREF of a record names a core of the shard, one that its sender may name (R184, R298). -/
def inShard (s : State) (shard : Nat) (m : Msg) (t : W) : Bool :=
  match trefKey s m.owner t with
  | some k => decide (coreShard (k / 256) = shard)
  | none => false

/-- And an entry of the record's owner. -/
def ownEntry (s : State) (shard : Nat) (m : Msg) (t : W) : Bool := inShard s shard m t && decide ((s.tile (rawKey t)).owner = m.owner)

/-- In an operand word, 0 reads as no tile (R292). -/
def refOk (s : State) (shard : Nat) (m : Msg) (t : W) : Bool := decide (t ≠ 0) && ownEntry s shard m t

/-- A dependence word keeps to its layout; V alone says that it is used, TREF 0 too (R292). -/
def depOk (s : State) (shard : Nat) (m : Msg) (d : Nat) : Bool :=
  if bit d 31 then decide (bits d 28 26 = 0) && ownEntry s shard m (w64 (bits d 25 0)) else decide (d = 0)

/-- Every reference of a record is good. -/
def refsOk (s : State) (shard : Nat) (m : Msg) : Bool :=
  (if m.isRingdef then decide (m.tfn = 2) || inShard s shard m m.ta
   else (!m.use.a || refOk s shard m m.ta) && (!m.use.b || refOk s shard m m.tb) && (!m.use.c || refOk s shard m m.tc)) &&
  depOk s shard m (bits m.dep 31 0) && depOk s shard m (bits m.dep 63 32)

/-- A tile's shape fits its chunks and its blocks (R294). -/
def fitsView (s : State) (v : View) : Bool := v.fits s && v.blocks

/-- The tiles of a record that have a descriptor; the descriptors of those whose handles are open. -/
def tilesOf (m : Msg) : List Nat := readsOf m ++ if m.use.c then [writeKey m] else []
def descsKnown (s : State) (m : Msg) : Tab Desc :=
  (tilesOf m).foldl (fun t k => match recDesc s m k with
    | some d => Tab.put t k d
    | none => t) []

/-- The descriptors of a record's tiles, or none when a handle has V = 0. -/
def descsOf (s : State) (m : Msg) : Option (Tab Desc) :=
  if (tilesOf m).all fun k => (recDesc s m k).isSome then some (descsKnown s m) else none

/-- The shape of C. -/
def shapeC (m : Msg) : Nat × Nat :=
  match m.top with
  | 0xa7 => redShape m
  | 0xa8 => (m.tj, m.ti)
  | 0xa9 => (m.ti, m.tk)
  | _ => (m.ti, m.tj)

/-- Does some format pair with one (R121)? -/
def pairable (a : Nat) : Bool := (upto 0 32).any (pairOk a)

/-- Does some image's format pair with one (R121)? Images are of block formats (R308). -/
def pairsImage (b : Nat) : Bool := (upto 0 32).any fun a => isBlock a && pairOk a b

/-- The reason for which a record's formats are refused (R294, R298, R303, R308). A tile whose handle is closed has no format to break a rule
with. -/
def formatFault (s : State) (m : Msg) (ds : Tab Desc) : Option Nat :=
  let fit := fun (t : W) (r c : Nat) => match recView ds s t r c with
    | some v => fitsView s v
    | none => true
  let when_ := fun (t : W) (p : Desc → Bool) => match Tab.look ds (rawKey t) with
    | some d => p d
    | none => true
  let f32 := when_ m.tc fun d => decide (d.fmt = 8)
  let pair := match Tab.look ds (rawKey m.ta), Tab.look ds (rawKey m.tb) with
    | some a, some b => pairOk a.fmt b.fmt
    | some a, none => pairable a.fmt
    | none, some b => pairable b.fmt
    | none, none => true
  let patOk := when_ m.ta fun d => isBlock d.fmt && decide (1 ≤ d.pattern) && decide (d.pattern ≤ 4)
  let cOk := when_ m.tc fun d => decide (d.scale = 0x7f) && (decide (m.trm = 0) || !isBlock d.fmt)
  let same := when_ m.ta fun a => when_ m.tc fun c => decide (c.fmt = a.fmt)
  let fc := fit m.tc (shapeC m).1 (shapeC m).2
  let bad := fun (form fields : Bool) => if !form then some 3 else if fields && cOk then none else some 5
  match m.top with
  | 0xa0 => bad (f32 && pair) (fit m.ta m.ti m.tk && fit m.tb m.tj m.tk && fc)
  | 0xa1 | 0xa3 => bad (f32 && when_ m.tb fun d => pairsImage d.fmt) (fit m.tb m.tj m.tk && fc)
  | 0xa2 => bad patOk (decide (m.tk % 32 = 0) && (decide (m.tfn = 1) || fit m.ta m.ti m.tk))
  | 0xa4 => bad true fc
  | 0xa7 => bad f32 (fit m.ta m.ti m.tj && fc)
  | 0xa9 => bad same (fit m.ta m.ti m.tk && fc)
  | _ => bad true (fit m.ta m.ti m.tj && fc)

/-- The reason for which a record that enters the window is refused (R298). -/
def recCheck (s : State) (shard : Nat) (m : Msg) : Option Nat :=
  if m.top < 0xa0 ∨ 0xab < m.top then some 4
  else if !fieldsOk m || !refsOk s shard m || decide (namesOf m ≠ (namesOf m).eraseDups) then some 5
  else if m.isRingdef then none
  else formatFault s m (descsKnown s m)

/-! ### Whether a record may issue (R296, R297, R311) -/

/-- What becomes of a record now. -/
inductive Fate where
  | wait
  | refuse (reason : Nat)
  | ready (ds : Tab Desc)
  deriving DecidableEq, Repr

/-- A pop names the head of the ring that the tile lies in (R297, R302). -/
def isHead (s : State) (key : Nat) : Bool :=
  match ringOf s key with
  | some (_, r) => decide (r.first + r.head = key % 256)
  | none => false

/-- The reason for which a record is refused for what its image holds, or for the size of the image it would write. -/
def imageFault (s : State) (m : Msg) (ds : Tab Desc) : Option Nat :=
  match m.top with
  | 0xa1 | 0xa3 =>
    if (tileBad s (rawKey m.ta) 64).isSome then none else
    let h := imgHeader s (rawKey m.ta)
    if h.rows ≠ m.ti ∨ h.cols ≠ m.tk then some 5
    else if pairOk h.fmt (((Tab.look ds (rawKey m.tb)).map Desc.fmt).getD 0) then none else some 3
  | 0xa2 =>
    match compute ds m s with
    | some (_, .out o) => if (s.tile (writeKey m)).bytes < o.bytes.length then some 5 else none
    | _ => none
  | _ => none

/-- Is a tile in a state, and was it when the cycle began (R296)? A starter of this cycle has then not taken it (R249, R297). -/
def tileIs (s : State) (k : Nat) (st : TileSt) : Bool := decide (s.tileThen k = st) && decide ((s.tile k).st = st)

/-- The fate of a record whose tiles no older record names. An accumulate record too writes its tile, which in a ring must be at TAIL (R302). -/
def fateOf (s : State) (m : Msg) : Fate :=
  if !(depsOf m).all (fun d => decide ((s.tileThen (rawKey d.1)).code = d.2)) then .wait
  else if m.isRingdef then .ready []
  else if (readsOf m).any (fun k => (s.tile k).poison) || (!freshWrite m && (s.tile (writeKey m)).poison) then .refuse 2
  else if m.use.c && !ringTailOk s (writeKey m) then .refuse 1
  else if (m.popa && !isHead s (rawKey m.ta)) || (m.popb && !isHead s (rawKey m.tb)) then .refuse 5
  else if !((readsOf m).all (fun k => tileIs s k .ready) && tileIs s (writeKey m) (if freshWrite m then .empty else .ready)) then .wait
  else match descsOf s m with
    | none => .refuse 5
    | some ds =>
      match formatFault s m ds with
      | some r => .refuse r
      | none =>
        if acqHeld m s then .wait
        else match imageFault s m ds with
          | some r => .refuse r
          | none => .ready ds

/-- The engine of a cell; the C-cells of a shard. -/
def engOf (core cell : Nat) : Nat := core * 4 + cell
def enginesOf (shard : Nat) : List Nat :=
  (upto 0 4).flatMap fun y => (upto 0 3).flatMap fun x => (upto 0 4).map fun c =>
    engOf (coreNo (shard / 32) (shard % 32 / 8 * 4 + y) (shard % 8 * 3 + x)) c

/-- A C-cell that holds a dot-block node of a running invocation (R296). -/
def cellTaken (s : State) (eng : Nat) : Bool :=
  s.fab.invs.any fun e => decide (e.2.phase ≠ .out) && e.2.nodes.any fun n =>
    decide (0xa0 ≤ n.2.op) && decide (n.2.op ≤ 0xab) && decide (engOf n.2.place.core n.2.place.elem = eng)

/-- May a free dot engine take a record (R296)? -/
def engSuits (s : State) (shard : Nat) (m : Msg) (eng : Nat) : Bool :=
  decide (eng ∈ enginesOf shard) && (Tab.look s.eng.dots eng).isNone &&
  (if inAcc s (writeKey m) then decide (eng / 4 = writeKey m / 256) else !cellTaken s eng)

/-! ### The ring (R215, R296) -/

/-- A shard's ring. -/
def TaskRing.undefined : TaskRing := ⟨0, 0, 0, 0, 0, [], []⟩
def State.ring (s : State) (shard : Nat) : TaskRing := Tab.getD s.eng.rings shard .undefined
def State.putRing (s : State) (shard : Nat) (r : TaskRing) : State := { s with eng := { s.eng with rings := Tab.put s.eng.rings shard r } }

/-- The records of a ring that its scheduler sees: those written in this cycle at the tail are visible from the next (R296). -/
def seenSlots (s : State) (shard : Nat) : List RSlot :=
  let r := s.ring shard
  r.slots.take (r.slots.length - s.shot.count (.wrote shard))

/-- The window: places and slots of the 8 oldest unissued records. -/
def windowOf (s : State) (shard : Nat) : List (Nat × RSlot) :=
  let xs := seenSlots s shard
  (((upto 0 xs.length).zip xs).filter fun e => !e.2.left).take 8

/-- The record that the scheduler acts on next, with its fate (R296): `names` are the tiles of older records. What a CTXSAVE finds unissued stays
in the ring (R343). -/
def pickRec (s : State) (shard : Nat) : List Nat → List (Nat × RSlot) → Option (Nat × Msg × Fate)
  | _, [] => none
  | names, (k, x) :: rest =>
    let more := pickRec s shard (names ++ namesOf x.msg) rest
    if !x.checked || x.held || s.frozen x.msg.tid || (namesOf x.msg).any (fun t => decide (t ∈ names)) then more else
    match fateOf s x.msg with
    | .wait => more
    | .refuse r => some (k, x.msg, .refuse r)
    | .ready ds => if x.msg.isRingdef || (enginesOf shard).any (fun e => engSuits s shard x.msg e) then some (k, x.msg, .ready ds) else more
def nextRec (s : State) (shard : Nat) : Option (Nat × Msg × Fate) :=
  if .issued shard ∈ s.shot then none else pickRec s shard [] (windowOf s shard)

/-- Slots that have left at the front go, and the head advances over them. -/
def trimRing (r : TaskRing) : TaskRing :=
  let rest := r.slots.dropWhile fun x => x.left
  { r with slots := rest, head := r.head + (r.slots.length - rest.length) }

/-- A record leaves the ring. -/
def leaveRing (shard k : Nat) (s : State) : State :=
  let r := s.ring shard
  match r.slots[k]? with
  | some x => s.putRing shard (trimRing { r with slots := setAt r.slots k { x with left := true } })
  | none => s

/-- A record's reply and the end of its K (R183, R299). -/
def replyTask (m : Msg) (status code done : Nat) (s : State) : State := retireK m (writeReply m m.tid status code done s)

/-- A record retires from the ring without issuing. -/
def retireSlot (shard k : Nat) (m : Msg) (status code done : Nat) (s : State) : State := replyTask m status code done (leaveRing shard k s)

/-- The 64 bytes of a record as XTASK hands it over (R182, R292). -/
def recordBytes (m : Msg) : List Byte :=
  toBytes 8 (m.op * 2 ^ 56 + m.tid * 2 ^ 40 + m.owner * 2 ^ 24 + m.scope * 2 ^ 21 + b2n m.acq * 2 ^ 20 + b2n m.rel * 2 ^ 19) ++
  (m.opnd.flatMap fun w => toBytes 8 w.toNat) ++ toBytes 8 m.reply.toNat

/-- Write a record at the tail (R296): what cannot be written is not enqueued. -/
def enqueueTask (shard : Nat) (m : Msg) (s : State) : State :=
  let r := s.ring shard
  match writeVa s ⟨shard / 32, r.ctxid, 0, true, none⟩ none (r.base.toNat + r.tail % 2 ^ r.log * 64) (recordBytes m) with
  | .ok s1 => (s1.putRing shard { r with tail := r.tail + 1, slots := r.slots ++ [⟨m, false, false, false⟩] }).mark (.wrote shard)
  | .error (k, va) => replyTask m 2 cPAGE 0 (s.recHard m.tid cPAGE 0 m.pc.toNat (pageValue k .write va))

/-- A record that defines the ring itself (R312). -/
def Msg.isTasks (m : Msg) : Bool := m.isRingdef && decide (m.tfn = 2)

/-- Is there room in a ring, with no RINGDEF.tasks waiting ahead? -/
def ringRoom (r : TaskRing) : Bool := decide (r.next = []) && (decide (r.log = 0) || decide (r.slots.length < 2 ^ r.log))

/-- A record arrives (R296, R312): none while it must wait for room. -/
def arriveTask (shard : Nat) (m : Msg) (s : State) : Option State :=
  let r := s.ring shard
  if m.isTasks then some (s.putRing shard { r with next := r.next ++ [m] })
  else if !ringRoom r then none
  else if r.log = 0 then some (replyTask m 3 4 0 s)
  else some (enqueueTask shard m s)

/-- Read the 64 bytes of an engine command at its descriptor (R182). -/
def engineMsg (op : Nat) (x : TX) (s : State) : Except Stop (State × Msg) := do
  let m := msgOf op x s
  if m.a.toNat % 64 ≠ 0 then .error (.trap cALIGN m.a) else
  let (s1, bs) ← readAtIssue m.a.toNat 64 s
  .ok (s1, { m with opnd := (wordsOf bs).take 7 |>.drop 1, reply := (wordsOf bs).getD 7 0 })

/-- XTASK (R182, R215, R296): K rises, then the record is written at the tail. -/
def execXtask (x : TX) (s : State) : Out :=
  issueJump x.pg [x.a] [] (fun s => do
    needIrrev s
    let (s0, m) ← engineMsg 0x74 x s
    needRoom 3 s
    let s1 := ({ s0 with nextId := s.nextId + 1 }).onMe fun t => { t with k := t.k + 1 }
    match arriveTask (shardOf s.cur) m s1 with
    | some s2 => .ok (advance s2)
    | none => .ok (s1.onMe fun t => { t with st := .stalled, why := .ring m })) s

/-! ### The scheduler -/

/-- TILE_TASK_CHECK (R298): the oldest unchecked record of the window. -/
def execTileTaskCheck (shard : Nat) (s : State) : Out :=
  let r := s.ring shard
  match (windowOf s shard).find? fun e => !e.2.checked with
  | none => .next s
  | some (k, x) =>
    match recCheck s shard x.msg with
    | some reason => .next (retireSlot shard k x.msg 3 reason 0 s)
    | none => .next (s.putRing shard { r with slots := setAt r.slots k { x with checked := true } })

/-- The tiles of a record take their states as it starts (R297, R301). -/
def startTiles (m : Msg) (s : State) : State :=
  let s1 := (readsOf m).foldl (fun s k => s.onTile k fun e => { e with st := .draining }) s
  if freshWrite m then startFill s1 (writeKey m) else s1.onTile (writeKey m) fun e => { e with st := .draining }

/-- A dot engine's run, and its replacement. -/
def State.putDot (s : State) (eng : Nat) (r : DotRun) : State := { s with eng := { s.eng with dots := Tab.put s.eng.dots eng r } }

/-- The scheduler puts TOP into HDR<63:56> of a record that it issues, where the ring holds it (R292). -/
def stampTop (shard k : Nat) (m : Msg) (s : State) : State :=
  let r := s.ring shard
  match writeVa s ⟨shard / 32, r.ctxid, 0, true, none⟩ none (r.base.toNat + (r.head + k) % 2 ^ r.log * 64 + 7) (toBytes 1 m.top) with
  | .ok s1 => s1
  | .error _ => s

/-- A record starts on a dot engine. -/
def startRun (eng : Nat) (m : Msg) (node : Option (Nat × Nat × Nat)) (ds : Tab Desc) (s : State) : State :=
  ({ startTiles m s with nextId := s.nextId + 1 }).putDot eng ⟨s.nextId, m, node, ds, [], false, 0, 0, none, none, []⟩

/-- TILE_TASK_ISSUE (R296, R297): the oldest record of the window that may act issues to a dot engine, or is refused. -/
def execTileTaskIssue (shard eng : Nat) (s : State) : Out :=
  match nextRec s shard with
  | some (k, m, .refuse r) => .next (retireSlot shard k m 3 r 0 s)
  | some (k, m, .ready ds) =>
    if !m.isRingdef && engSuits s shard m eng then .next (startRun eng m none ds ((leaveRing shard k (stampTop shard k m s)).mark (.issued shard)))
    else .next s
  | _ => .next s

/-! ### Defining tiles and rings (R312) -/

/-- A range of whole chunks lies in the scratchpad or in accumulator storage of a core. -/
def inParts (s : State) (core off size : Nat) : Bool :=
  let p := s.mem.partOf core
  let lo := off * 512
  let hi := (off + size + 1) * 512
  let a := partRF p * 65536
  let b := (partRF p + partSP p) * 65536
  (decide (a ≤ lo) && decide (hi ≤ b)) || (decide (b ≤ lo) && decide (hi ≤ 64 * 65536))

/-- Does an MSTORE stream write a tile? -/
def streamsInto (s : State) (key : Nat) : Bool :=
  s.fab.invs.any fun e => e.2.nodes.any fun n =>
    decide (n.2.op = 0x8c) && bit n.2.w.lit.toNat 0 && decide (n.2.place.core * 256 + bits n.2.w.lit.toNat 8 1 = key) &&
    (e.2.st n.1).busy && !(e.2.st n.1).flush

/-- A writer in flight on a FILLING tile. -/
def writerOn (s : State) (key : Nat) : Bool :=
  s.eng.cmds.any (fun c => decide (c.dst = some key)) || s.eng.dots.any (fun e => decide (writeKey e.2.msg = key)) || streamsInto s key

/-- An entry of another owner, and not EMPTY. -/
def foreign (s : State) (m : Msg) (k : Nat) : Bool := decide ((s.tile k).owner ≠ m.owner) && decide ((s.tile k).st ≠ .empty)

/-- A run passes index 255. -/
def runPasses (m : Msg) : Bool := decide (255 < rawKey m.ta % 256 + ((ringRun m).length - 1))

/-- RINGDEF.tiles: the reason it is refused, or the state after. -/
def defTiles (m : Msg) (s : State) : Nat ⊕ State :=
  let ks := ringRun m
  let size := bits m.arg 13 8
  let off := fun (k : Nat) => bits m.aux 12 0 + (k - rawKey m.ta) * (size + 1)
  if runPasses m || ks.any (foreign s m) || !ks.all (fun k => inParts s (k / 256) (off k) size) then .inl 5
  else if ks.any (fun k => decide ((s.tile k).st = .draining) || (decide ((s.tile k).st = .filling) && writerOn s k)) then .inl 1
  else .inr (ks.foldl (fun s k => s.putTile k ⟨0, m.owner, bits m.aux 27 16, size, off k, 0, false, .empty⟩) s)

/-- RINGDEF.ring. -/
def defRing (m : Msg) (s : State) : Nat ⊕ State :=
  let d := rawKey m.ta / 256 * 16 + m.arg % 16
  if bit m.arg 12 then .inr { s with tab := { s.tab with orings := Tab.put s.tab.orings d { Tab.getD s.tab.orings d .reset with v := false } } }
  else
    let ks := ringRun m
    if runPasses m || ks.any (foreign s m) || !ks.all (fun k => inParts s (k / 256) (s.tile k).offset (s.tile k).size) then .inl 5
    else if ks.any (fun k => decide ((s.tile k).st ≠ .empty)) then .inl 1
    else .inr { s with tab := { s.tab with orings := Tab.put s.tab.orings d ⟨true, rawKey m.ta % 256, bits m.arg 11 4, 0, 0⟩ } }

/-- A RINGDEF that the scheduler runs: its reply, its slot. -/
def ringdefBy (fn : Nat) (act : Msg → State → Nat ⊕ State) (done : Msg → Nat) (shard : Nat) (s : State) : Out :=
  match nextRec s shard with
  | some (k, m, .ready _) =>
    if m.isRingdef && decide (m.tfn = fn) then
      match act m s with
      | .inl r => .next (retireSlot shard k m 3 r 0 s)
      | .inr s1 => .next ((retireSlot shard k m 0 0 (done m) (stampTop shard k m s1)).mark (.issued shard))
    else .next s
  | _ => .next s

/-- RINGDEF.tiles. -/
def execRingdefTiles (shard : Nat) (s : State) : Out := ringdefBy 0 defTiles (fun m => (ringRun m).length) shard s

/-- RINGDEF.ring. -/
def execRingdefRing (shard : Nat) (s : State) : Out := ringdefBy 1 defRing (fun _ => 1) shard s

/-- Has every record of a shard's ring retired? -/
def ringIdle (s : State) (shard : Nat) : Bool :=
  decide ((s.ring shard).slots = []) && !s.eng.dots.any fun e => decide (e.2.node = none) && decide (coreShard (e.1 / 4) = shard)

/-- RINGDEF.tasks: applied once every record of the ring has retired; a thread without PRV is refused. -/
def execRingdefTasks (shard : Nat) (s : State) : Out :=
  let r := s.ring shard
  match r.next with
  | [] => .next s
  | m :: rest =>
    if !ringIdle s shard then .next s
    else if fieldsOk m && m.prv then
      .next (replyTask m 0 0 1 (s.putRing shard ⟨w64 m.aux, m.ctxid, m.arg, 0, 0, [], rest⟩))
    else .next (replyTask m 3 5 0 (s.putRing shard { r with next := rest }))

/-! ### Dot engines (R299, R300) -/

/-- A dot engine computes a record of one instruction; it waits for the sender's accesses when ACQ asks for it (R182). -/
def runDot (eng : Nat) (mine : Msg → Bool) (f : Tab Desc → Msg → State → Option (State × Comp)) (s : State) : Out :=
  match Tab.look s.eng.dots eng with
  | none => .next s
  | some r =>
    if !mine r.msg || r.computed || r.stop.isSome || acqHeld r.msg s then .next s else
    match f r.descs r.msg (s.refreshTiles r.msg) with
    | some (s1, .out o) =>
      let sh := coreShard (eng / 4)
      let n := Tab.getD s1.eng.fallback sh 0
      let s2 := if o.fallback then { s1 with eng := { s1.eng with fallback := Tab.set s1.eng.fallback 0 sh (min (n + 1) 0xffffffff) } } else s1
      .next (s2.putDot eng { r with out := chunksOf o.bytes, computed := true, flags := o.flags, doneWord := o.done })
    | some (s1, .stop c v) => if c = cSPARSE then .next (s1.putDot eng { r with stop := some (2, c, v) }) else .next s
    | none => .next s

/-- A record of a TOP. -/
def isTop (n : Nat) (m : Msg) : Bool := decide (m.top = n)

/-- TMMA (R304). -/
def execTmma (eng : Nat) (s : State) : Out := runDot eng (isTop 0xa0) compMma s

/-- TMMS (R311). -/
def execTmms (eng : Nat) (s : State) : Out := runDot eng (isTop 0xa1) (fun ds m => compImage true m.tres ds m) s

/-- TDECOMP.dense (R308). -/
def execTdecompDense (eng : Nat) (s : State) : Out := runDot eng (fun m => isTop 0xa2 m && decide (m.tfn = 0)) compDense s

/-- TDECOMP.packed (R310). -/
def execTdecompPacked (eng : Nat) (s : State) : Out := runDot eng (fun m => isTop 0xa2 m && decide (m.tfn = 1)) compPacked s

/-- TRESID (R311). -/
def execTresid (eng : Nat) (s : State) : Out := runDot eng (isTop 0xa3) (compImage false true) s

/-- TZERO (R305). -/
def execTzero (eng : Nat) (s : State) : Out := runDot eng (isTop 0xa4) compZero s

/-- TCVT (R305). -/
def execTcvt (eng : Nat) (s : State) : Out := runDot eng (isTop 0xa5) (compMap id) s

/-- TSCALE (R305): by 2^(X − 127). -/
def execTscale (eng : Nat) (s : State) : Out :=
  runDot eng (isTop 0xa6) (fun ds m => compMap (fun x => x.scale ((m.arg % 256 : Nat) - 127 : Int)) ds m) s

/-- TRED (R306). -/
def execTred (eng : Nat) (s : State) : Out := runDot eng (isTop 0xa7) compRed s

/-- TTRANS (R305). -/
def execTtrans (eng : Nat) (s : State) : Out := runDot eng (isTop 0xa8) compTrans s

/-- TTOPK (R307). -/
def execTtopk (eng : Nat) (s : State) : Out := runDot eng (isTop 0xa9) compTopk s

/-- TACT (R305). -/
def execTact (eng : Nat) (s : State) : Out := runDot eng (isTop 0xab) (fun ds m => compMap (actOf m.tfn) ds m) s

/-- DOT_ENGINE_FAULT_STOP (R300): a record that has not written yet meets poison, or a scale byte that it cannot read. -/
def execDotEngineFaultStop (eng : Nat) (s : State) : Out :=
  match Tab.look s.eng.dots eng with
  | none => .next s
  | some r =>
    if r.computed || r.stop.isSome || acqHeld r.msg s then .next s else
    match compute r.descs r.msg s with
    | some (s1, .stop c v) => .next (s1.putDot eng { r with stop := some (2, c, v) })
    | _ => .next s

/-- A dot engine writes one output chunk, and sets its bit in a fresh tile (R185, R299); an XCANCEL of this cycle finds a last one complete
(R186). -/
def dotChunk (eng : Nat) (r : DotRun) (chunk : Nat) (s : State) : State :=
  match r.out.find? fun e => decide (e.1 = chunk) with
  | none => s
  | some (_, bs) =>
    if r.stop.isSome && !(decide (r.stop = some (1, 0, 0)) && decide (.cancelled r.id ∈ s.shot)) then s else
    let k := writeKey r.msg
    let s1 := tileWrite s k bs
    let s2 := if freshWrite r.msg then s1.onTile k fun e => { e with bitmap := e.bitmap ||| (1#64 <<< chunk) } else s1
    let out := r.out.filter fun e => decide (e.1 ≠ chunk)
    s2.putDot eng { r with out := out, chunks := r.chunks + 1, stop := if out = [] then none else r.stop }

/-- The head of a tile's ring advances (R301). -/
def ringPop (key : Nat) (s : State) : State :=
  match ringOf s key with
  | some (k, r) => { s with tab := { s.tab with orings := Tab.put s.tab.orings k { r with head := (r.head + 1) % (r.count + 1) } } }
  | none => s

/-- The tiles of a record that completed (R297): popped tiles are EMPTY, the rest READY; the flags go to TC's entry. -/
def finishTiles (r : DotRun) (s : State) : State :=
  let m := r.msg
  let popped := (if m.popa then [rawKey m.ta] else []) ++ if m.popb then [rawKey m.tb] else []
  let s1 := (readsOf m).foldl (fun s k =>
    if k ∈ popped then (ringPop k s).onTile k fun e => { e with st := .empty } else s.onTile k fun e => { e with st := .ready }) s
  s1.onTile (writeKey m) fun e => { e with st := .ready, flags := e.flags ||| r.flags % 32 }

/-- The tiles of a record that was cancelled or stopped (R300): nothing is popped; the destination stays or becomes FILLING, with the flags of
a computation that has written a chunk (R119; DEDUCED, log 89: all of them). -/
def stopTiles (r : DotRun) (fault : Bool) (s : State) : State :=
  let m := r.msg
  let s1 := (readsOf m).foldl (fun s k => s.onTile k fun e => { e with st := .ready }) s
  s1.onTile (writeKey m) fun e => { e with
    st := .filling, poison := e.poison || fault || !freshWrite m, flags := if r.chunks = 0 then e.flags else e.flags ||| r.flags % 32 }

/-- The C-cell of an engine, with the slot of its tile node or 0. -/
def dotPlace (s : State) (eng : Nat) (r : DotRun) : Place :=
  match r.node.bind fun n => (s.inv n.1).bind fun i => Tab.look i.nodes n.2.1 with
  | some nd => nd.place
  | none => ⟨eng / 4, eng % 4, 0, 0, 0⟩

/-- An XCANCEL retires (R186). -/
def retireCancels (cs : List (Nat × Nat)) (s : State) : State :=
  cs.foldl (fun s e => s.onTh e.1 fun t => if t.born ≤ e.2 then { t with c := t.c - 1 } else t) s

/-- STATUS, CODE and DONE of a run that is over; none while it goes on. -/
def dotReply (r : DotRun) : Option (Nat × Nat × Nat) :=
  match r.stop with
  | some (st, c, _) => some (st, c, r.chunks)
  | none => if r.computed && decide (r.out = []) then some (0, 0, r.doneWord.getD r.chunks) else none

/-- The tiles, the record and the reply of a run that is over. DESIGN CHOICE (log 91): the reply of a record without REL, which R197 leaves
unordered with the data, follows them. -/
def closeRun (eng : Nat) (r : DotRun) (st code done : Nat) (s : State) : State :=
  let p := dotPlace s eng r
  let s1 := { s with eng := { s.eng with dots := Tab.del s.eng.dots eng } }
  let s2 := match r.stop with
    | some (_, c, v) =>
      let s2 := stopTiles r (decide (st = 2)) s1
      if st = 2 then s2.recThread r.msg.tid p.src c 1 p.loc v else s2
    | none => finishTiles r s1
  retireCancels r.cancels (bump (writeReply r.msg p.src st code done s2) (eng / 4) 6 1)

/-- TILE_TASK_RETIRE (R297, R299, R300, R313): the reply is written, the tiles take their states, K retires; a tile node sends the
reply word once its targets have space. -/
def execTileTaskRetire (eng : Nat) (s : State) : Out :=
  match Tab.look s.eng.dots eng with
  | none => .next s
  | some r =>
    match dotReply r with
    | none => .next s
    | some (st, code, done) =>
      let s1 := closeRun eng r st code done s
      match r.node with
      | none => .next (retireK r.msg s1)
      | some (iid, n, tag) =>
        match s1.inv iid with
        | none => .next s1
        | some i =>
          match Tab.look i.nodes n with
          | none => .next s1
          | some nd =>
            let c : Ctx := ⟨s1, iid, i, n, nd, tag⟩
            match c.pass [0] (both (c.res tag (replyWord st code done) (resFlg false [c.flg 0]))) with
            | some s2 => .next (endIfDone s2 iid)
            | none => .next s

/-! ### Tile nodes (R313) -/

/-- The record that a tile node reads. -/
def nodeMsg (c : Ctx) (bs : List Byte) : Msg :=
  let ws := wordsOf bs
  { op := c.nd.op, fn := 0, cls := 0, imm := 0, scope := c.i.scope, acq := false, rel := false, tid := c.i.tid, owner := c.i.owner,
    ctxid := c.i.ctxid, prv := false, modul := c.i.modul, pc := 0, no := 0, opnd := (ws.take 7).drop 1, reply := ws.getD 7 0,
    hv := false, hidx := 0, hreg := 0, a := 0, b := 0, d := 0 }

/-- A tile node's record comes to nothing: the reply goes to its targets, and to REPLY. -/
def refuseNode (c : Ctx) (m : Msg) (st code : Nat) (s : State) : Option State :=
  let s1 := writeReply m c.nd.place.src st code 0 s
  c.done s1 (((s1.inv c.iid).getD c.i).clearFields c.n c.tag [0]) (both (c.res c.tag (replyWord st code 0) (resFlg false [c.flg 0])))

/-- TILE_NODE_FIRE (R313): L stands until the dot block has run the record, which starts with space at every target (R39). -/
def execTileNodeFire (op : BitVec 8) (_w : NW) (s : State) : Out :=
  fire s fun c =>
    let eng := engOf c.nd.place.core c.nd.place.elem
    let va := (c.val 0).toNat
    if !c.has 0 || (Tab.look c.s.eng.dots eng).isSome || !canSend c.s c.i c.n c.nd c.tag [] then none
    else if va % 64 ≠ 0 then refuseNode c (nodeMsg c []) 3 5 c.s
    else match readVa c.s c.i.who va 64 with
      | .error (.poison _) => some (poisonEnd c.s c)
      | .error e => refuseNode c (nodeMsg c []) 2 cPAGE (recElem c.s c.i c.nd.place e.report.1 e.report.2)
      | .ok (s1, bs) =>
        let m := nodeMsg c bs
        let shard := coreShard c.nd.place.core
        if m.top ≠ op.toNat ∨ m.top = 0xaa then refuseNode c m 3 4 s1
        else match recCheck s1 shard m with
          | some r => refuseNode c m 3 r s1
          | none =>
            if inAcc s1 (writeKey m) && decide (writeKey m / 256 ≠ c.nd.place.core) then refuseNode c m 3 5 s1 else
            match fateOf s1 m with
            | .wait => none
            -- a member of a ring that is not at its tail (R302)
            | .refuse 1 => none
            | .refuse r => refuseNode c m 3 r s1
            | .ready ds => some ((startRun eng m (some (c.iid, c.n, c.tag)) ds s1).active c.iid)

end Sys2Proof.Machine
end

