-- ==== Sys2Proof/Machine/Turns.lean ====
section
/-! DEFINITION. Whose turn it is, and the fetch of its word: a thread's by its pc, a node's from its slot. -/
namespace Sys2Proof.Machine

/-- May a thread issue (R41)? A control core halted by the debug port issues nothing (R370). -/
def canIssue (s : State) (tid : Nat) : Bool :=
  decide ((s.th tid).st = .runnable) && s.powered && (!decide (shardOf tid ∈ s.well.halted) || decide (s.well.stepping = some tid)) &&
  !s.frozen tid

/-- The thread that a control core issues in this cycle, if it has not issued yet: round-robin from the one after the last (R41). -/
def nextThread (s : State) (shard : Nat) : Option Nat :=
  if .control shard ∈ s.shot then none else
  let last := Tab.getD s.rr shard (shard * 8 + 7)
  (((upto 1 8).map fun i => shard * 8 + (last + i) % 8).find? fun t => canIssue s t)

/-- The control cores that have a listed thread, in ascending order. -/
def shardsOf (s : State) : List Nat := (s.threads.map fun e => shardOf e.1).eraseDups

/-- The nanoseconds that the next cycle of the common clock brings to an end (R3, R7, R365). -/
def cycleNs (s : State) : Nat :=
  if s.powered then (s.cycle + 1) * 1000 / s.well.mhz - s.cycle * 1000 / s.well.mhz else 1

/-- A thread takes its control core's issue of this cycle. -/
def takeIssue (tid : Nat) (s : State) : State :=
  { s with
    cur := tid, rr := Tab.put s.rr (shardOf tid) tid, shot := .control (shardOf tid) :: s.shot,
    well := { s.well with stepping := if s.well.stepping = some tid then none else s.well.stepping } }

/-- The line of a fetched word comes into its home slice, a pool shows what stands in it (R138, R149). -/
def reachLine (s : State) (x : Xl) : State := (if x.cached then s.bring [x.pa] else s).refresh [x.pa]

/-- The word a thread issues next; or, with none, what happens instead: a thread whose turn it is not does nothing, an imprecise trap
is taken at the boundary (R163, R329), a task aborted 8 times waits to become irrevocable (R178), a fetch that fails or meets poison
traps at the word (R98, R163), a full miss queue holds the thread (R155). -/
def fetchThread (tid : Nat) (s : State) : State × Option W :=
  if nextThread s (shardOf tid) ≠ some tid then (s, none) else
  let s := takeIssue tid s
  let t := s.th tid
  match t.imp with
  | (c, v) :: rest => (takeTrap tid c t.pc v (s.onTh tid fun t => { t with imp := rest }), none)
  | [] =>
    if (match s.specul tid with | some k => decide (8 ≤ k.aborts) | none => false) then (stallOn .irrevocable s, none) else
    match missBlocked s (s.whoOf tid) t.pc.toNat with
    | some slice => (stallOn (.tlb slice) s, none)
    | none =>
    match translate s (s.whoOf tid) .fetch t.pc.toNat with
    | .error k => (takeTrap tid cPAGE t.pc (pageValue k .fetch t.pc.toNat) s, none)
    | .ok (s1, x) =>
      let s2 := reachLine s1 x
      if s2.mem.bad x.pa then (takeTrap tid cPOISON t.pc t.pc s2, none)
      else (s2, some (w64 (s2.mem.word x.pa 8)))

/-- The instruction in a thread's word: an illegal word traps (R62). -/
def threadInstr (w : W) : Instr :=
  match decodeThread w with
  | .ok i => i
  | .error _ => .illegalInstructionWord w

/-- The word of a node that is given the turn, with `site` set: none when no such node is configured, or its element is
blocked (R63). -/
def fetchNode (iid node tag : Nat) (s : State) : State × Option Instr :=
  match s.inv iid with
  | none => (s, none)
  | some i =>
    match Tab.look i.nodes node with
    | none => (s, none)
    | some n =>
      if (i.ct node).blocked || !s.powered then (s, none) else
      match decodeNode n.word with
      | .ok e => ({ s with site := (iid, node, tag) }, some e)
      | .error _ => (s, none)

/-- A little-endian word stored as the hardware stores it, at a physical address that nothing maps yet. -/
def placeWord (s : State) (pa w : Nat) : State := { s with mem := s.mem.wrs pa (toBytes 8 w) }

/-- A loaded thread: RUNNABLE at VA 0 of context 0, whose one page is in the TLB, first of its control core to issue. -/
def loadThread (s : State) (w : Nat) : State :=
  let m := (placeWord s 0 w).mem
  let slice := tlbSlice 0 0 0
  { s with
    mem := m.fill slice ⟨0, 0, 16, 0, true, true, true, true, 0, true⟩,
    threads := Tab.put s.threads 0 { s.th 0 with st := .runnable, pc := 0, why := .none, imp := [], stale := [] },
    rr := Tab.put s.rr 0 7, shot := [], agenda := .thread 0 :: s.agenda }

/-- A loaded graph of one node: invocation 0 of thread 0, on core 0, with the word in its first slot. -/
def loadNode (s : State) (w : Nat) : State :=
  let n : Node := ⟨w64 w, [], ⟨0, 0, 0, 0, 0⟩⟩
  let r : Region := ⟨0, 0, 0, 1, 1, 1, 1, 1000000, 0, false, 0, 0, partReset, 0, 0, partReset⟩
  let i : Inv := ⟨0, 0, 0, 0, 0, 0, [], false, false, r, .run, [(0, n)], [], [], [], [], [], [], [], (0, 0, 0), 0, 0, false, 0, none, .none, [], []⟩
  { s with fab := { s.fab with invs := Tab.put s.fab.invs 0 i }, shot := [], agenda := .fire 0 0 0 :: s.agenda }

/-- The load that `State.withFetchWord` stands for: bit 55 chooses the form (R48). -/
def loadWord (s : State) (w : Nat) : State := if w.testBit 55 then loadNode s w else loadThread s w

end Sys2Proof.Machine
end

