-- ==== Sys2Proof/Machine/Stall.lean ====
section
/-! DEFINITION. What a core-clock cycle counts: stall words and performance counters; and what a turn does around its word (spec 16_counters
R317, R323, 02_machine R39, R40). -/
namespace Sys2Proof.Machine

/-- The oldest tag for which a field that a node uses is present (R39): tags age in the order of the invocation's block. -/
def oldestTag (i : Inv) (iid n : Nat) (nd : Node) : Option Nat :=
  let ts := (i.frames.filter fun e => decide (e.1 / 65536 = n) && (usesOf nd).any fun f => e.2.has f).map fun e => e.1 % 65536
  let age := fun (t : Nat) => (t + 65536 - baseTag iid) % 65536
  ts.foldl (fun (m : Option Nat) t => match m with
    | some u => if age t < age u then some t else m
    | none => some t) none

/-- The fields that a firing for the tag needs, some nodes' by what is present. -/
def needsOf (c : Ctx) : List Nat :=
  match c.nd.op with
  | 0x81 => if c.has 2 then [if bit (c.val 2).toNat 0 then 0 else 1, 2] else [2]
  | 0x8f => match merge2Alone c with
    | some f => [f]
    | none => [0, 1]
  | 0x99 => if c.has 1 then [1] else [0, 2]
  | 0xb4 | 0xb5 => if c.has 0 then [0] else [1]
  | 0xb8 => [0]
  | 0x87 | 0x89 => if c.nd.w.fn = 1 ∧ c.nd.op = 0x87 then [0] else []
  | 0x8a => if c.st.run.isSome then [] else [0]
  | 0x85 | 0x9a => if c.st.flush then [] else [0]
  | _ => usesOf c.nd

/-- The record of a tile node waits for its dot block, or for tile states, the TAIL of a ring among them (R302, R313); not while it runs. -/
def tileWaits (c : Ctx) : Bool :=
  match Tab.look c.s.eng.dots (engOf c.nd.place.core c.nd.place.elem) with
  | some d => decide (d.node ≠ some (c.iid, c.n, c.tag))
  | none => match readVa c.s c.i.who (c.val 0).toNat 64 with
    | .ok (s1, bs) => decide (fateOf s1 (nodeMsg c bs) ∈ [.wait, .refuse 1])
    | .error _ => false

/-- A tile stream waits for its banks or for its tile's state (R144, R147, R148). -/
def streamWaits (c : Ctx) : Bool :=
  match streamView c with
  | none => false
  | some v =>
    let e := c.s.tile v.key
    !tileHeld c v.key ||
    (if c.nd.op = 0x8b then decide (e.st ≠ .ready) else !c.st.busy && (decide (e.st ≠ .empty) || !ringTailOk c.s v.key))

/-- Does a node whose fields, targets and buffer allow it wait for an internal resource (R317, REASON 7)? -/
def resourceWaits (c : Ctx) : Bool :=
  match c.nd.op with
  | 0x8a => match c.st.run with
    | some r => ((c.s.handle c.i.ctxid r.handle).bind fun h => missBlocked c.s c.i.who (agenVa c r h)).isSome
    | none => false
  | 0x8b | 0x8c => if bit c.lit 0 then streamWaits c else (missBlocked c.s c.i.who (tokVa (c.val 0))).isSome
  | 0x8d => !bankHeld c.s c.iid c.nd.place.core (partRF (c.s.mem.partOf c.nd.place.core) * 65536 + fld (c.val 0) 63 32)
  | 0x94 => match laneOwner c.i with
    | some o => (upto 0 (2 ^ c.i.k)).all fun l => decide (l ∈ (c.i.st o).lanes)
    | none => false
  | 0x99 =>
    if c.has 1 then exFull c.nd c.st ((c.tag + 65536 - c.base) % 65536) else (exArrivals c).any (exWaits c.nd c.st)
  | 0xb7 => match c.s.net c.iid with
    | some n => decide (c.n ∈ n.full)
    | none => false
  | op => decide (0xa0 ≤ op) && decide (op ≤ 0xab) && tileWaits c

/-- Has one of the two targets no space for a token of a tag? -/
def noSpaceFor (c : Ctx) (w tag : Nat) : Bool := c.nd.targets.any fun t => decide (t.1 = w) && !hasSpace c.i c.n t.1 t.2.1 tag

/-- Has one of the two targets no space for the result? A queueing node's firing asks for none but that of a token that leaves by it
(R210, R233). -/
def noSpace (c : Ctx) (w : Nat) : Bool :=
  if c.nd.queues then
    match if w = 0 then (exNext c.s c.iid c.n c.nd c.st).bind fun d => (exQ c.st d).head? else
      (c.st.outs.find? fun o => decide (o.1 = w)).map Prod.snd with
    | some t => noSpaceFor c w t.tag
    | none => false
  else noSpaceFor c w (match c.nd.op with
    | 0x85 | 0x96 | 0x9a => c.tag
    | 0x87 => c.outTag c.tag (if c.nd.w.fn = 0 ∨ c.st.busy = true then c.st.acc else c.val 0)
    | 0x89 => c.outTag c.tag (wInt (sext c.lit 13))
    | _ => c.outTag c.tag (c.val 0))

/-- The reason that a node counts for its oldest tag: 0 for none (R317). -/
def reasonOf (c : Ctx) : Nat :=
  if c.nd.op = 0x96 then (if c.nd.targets ≠ [] ∧ c.st.line ≠ [] ∧ noSpace c 0 = true then 4 else 0) else
  match (needsOf c).find? fun f => !c.has f with
  | some f => f + 1
  | none =>
    if noSpace c 0 then 4 else if noSpace c 1 then 5
    else if c.nd.place.elem < 4 ∧ 48 ≤ bufUsed c.s c.i c.nd then 6
    else if resourceWaits c then 7 else 0

/-- The tag for which a node may count: of the head of its ring or of a line that it flushes, of its next token where it is a source that needs no
field, else the oldest of its fields (R39). -/
def heldTag (i : Inv) (iid n : Nat) (nd : Node) : Option Nat :=
  let x := i.st n
  let head := (x.line.head?).map Tok.tag
  match nd.op with
  | 0x96 => head
  | 0x85 | 0x9a => if x.flush then head else oldestTag i iid n nd
  | 0x87 => if nd.w.fn = 1 then oldestTag i iid n nd else if x.cnt = 0 then none else some (laneTag (baseTag iid) i.k x.emits)
  | 0x89 => if x.sent then none else some (laneTag (baseTag iid) i.k x.emits)
  | 0x8a => match x.run with
    | some r => some r.tok.tag
    | none => oldestTag i iid n nd
  | _ => oldestTag i iid n nd

/-- The reason and the tag of a node. -/
def nodeReason (s : State) (iid : Nat) (i : Inv) (n : Nat) (nd : Node) : Nat × Nat :=
  let ct := i.ct n
  if i.phase = .out ∨ ct.blocked ∨ ct.saved ∨ ct.stopped then (0, 0) else
  match heldTag i iid n nd with
  | some t => (reasonOf ⟨s, iid, i, n, nd, t⟩, t)
  | none => (0, 0)

/-- A stall word after some cycles of one reason. -/
def stallWord (old : W) (reason tag cycles : Nat) : W :=
  let opw := fld old 63 48
  let spw := fld old 47 32
  let opw := if reason ≤ 3 then min 65535 (opw + cycles) else opw
  let spw := if reason ≤ 3 then spw else min 65535 (spw + cycles)
  w64 (opw * 2 ^ 48 + spw * 2 ^ 32 + reason * 2 ^ 28 + tag * 2 ^ 12)

/-- One node counts, and its core with it: AG cells and Basin ports belong to no core (R323). -/
def countNode (iid cycles : Nat) (s : State) (e : Nat × Node) : State :=
  match s.inv iid with
  | none => s
  | some i =>
    match nodeReason s iid i e.1 e.2 with
    | (0, _) => s
    | (r, t) =>
      let s1 := s.putInv iid (i.onCt e.1 fun x => { x with stall := stallWord x.stall r t cycles })
      if e.2.place.elem = 6 ∨ e.2.place.elem = 8 then s1 else bump s1 e.2.place.core (if r ≤ 3 then 2 else 3) cycles

/-- The cells of an invocation: core and cell of its C-cell nodes. -/
def cellsOf (i : Inv) : List (Nat × Node) :=
  let cs := i.nodes.filter fun e => decide (e.2.place.elem < 4)
  cs.filter fun e => (cs.find? fun f => decide (f.2.place.core = e.2.place.core) && decide (f.2.place.elem = e.2.place.elem)).map Prod.fst = some e.1

/-- Counters 4 and 5 (R323): full token buffers, busy dot blocks. -/
def countCells (cycles : Nat) (s : State) : State :=
  let full := s.fab.invs.flatMap fun e => (cellsOf e.2).filter fun n => decide (48 ≤ bufUsed s e.2 n.2)
  let s1 := full.foldl (fun s n => bump s n.2.place.core 4 cycles) s
  s.eng.dots.foldl (fun s d => bump s (d.1 / 4) 5 cycles) s1

/-- What some cycles count. -/
def countCycles (cycles : Nat) (s : State) : State :=
  if cycles = 0 then s else
  countCells cycles (s.fab.invs.foldl (fun s e => e.2.nodes.foldl (countNode e.1 cycles) s) s)

/-- Invocations whose last end of stream a thread has just dequeued end (R31, R222). -/
def endFinished (s : State) : State := s.fab.invs.foldl (fun s e => endIfDone s e.1) s

/-- The same on what a word answers. -/
def afterWord (o : Out) : Out := match o with
  | .next s => .next (endFinished s)
  | .fault f => .fault f
  | .refused r => .refused r

/-- An event that the Wellhead itself brings about. -/
def isWell : Instr → Bool
  | .reset | .powerOnBoot | .kernelImageLoad _ | .pldmFirmwareUpdate _ | .sensorSample _ | .vcoreRemoved | .vauxRemoved | .eventLogRead _
  | .attestationReport _ | .measurementExtend _ _ | .keySlotWrite _ _ _ | .keySlotRead _ _ | .keySlotClear _ | .debugNonceRequest _
  | .debugUnlock _ | .debugExpiry | .debugPortAccess _ => true
  | _ => false

/-- A package that is off, without VCORE, in ROM recovery or held in reset by a trip does nothing but what the Wellhead does (R364, R365). -/
def State.dead (s : State) : Bool := s.well.tripped || decide (s.well.boot ∈ [.off, .dark, .recovery])

/-- Time passes (R7, R40): the counters see the state that the cycles find; a package held in reset has no cycles (R365). -/
def passTime (ns cycles : Nat) (s : State) : State :=
  let cycles := if s.dead then 0 else cycles
  let s1 := countCycles cycles s
  { s1 with gtsc := (s1.gtsc + ns) % 2 ^ 64, cycle := s1.cycle + cycles }

end Sys2Proof.Machine
end

