-- ==== Sys2Proof/Machine/Wave.lean ====
section
/-! DEFINITION. Changing a running invocation: deltas by drain, freshet waves (spec 12_nodes R242 to R246, 03_encoding R63). -/
namespace Sys2Proof.Machine

/-! ### A node's initial state (R81, R82, R223) -/

/-- The state that launch and reconfiguration write into a node; `consts` is the constant pool of a network. -/
def initSt (nd : Node) (consts : List Nat) : NodeSt :=
  let lit := nd.w.lit.toNat
  match nd.op with
  | 0x87 => if nd.w.fn = 0 then { NodeSt.zero with cnt := lit + 1 } else .zero
  | 0x91 => { NodeSt.zero with st := lit % 16 }
  | 0xb3 => { NodeSt.zero with const := consts.getD (lit / 16) 0 }
  | _ => .zero

/-- The constants of an invocation's network. -/
def constsOf (s : State) (iid : Nat) : List Nat :=
  match s.net iid with
  | some n => n.consts
  | none => []

/-- A node with new words. -/
def Node.withWords (nd : Node) (ws : List W) : Node := { nd with word := ws.headD nd.word, ext := ws.drop 1 }

/-- Change the protocol state of every node that an element holds (R63). -/
def Inv.onElement (i : Inv) (p : Place) (f : NodeCtl → NodeCtl) : Inv :=
  (i.nodes.filter fun e => decide (e.2.place.src = p.src)).foldl (fun i e => i.onCt e.1 f) i

/-- A node takes its new words, if it is listed, and starts afresh; a channel keeps the tokens of its ring behind the wave; a FALLOC frees every
lane of its M-cell (R223). A legal word ends the blocked state of its element (R63). -/
def Inv.reconf (i : Inv) (consts : List Nat) (n : Nat) : Inv :=
  match Tab.look i.nodes n with
  | none => i
  | some nd =>
    let nd1 := match Tab.look i.words n with
      | some ws => nd.withWords ws
      | none => nd
    let i1 := { i with nodes := Tab.put i.nodes n nd1 }
    let i2 := (i1.onSt n fun x => if nd.op = 0x96 then { initSt nd1 consts with line := x.line, head := x.head, ring := x.ring }
      else initSt nd1 consts).onCt n fun c => { c with stall := 0 }
    let i3 := if nd.op = 0x94 then (match laneOwner i with
      | some o => i2.onSt o fun x => { x with lanes := [] }
      | none => i2) else i2
    if (Tab.look i.words n).isSome then i3.onElement nd.place fun c => { c with blocked := false } else i3

/-! ### Delta descriptors (R242) -/

/-- A record of a delta: node, word count, words; and whether its layout holds. -/
def deltaRec (bs : List Byte) (k : Nat) : Nat × List W × Bool :=
  let r := (bs.drop (48 * k)).take 48
  let n := leAt r 2 1
  let ws := (upto 0 5).map fun j => w64 (leAt r (8 + 8 * j) 8)
  (leAt r 0 2, ws.take n, decide (1 ≤ n) && decide (n ≤ 5) && decide (leAt r 3 5 = 0) && (ws.drop n).all fun w => decide (w = 0))

/-- Is a node word legal in its place (R63)? -/
def wordsLegal (ws : List W) : Bool :=
  match ws with
  | [] => false
  | w :: ext =>
    (match decodeNode w with
    | .ok _ => true
    | .error _ => false) && extOk (opOf w) ext

/-- Does a record keep to R242: a node of the invocation, its word count, its element type and targets? -/
def recordOk (i : Inv) (r : Nat × List W × Bool) : Bool :=
  r.2.2 &&
  match Tab.look i.nodes r.1 with
  | none => false
  | some nd =>
    let w := r.2.1.headD 0
    decide (r.2.1.length = 1 + nd.ext.length) && decide (elemOf (opOf w) = elemOf nd.op) && decide ((getNW w).t1 = nd.w.t1) &&
      decide ((getNW w).t2 = nd.w.t2)

/-- Does a target keep R58: a node of the invocation and a field that it uses, or none with index zero? -/
def targetKeeps (i : Inv) (t : BitVec 16) : Bool :=
  match targetOf t with
  | none => decide (bits t.toNat 15 2 = 0)
  | some (d, f) => match Tab.look i.nodes d with
    | some nd => decide (f ∈ usesOf nd)
    | none => false

/-- Is a record's word legal at the element of its node (R63): by itself, of the element's type, with targets that keep R58? A record of another
word count than its node's, or of no node, is a broken record and brings no word (R242; log 32). -/
def recordLegal (i : Inv) (r : Nat × List W × Bool) : Bool :=
  let w := r.2.1.headD 0
  match Tab.look i.nodes r.1 with
  | some nd =>
    decide (r.2.1.length ≠ 1 + nd.ext.length) ||
    (wordsLegal r.2.1 && targetKeeps i (getNW w).t1 && targetKeeps i (getNW w).t2 && decide (elemOf (opOf w) = elemOf nd.op))
  | none => true

/-- The illegal words of a delta: the node and the word. -/
def illegalIn (i : Inv) (rs : List (Nat × List W × Bool)) : List (Nat × W) :=
  rs.filterMap fun r => if recordLegal i r then none else some (r.1, r.2.1.headD 0)

/-- The place of the illegal word with the lowest source number, and the word (R63). -/
def firstIllegal (ps : List (Place × W)) : Option (Place × W) :=
  ps.foldl (fun m e => match m with
    | none => some e
    | some x => if e.1.src < x.1.src then some e else some x) none

/-- Illegal words of a delta block their elements whole, and one CFG_BLOCKED record goes to the launching thread (R63). -/
def blockWords (s : State) (iid : Nat) (bad : List (Nat × W)) : State :=
  match s.inv iid with
  | none => s
  | some i =>
    let ps := bad.filterMap fun e => (Tab.look i.nodes e.1).map fun nd => (nd.place, e.2)
    let s1 := s.putInv iid (ps.foldl (fun i e => i.onElement e.1 fun c => { c with blocked := true }) i)
    match firstIllegal ps with
    | some (p, w) => recElem s1 i p cBLOCKED w
    | none => s1

/-- What a delta descriptor asks for: the words by node, or how the delta fails: a read error, or a status. -/
inductive DeltaRead where
  | words (ws : Tab (List W))
  | failed (e : ReadErr)
  | status (n : Nat) (bad : List (Nat × W))
  deriving DecidableEq, Repr

/-- Bytes of the words a message carries. -/
def opndBytes (m : Msg) (n : Nat) : List Byte := (m.opnd.take n).flatMap fun w => toBytes 8 w.toNat

/-- The header of a delta: FRESHET's as its issue read it, which the message carries, another's as memory holds it now (R386). -/
def deltaHead (s : State) (m : Msg) (va : Nat) : Except ReadErr (State × List Byte) :=
  if m.op = 0xcf then .ok (s, opndBytes m 2) else readVa s m.who va 16

/-- Read and check a delta descriptor that a message names for an invocation (R242): a bad header is refused, a bad record or an illegal word
blocks. -/
def readDelta (s : State) (m : Msg) (i : Inv) (va : Nat) : State × DeltaRead :=
  match deltaHead s m va with
  | .error e => (s, .failed e)
  | .ok (s1, h) =>
    let n := leAt h 0 2
    if n = 0 ∨ 16384 < n ∨ leAt h 2 14 ≠ 0 then (s1, .status 5 []) else
    match readVa s1 m.who ((va + 16) % 2 ^ 64) (48 * n) with
    | .error e => (s1, .failed e)
    | .ok (s2, bs) =>
      let rs := (upto 0 n).map (deltaRec bs)
      if rs.all (recordOk i) && decide (illegalIn i rs = []) then
        (s2, .words (rs.foldl (fun t r => Tab.put t r.1 r.2.1) []))
      else (s2, .status 3 (illegalIn i rs))

/-- A command that acts meets a failed read or write: REFUSED, and the record with the value of R157 (R386). -/
def refuseRead (m : Msg) (e : Nat × W) (s : State) : State := graphReply m 5 0 (recSender m (srcHard (dieOf m.tid)) e.1 e.2 s)
def refuseFor (m : Msg) (e : ReadErr) (s : State) : State := refuseRead m (dirReadErr e) s

/-- Start a delta by drain or a freshet wave on an invocation: `begin` starts it with the words. -/
def startDelta (m : Msg) (iid va : Nat) (begin : Inv → Inv) (s : State) : State :=
  match s.inv iid with
  | none => graphReply m 6 0 s
  | some i =>
    match readDelta s m i va with
    | (s1, .failed e) => refuseFor m e s1
    | (s1, .status n bad) => graphReply m n 0 (blockWords s1 iid bad)
    | (s1, .words ws) => s1.onInv iid fun i => begin { i with words := ws, cmd := some m }

/-- The command on an invocation is over: the invocation runs on, and the command reports. -/
def endGraphCmd (iid status : Nat) (s : State) : State :=
  match s.inv iid with
  | none => s
  | some i =>
    let s1 := s.putInv iid { i with phase := .run, cmd := none, words := [] }
    match i.cmd with
    | some m => graphReply m status iid s1
    | none => s1

/-! ### By drain (R243) -/

/-- The listed nodes withhold their slots. -/
def beginDrainDelta (i : Inv) : Inv :=
  { i.words.foldl (fun i e => i.onCt e.1 fun c => { c with hold := true }) i with phase := .delta }

/-- No token is present at a node, on its way to it, or in its token-buffer entries. -/
def drained (i : Inv) (n : Nat) : Bool :=
  decide (i.present n = []) && !(i.st n).standing && decide ((i.st n).run = none) && decide ((i.st n).retained = none) &&
  i.links.all (fun l => decide (l.dst ≠ n)) &&
  i.tbuf.all fun b => decide (b.node ≠ n) &&
    match Tab.look i.nodes b.node with
    | some nd => nd.targets.all fun t => !(b.pending t.1 && decide (t.2.1 = n))
    | none => true

/-- DELTA_DRAIN_COMPLETE (R243). -/
def execDeltaDrainComplete (iid : Nat) (s : State) : Out :=
  match s.inv iid with
  | none => .next s
  | some i =>
    if i.phase = .delta ∧ (i.words.all fun e => drained i e.1) = true then
      let i1 := i.words.foldl (fun i e => (i.reconf (constsOf s iid) e.1).onCt e.1 fun c => { c with hold := false }) i
      .next (endGraphCmd iid 0 (s.putInv iid i1))
    else .next s

/-! ### Behind the data (R244, R245) -/

/-- A source without an input, which stops at the start of a wave; a fed AGEN takes FRS as any node. -/
def bareSource (i : Inv) (n : Nat) (nd : Node) : Bool := isSource i n nd && decide (i.fed n nd = []) && !chanWritten nd

/-- The wave starts: bare sources stop, and channels written by the thread take FRS behind their tokens, at once or when a slot frees. -/
def beginWave (iid : Nat) (i : Inv) : Inv :=
  let i1 := i.nodes.foldl (fun a e =>
    if bareSource i e.1 e.2 then a.onCt e.1 fun c => { c with stopped := true }
    else if isSource i e.1 e.2 && chanWritten e.2 then
      (a.onCt e.1 fun c => { c with owed := true }).payFrs iid e.1
    else a) i
  { i1 with phase := .wave }

/-- Can a node still fire on old tokens? -/
def canOld (i : Inv) (n : Nat) (nd : Node) : Bool :=
  (i.frames.filter fun e => decide (e.1 / 65536 = n)).any fun e =>
    let x := e.2
    match nd.op with
    | 0x81 => x.hasP && x.has (if bit x.p.toNat 0 then 0 else 1)
    | 0x99 => x.hasR || (x.hasL && x.hasP)
    | _ => if joinsOf nd = [] then x.hasL || x.hasR || x.hasP else (joinsOf nd).all x.has

/-- FRS stands on every input. -/
def frsStands (i : Inv) (n : Nat) (nd : Node) : Bool :=
  if nd.op = 0x96 then match (i.st n).line with
    | t :: _ => t.flg.frs
    | [] => false
  else (i.fed n nd).all fun f => decide (f ∈ (i.ct n).frs)

/-- What a node still has to send before it reconfigures; a DELAY line or a TOPK group starts to flush, an ACCUM sends ACC. -/
def waveFlush (c : Ctx) : Option (Option State) :=
  let x := c.st
  if c.nd.op = 0x85 ∧ x.line ≠ [] then
    some (if x.flush then none else some (c.s.putInv c.iid (c.i.onSt c.n fun x => { x with flush := true })))
  else if c.nd.op = 0x9a ∧ x.line ≠ [] then
    some (if x.flush then none else some (c.s.putInv c.iid (c.i.onSt c.n fun y =>
      { y with line := topkOut c.fn (topkNM c.lit).1 y.line, flush := true })))
  else if c.nd.op = 0x86 ∧ x.cnt ≠ 0 then
    some (c.passSt [] (fun y => { y with acc := 0, cnt := 0 }) (both (c.res c.base x.acc (resFlg false []))))
  else if c.nd.op ≠ 0x96 ∧ (x.standing = true ∨ x.run ≠ none ∨ x.retained ≠ none ∨ x.score ≠ []) then some none
  else none

/-- A node takes its new words and forwards FRS. -/
def waveTurn (c : Ctx) : Option State :=
  let out : Emit := ⟨none, frsTok c.iid⟩
  if !canSend c.s c.i c.n c.nd c.base [out] then none else
  let s1 := (c.i.present c.n).foldl (orphanField c.n c.iid) c.s
  match s1.inv c.iid with
  | none => none
  | some i =>
    let i1 := if c.nd.op = 0x96 then (i.popChan c.n ((i.st c.n).line.drop 1)).freeChan c.n c.base
      else (i.ct c.n).frs.foldl (fun i f => i.freeField c.n f) i
    let i2 := (i1.reconf (constsOf c.s c.iid) c.n).onCt c.n fun x => { x with frs := [], waved := true, stopped := false }
    some (s1.putInv c.iid ((sendOne c.n c.nd i2 out).activity s1))

/-- The wave is over once every node has reconfigured. -/
def endWave (iid : Nat) (s : State) : State :=
  match s.inv iid with
  | none => s
  | some i =>
    if i.nodes.all fun e => (i.ct e.1).waved then
      endGraphCmd iid 0 (s.putInv iid (i.nodes.foldl (fun a e => a.onCt e.1 fun c => { c with waved := false }) i))
    else s

/-- FRESHET_NODE_RECONFIG (R244). -/
def execFreshetNodeReconfig (iid node : Nat) (s : State) : Out :=
  match s.inv iid with
  | none => .next s
  | some i =>
    match Tab.look i.nodes node with
    | none => .next s
    | some nd =>
      let c : Ctx := ⟨s, iid, i, node, nd, baseTag iid⟩
      if i.phase ≠ .wave ∨ (i.ct node).waved ∨ frsStands i node nd = false ∧ bareSource i node nd = false ∨ canOld i node nd = true then .next s
      else
        match (if bareSource i node nd then none else waveFlush c) with
        | some (some s1) => .next s1
        | some none => .next s
        | none =>
          match waveTurn c with
          | some s1 => .next (endWave iid s1)
          | none => .next s

/-! ### The quiescence detector (R318) -/

/-- Write the stall words in node-index order; stop at the first that cannot be written. -/
def dumpStalls (who : Who) (i : Inv) (base : Nat) : List Nat → State → State × Bool
  | [], s => (s, false)
  | n :: ns, s =>
    match writeVa s who none ((base + 8 * n) % 2 ^ 64) (toBytes 8 (i.ct n).stall.toNat) with
    | .ok s1 => dumpStalls who i base ns s1
    | .error _ => (s, true)

/-- No activity for a window of cycles. -/
def idleFor (s : State) (i : Inv) (win : Nat) : Bool := decide (i.active + win ≤ s.cycle)

/-- Does the detector find the region stalled? -/
def stalledRegion (s : State) (i : Inv) : Bool :=
  decide (i.phase ≠ .out) && decide (i.cmd = none) && !i.raised && decide (i.region.win ≠ 0) && idleFor s i i.region.win &&
  decide (i.pages = 0) && i.standing []

/-- STALL_NOEOS (R318). -/
def execStallNoeos (iid : Nat) (s : State) : Out :=
  match s.inv iid with
  | none => .next s
  | some i =>
    if stalledRegion s i then
      let r := dumpStalls ⟨i.region.die, i.ctxid, i.owner, true, none⟩ i (i.region.dump.toNat + 65536) (i.nodes.map Prod.fst) s
      let s1 := r.1.onInv iid fun i => { i with raised := true }
      .next (recElem s1 i i.region.router cSTALL (w64 (iid + b2n r.2 * 2 ^ 18)))
    else .next s

end Sys2Proof.Machine
end

