-- ==== Sys2Proof/Machine/Save.lean ====
section
/-! DEFINITION. Save areas, the DRAIN and SNAP protocols, restoring an invocation (spec 17_faults R332 to R337, 24_prog_preempt R382,
14_rules R387). -/
namespace Sys2Proof.Machine

/-! ### The save area (R336) -/

/-- Zero bytes. -/
def zeros (n : Nat) : List Byte := List.replicate n 0

/-- A token entry with its insertion sequence, for nodes that keep one. -/
def tokSeq (t : Tok) : List Byte := tokBytes t ++ toBytes 4 t.seq
def tokOfSeq (bs : List Byte) : Tok := { tokOfBytes bs with seq := leAt bs 16 4 }

/-- Pending outputs of a node: how many, the field they answer, each with its target. -/
def outsBytes (x : NodeSt) : List Byte :=
  toBytes 4 x.outs.length ++ toBytes 4 x.st ++ x.outs.flatMap fun e => toBytes 4 e.1 ++ tokSeq e.2
def outsOf (bs : List Byte) : List (Nat × Tok) := (upto 0 (leAt bs 0 4)).map fun k => (leAt bs (8 + 24 * k) 4, tokOfSeq (bs.drop (12 + 24 * k)))

/-- A retained token. -/
def keptBytes (t : Option Tok) : List Byte := match t with
  | some t => toBytes 4 1 ++ tokBytes t
  | none => zeros 20
def keptOf (bs : List Byte) : Option Tok := if leAt bs 0 4 = 1 then some (tokOfBytes (bs.drop 4)) else none

/-- An element register (R81). -/
def regBytes (hi mid : Nat) : List Byte := zeros 4 ++ toBytes 4 mid ++ toBytes 8 hi

/-- A beta-memory entry (R273). -/
def betaBytes (b : Beta) : List Byte :=
  toBytes 8 b.m.toNat ++ toBytes 6 (b.tts.getD 0 0) ++ toBytes 6 (b.tts.getD 1 0) ++ toBytes 6 (b.tts.getD 2 0) ++ toBytes 4 b.seq ++ toBytes 2 b.count
def betaOf (bs : List Byte) : Beta :=
  let m := w64 (leAt bs 0 8)
  ⟨m, (upto 0 (fld m 61 60)).map (fun k => leAt bs (8 + 6 * k) 6), leAt bs 26 4, leAt bs 30 2⟩

/-- A retained token or pending output, when there is one. -/
def memSt (x : NodeSt) : List Byte :=
  if x.retained = none ∧ x.outs = [] ∧ x.line = [] ∧ x.busy = false ∧ x.flush = false then []
  else keptBytes x.retained ++ toBytes 1 (b2n x.busy) ++ toBytes 1 (b2n x.flush) ++ toBytes 2 0 ++ toBytes 4 x.line.length ++
    (x.line.flatMap tokBytes) ++ outsBytes x

/-- The state of a node as its record holds it, in the layouts of R81, R82, R210, R223 and R273; empty for a node without state. -/
def stBytes (i : Inv) (base n : Nat) (nd : Node) : List Byte :=
  let x := i.st n
  match nd.op with
  | 0x83 => toBytes 2 x.cnt
  | 0x84 => toBytes 2 (if x.busy then x.cnt else 0)
  | 0x85 => x.line.flatMap tokBytes
  | 0x86 | 0x87 => regBytes x.acc.toNat x.cnt
  | 0x89 => toBytes 1 (b2n x.sent)
  | 0x8a =>
    (match x.run with
    | some r => toBytes 4 1 ++ toBytes 4 r.next ++ toBytes 4 r.handle ++ tokBytes r.tok
    | none => zeros 28) ++ keptBytes x.retained
  | 0x8b | 0x8c => memSt x
  | 0x91 => toBytes 8 x.acc.toNat ++ zeros 6 ++ toBytes 2 x.st
  | 0x94 => toBytes ((2 ^ i.k + 7) / 8) (((i.st ((laneOwner i).getD n)).lanes).foldl (fun a l => a + 2 ^ l) 0)
  | 0x99 =>
    toBytes 4 x.rr ++
    ((upto 0 (exDests nd)).flatMap fun d => toBytes 4 (exQ x d).length ++ toBytes 4 (exSpc x d) ++ toBytes 4 (Tab.getD x.drops d 0)) ++
    ((upto 0 (exDests nd)).flatMap fun d => (exQ x d).flatMap tokBytes) ++ if x.outs = [] then [] else outsBytes x
  | 0x9a => toBytes 4 x.line.length ++ toBytes 4 (b2n x.flush) ++ (x.line.flatMap tokBytes) ++ zeros (16 * (8 - x.line.length))
  | 0x9b =>
    keptBytes x.retained ++
    (upto 0 (spillDests i n)).flatMap fun d => toBytes 4 (exSpc x d) ++ toBytes 4 (Tab.getD x.wrote d 0)
  | 0xb3 => toBytes 4 x.const
  | 0xb4 | 0xb5 =>
    ((upto 0 (2 ^ i.k)).flatMap fun j =>
      let s := i.slot n ((base + j) % 65536)
      toBytes 4 s.lseq ++ toBytes 4 s.rseq) ++ outsBytes x
  | 0xb6 => toBytes 4 x.beta.length ++ (x.beta.flatMap betaBytes) ++ outsBytes x
  | 0xb8 => toBytes 4 x.score.length ++ x.score.flatMap fun e => toBytes 4 e.1 ++ toBytes 4 e.2
  | _ => []

/-- What the bytes of a record restore. -/
def stOfBytes (i : Inv) (n : Nat) (nd : Node) (bs : List Byte) : NodeSt :=
  let z := initSt nd []
  let toks := fun (at_ count : Nat) => (upto 0 count).map fun k => tokOfBytes (bs.drop (at_ + 16 * k))
  match nd.op with
  | 0x83 => { z with cnt := leAt bs 0 2 }
  | 0x84 => { z with cnt := leAt bs 0 2, busy := decide (leAt bs 0 2 ≠ 0) }
  | 0x85 =>
    let line := toks 0 (bs.length / 16)
    { z with line := line, flush := line.any fun t => t.flg.ends }
  | 0x86 => { z with acc := w64 (leAt bs 8 8), cnt := leAt bs 4 4 }
  | 0x87 =>
    let rem := leAt bs 4 4
    { z with acc := w64 (leAt bs 8 8), cnt := rem, busy := decide (nd.w.fn = 1) && decide (rem ≠ 0), emits := nd.w.lit.toNat + 1 - rem }
  | 0x89 => { z with sent := decide (leAt bs 0 1 = 1), emits := leAt bs 0 1 }
  | 0x8a => { z with
      run := if leAt bs 0 4 = 1 then some ⟨leAt bs 4 4, leAt bs 8 4, tokOfBytes (bs.drop 12)⟩ else none,
      retained := keptOf (bs.drop 28) }
  | 0x8b | 0x8c =>
    if bs = [] then z else
    let k := leAt bs 24 4
    { z with retained := keptOf bs, busy := decide (leAt bs 20 1 = 1), flush := decide (leAt bs 21 1 = 1), line := toks 28 k,
             outs := outsOf (bs.drop (28 + 16 * k)), st := leAt bs (32 + 16 * k) 4 }
  | 0x91 => { z with acc := w64 (leAt bs 0 8), st := leAt bs 14 2 }
  | 0x94 => { z with lanes := (upto 0 (2 ^ i.k)).filter fun l => bit (ofBytes bs) l }
  | 0x99 =>
    let ds := upto 0 (exDests nd)
    let cnt := fun (d : Nat) => leAt bs (4 + 12 * d) 4
    let start := fun (d : Nat) => 4 + 12 * exDests nd + 16 * ((upto 0 d).foldl (fun a e => a + cnt e) 0)
    { z with
      rr := leAt bs 0 4,
      outs := if start (exDests nd) < bs.length then outsOf (bs.drop (start (exDests nd))) else [],
      queues := ds.foldl (fun q d => Tab.set q [] d (toks (start d) (cnt d))) [],
      spill := ds.foldl (fun q d => Tab.set q [] d (List.replicate (leAt bs (8 + 12 * d) 4) ⟨0, 0, .zero, 0⟩)) [],
      drops := ds.foldl (fun q d => Tab.set q 0 d (leAt bs (12 + 12 * d) 4)) [] }
  | 0x9a => { z with line := toks 8 (min 8 (leAt bs 0 4)), flush := decide (leAt bs 4 4 = 1) }
  | 0x9b =>
    let ds := upto 0 (spillDests i n)
    { z with
      retained := keptOf bs,
      spill := ds.foldl (fun q d => Tab.set q [] d (List.replicate (leAt bs (20 + 8 * d) 4) ⟨0, 0, .zero, 0⟩)) [],
      wrote := ds.foldl (fun q d => Tab.set q 0 d (leAt bs (24 + 8 * d) 4)) [] }
  | 0xb3 => { z with const := leAt bs 0 4 }
  | 0xb4 | 0xb5 => { z with outs := outsOf (bs.drop (8 * 2 ^ i.k)), st := leAt bs (8 * 2 ^ i.k + 4) 4 }
  | 0xb6 =>
    let k := leAt bs 0 4
    { z with beta := (upto 0 k).map (fun j => betaOf (bs.drop (4 + 32 * j))), outs := outsOf (bs.drop (4 + 32 * k)), st := leAt bs (8 + 32 * k) 4 }
  | 0xb8 => { z with score := (upto 0 (leAt bs 0 4)).foldl (fun t j => Tab.put t (leAt bs (4 + 8 * j) 4) (leAt bs (8 + 8 * j) 4)) [] }
  | _ => z

/-- The relative core under which a node's frame stands: AG cells and Basin ports have none. -/
def frameCore (nd : Node) : Nat := if nd.place.elem = 6 ∨ nd.place.elem = 8 then 0 else nd.place.ry * 24 + nd.place.rx

/-- Nodes in the order of their frames. -/
def frameOrder (i : Inv) : List Nat := (sortBy (fun a b => decide (frameCore a.2 < frameCore b.2)) i.nodes).map Prod.fst

/-- A channel entry and a link record (R336). -/
def chanEntry (n : Nat) (t : Tok) : List Byte := toBytes 8 t.v.toNat ++ toBytes 2 t.tag ++ toBytes 1 t.flg.bits ++ toBytes 2 n ++ zeros 3
def linkRec (l : Link) : List Byte := tokBytes l.tok ++ toBytes 2 (l.dst * 4 + l.field) ++ toBytes 2 l.node ++ zeros 12

/-- The parts of a save area: node records, frames, channel entries, link records. -/
def savedNodes (i : Inv) (base : Nat) : List Byte :=
  i.nodes.flatMap fun e =>
    let st := stBytes i base e.1 e.2
    if st = [] then [] else toBytes 2 e.1 ++ toBytes 2 0 ++ toBytes 4 st.length ++ st
def savedFrames (i : Inv) (base : Nat) : List Byte :=
  (frameOrder i).flatMap fun n => (upto base (2 ^ i.k)).flatMap fun t => slotBytes (t % 65536) (i.slot n (t % 65536))
def savedChans (i : Inv) : List Byte :=
  (i.nodes.filter fun e => decide (e.2.op = 0x96)).flatMap fun e => (i.st e.1).line.flatMap (chanEntry e.1)

/-- The bytes of a save area of a kind. -/
def saveBytes (i : Inv) (iid kind : Nat) : List Byte :=
  let ns := savedNodes i (baseTag iid)
  let fs := savedFrames i (baseTag iid)
  let cs := savedChans i
  let ls := i.links2.flatMap linkRec
  let o1 := 64
  let o2 := o1 + ns.length
  let o3 := o2 + fs.length
  let o4 := o3 + cs.length
  toBytes 1 kind ++ toBytes 1 i.k ++ toBytes 2 i.nodes.length ++ toBytes 2 (baseTag iid) ++ toBytes 1 i.region.w ++ toBytes 1 i.region.h ++
  (i.image ++ zeros 16).take 16 ++ toBytes 8 (o4 + ls.length) ++ toBytes 8 o1 ++ toBytes 8 o2 ++ toBytes 8 o3 ++ toBytes 8 o4 ++
  ns ++ fs ++ cs ++ ls

/-- Every token on a route or in a token buffer, as link tokens (R335). -/
def looseLinks (i : Inv) : List Link :=
  i.links.filter (fun l => !l.tok.flg.mrk) ++
  i.tbuf.flatMap fun b => if b.tok.flg.mrk then [] else
    (if b.pt1 then (linkOf i b 0).toList else []) ++ if b.pt2 then (linkOf i b 1).toList else []

/-- The invocation with every loose token recorded on its link. -/
def Inv.loosen (i : Inv) : Inv := { i with links2 := i.links2 ++ looseLinks i, links := [], tbuf := [] }

/-- The size that a save would take now (R241): loose tokens count as link records. -/
def saveSize (i : Inv) (iid : Nat) : Nat := (saveBytes i.loosen iid 1).length

/-! ### Completing a save -/

/-- Write bytes 64 at a time; stop at the first failure. -/
def writeUpTo (who : Who) (va : Nat) : Nat → List Byte → State → State × Option (XKind × Nat)
  | 0, _, s => (s, none)
  | _ + 1, [], s => (s, none)
  | k + 1, bs, s =>
    match writeVa s who none va (bs.take 64) with
    | .ok s1 => writeUpTo who ((va + 64) % 2 ^ 64) k (bs.drop 64) s1
    | .error e => (s, some e)

/-- Nodes that take no turn any more run on when they are restored; a retained address is translated again (R337); its legal
words reach elements of their own, which are not blocked (R63). -/
def wakeNodes (i : Inv) : Inv :=
  { i with ctl := i.ctl.map (fun e => (e.1, { e.2 with marks := [], saved := false, stopped := false, blocked := false })),
           nst := i.nst.map (fun e => (e.1, { e.2 with retained := none })), pages := 0 }

/-- The invocation is held out (R332, R387): its region is free and its PART is kept, its loose tokens wait on their links. -/
def holdOut (iid : Nat) (s : State) : State :=
  s.onInv iid fun i =>
    { wakeNodes i.loosen with
      phase := .out, saver := .none, cmd := none,
      region := { i.region with part := s.mem.partOf (coreNo i.region.die i.region.y0 i.region.x0) } }

/-- PART of an invocation's cores. -/
def partOfInv (s : State) (i : Inv) : Nat := s.mem.partOf (coreNo i.region.die i.region.y0 i.region.x0)

/-- A core's place in a region, from its origin in rows. -/
def coreIn (r : Region) (core : Nat) : Nat := (core % 384 / 24 - r.y0) * r.w + (core % 24 - r.x0)

/-- The entries of a table of n a core that belong to the cores of a region, by the core's place there; and those entries at the cores of a
region. -/
def entriesOf {α : Type} (r : Region) (n : Nat) (t : Tab α) : Tab α :=
  (t.filter fun e => r.has (e.1 / n)).map fun e => (coreIn r (e.1 / n) * n + e.1 % n, e.2)
def entriesTo {α : Type} (r : Region) (n : Nat) (es t : Tab α) : Tab α :=
  es.foldl (fun t e => Tab.put t (coreNo r.die (r.y0 + e.1 / n / r.w) (r.x0 + e.1 / n % r.w) * n + e.1 % n) e.2)
    (t.filter fun e => !r.has (e.1 / n))

/-- Is a tile being written or read? The tiles that an invocation's MSTORE streams are writing. -/
def TileSt.inUse (t : TileSt) : Bool := decide (t = .filling ∨ t = .draining)
def Inv.streams (i : Inv) : List Nat :=
  (i.nodes.filter fun e => decide (e.2.op = 0x8c) && bit e.2.w.lit.toNat 0 && (i.st e.1).busy).map fun e => e.2.place.core * 256 + bits e.2.w.lit.toNat 8 1

/-- The hard core keeps what a save area has no place for (R336) and GREST writes back: PART, tile-table entries, operand rings (R139, R247, R301;
log 78); tiles that commands or tile tasks are using are theirs. -/
def noteSave (m : Msg) (i : Inv) (iid : Nat) (s : State) : State :=
  let still := s.tab.tiles.filter fun e => !e.2.st.inUse || decide (e.1 ∈ i.streams)
  let x : Saved := ⟨m.ctxid, m.a, i.image, baseTag iid, partOfInv s i, entriesOf i.region 256 still, entriesOf i.region 16 s.tab.orings⟩
  let old := s.fab.saves.filter fun e => !(decide (e.ctxid = x.ctxid) && decide (e.va = x.va))
  { s with fab := { s.fab with saves := x :: old } }

/-- A command's save is complete (R239, R386, R387). -/
def finishCommand (iid : Nat) (i : Inv) (m : Msg) (s : State) : State :=
  let i0 := i.loosen
  let s0 := s.putInv iid { i0 with cmd := none }
  if m.fn = 1 then graphReply m 0 iid (endInv s0 iid) else
  let bs := saveBytes i0 iid (if m.op = 0xc9 then 1 else 2)
  let s0 := noteSave m i0 iid s0
  match writeUpTo m.who m.a.toNat (bs.length / 64 + 1) bs s0 with
  | (s1, none) => if i.network then graphReply m 0 iid (holdOut iid s1) else graphReply m 0 iid (endInv s1 iid)
  | (s1, some (k, va)) =>
    refuseRead m (cPAGE, pageValue k .write va) (endInv (saveWrite m 0 [0] s1) iid)

/-- The scheduler's save is complete: the invocation is held out, and its request rejoins its level at the tail (R331, R332). -/
def finishScheduler (iid : Nat) (i : Inv) (s : State) : State :=
  let r : Request := ⟨i.region.die, none, i.region.w, i.region.h, i.region.level, i.region.prio, i.region.quant, s.gtsc, none, iid⟩
  let s1 := holdOut iid s
  { s1 with fab := { s1.fab with reqs := s1.fab.reqs ++ [r] } }

/-- A save is complete. -/
def finishSave (iid : Nat) (s : State) : State :=
  match s.inv iid with
  | none => s
  | some i =>
    match i.saver, i.cmd with
    | .command, some m => finishCommand iid i m s
    | .scheduler, _ => finishScheduler iid i s
    | _, _ => s

/-! ### SNAP (R335, R382) -/

/-- The marker of an invocation. -/
def markTok (iid : Nat) : Tok := ⟨0, baseTag iid, ⟨false, false, false, true, false⟩, 0⟩

/-- The fields that forward edges feed. -/
def forwardFields (i : Inv) (n : Nat) (nd : Node) : List Nat :=
  (i.fed n nd).filter fun f => match feeder i.nodes n f with
    | some (p, _) => decide (p < n)
    | none => false

/-- Send a marker to each target, behind the node's tokens. -/
def sendMarker (iid n : Nat) (i : Inv) : Inv :=
  match Tab.look i.nodes n with
  | none => i
  | some nd =>
    let ts := nd.targets
    if ts = [] then i
    else { i with tbuf := i.tbuf ++ [⟨markTok iid, n, ts.any fun t => decide (t.1 = 0), ts.any fun t => decide (t.1 = 1)⟩] }

/-- Has the cell of a node room for the marker that it forwards (R80)? -/
def markerRoom (s : State) (iid n : Nat) (i : Inv) : Bool :=
  match Tab.look i.nodes n with
  | some nd => bufRoom s i nd [⟨none, markTok iid⟩]
  | none => true

/-- A node saves: the slots of the tokens it holds in fields go back, and it forwards the marker, unless it was a fed source. -/
def saveNode (iid n : Nat) (i : Inv) : Inv :=
  let i1 := (i.present n).foldl (fun a e => a.freeField n e.2) i
  let sent := (i.ct n).stopped
  let i2 := i1.onCt n fun c => { c with saved := true }
  if sent then i2 else sendMarker iid n i2

/-- Does the dot block of a node of an invocation run a record? Such a node saves after its reply. -/
def dotRuns (s : State) (iid : Nat) (n : Option Nat) : Bool :=
  s.eng.dots.any fun e => match e.2.node with
    | some (k, m, _) => decide (k = iid) && (decide (n = none) || decide (n = some m))
    | none => false

/-- The snapshot starts: nodes without a forward edge save, but for one whose cell has no room for its marker, which saves when it has; a fed
AGEN stops behind its marker. -/
def beginSnap (s : State) (iid : Nat) (i : Inv) : Inv :=
  let i1 := i.nodes.foldl (fun a e =>
    if forwardFields i e.1 e.2 = [] then (if dotRuns s iid (some e.1) || !markerRoom s iid e.1 a then a else saveNode iid e.1 a)
    else if isSource i e.1 e.2 then (sendMarker iid e.1 a).onCt e.1 fun c => { c with stopped := true }
    else a) i
  { i1 with phase := .snap }

/-- Nodes have saved in this cycle (R382). -/
def markSaving (iid : Nat) (ns : List Nat) (s : State) : State := ns.foldl (fun s n => s.mark (.saving iid n)) s

/-- The snapshot of an invocation starts, with the nodes that save in this cycle (R382). -/
def startSnap (iid : Nat) (i : Inv) (s : State) : State :=
  let i1 := beginSnap s iid i
  markSaving iid ((i1.nodes.map Prod.fst).filter fun n => (i1.ct n).saved) (s.putInv iid i1)

/-- The snapshot is complete when every node has saved and nothing is under way. -/
def snapStep (iid : Nat) (s : State) : State :=
  match s.inv iid with
  | none => s
  | some i =>
    if i.phase = .snap ∧ (i.nodes.all fun e => (i.ct e.1).saved) = true ∧ i.tbuf.all (fun b => b.tok.flg.mrk) = true ∧
      i.links.all (fun l => l.tok.flg.mrk) = true then finishSave iid s
    else s

/-- SNAP_NODE_SAVE (R335). -/
def execSnapNodeSave (iid node : Nat) (s : State) : Out :=
  match s.inv iid with
  | none => .next s
  | some i =>
    match Tab.look i.nodes node with
    | none => .next s
    | some nd =>
      if i.phase = .snap ∧ (i.ct node).saved = false ∧ dotRuns s iid (some node) = false ∧ markerRoom s iid node i = true ∧
        (forwardFields i node nd).all (fun f => decide (f ∈ (i.ct node).marks)) = true then
        .next (snapStep iid (markSaving iid [node] (s.putInv iid (saveNode iid node i))))
      else .next s

/-- LINK_TOKEN_RECORD (R335, R382): a token that reaches a saved node is recorded, and its slot returns at once. -/
def execLinkTokenRecord (iid k : Nat) (s : State) : Out :=
  match s.inv iid with
  | none => .next s
  | some i =>
    match i.links[k]? with
    | none => .next s
    | some l =>
      if i.phase = .snap ∧ (i.ct l.dst).saved = true ∧ l.tok.flg.mrk = false ∧ firstLink i k l = true ∧ arrivesNow s iid i l = false then
        let i1 := { i with links := dropAt i.links k, links2 := i.links2 ++ [l] }
        .next (snapStep iid (s.putInv iid (i1.give (sendKey i l.node l.which l.dst l.tok.tag))))
      else .next s

/-- The window of DRAIN and SNAP (R334). -/
def saveWindow (i : Inv) : Nat := if i.region.win = 0 then 65536 else i.region.win

/-- SNAP_FORCED_SAVE (R335): unsaved nodes save at once, loose tokens are recorded. -/
def execSnapForcedSave (iid : Nat) (s : State) : Out :=
  match s.inv iid with
  | none => .next s
  | some i =>
    if i.phase = .snap ∧ idleFor s i (saveWindow i) = true ∧ dotRuns s iid none = false then .next (finishSave iid s)
    else .next s

/-! ### DRAIN (R334) -/

/-- The sources stop. -/
def beginDrain (i : Inv) : Inv :=
  let i1 := i.nodes.foldl (fun a e => if isSource i e.1 e.2 && decide (e.2.op ≠ 0x96) then a.onCt e.1 fun c => { c with stopped := true } else a) i
  { i1 with phase := .drain }

/-- No token stands in any field, token buffer, router or channel. -/
def drainEmpty (i : Inv) : Bool :=
  i.frames.all (fun e => !(e.2.hasL || e.2.hasR || e.2.hasP)) && decide (i.tbuf = []) && decide (i.links = []) &&
  i.nodes.all fun e => decide (e.2.op ≠ 0x96) || decide ((i.st e.1).line = [])

/-- DRAIN_COMPLETE (R334). -/
def execDrainComplete (iid : Nat) (s : State) : Out :=
  match s.inv iid with
  | none => .next s
  | some i => if i.phase = .drain ∧ (drainEmpty i || idleFor s i (saveWindow i)) = true ∧ dotRuns s iid none = false then .next (finishSave iid s) else .next s

/-! ### Restoring (R337) -/

/-- The place of a node at an origin. -/
def Place.at_ (p : Place) (die x0 y0 : Nat) : Place :=
  match p.elem with
  | 6 => { p with slot := match p.rx with
      | 0 => x0 + p.ry
      | 1 => 24 + y0 + p.ry
      | 2 => 40 + x0 + p.ry
      | _ => 64 + y0 + p.ry, core := coreNo die 0 0 }
  | 8 => { p with core := coreNo die 0 0 }
  | _ => { p with core := coreNo die (y0 + p.ry) (x0 + p.rx) }

/-- Free-slot counts as the tokens that are present, in rings and on links make them. -/
def rebuildUsed (i : Inv) : Inv :=
  let keys :=
    (i.nodes.flatMap fun e => (i.present e.1).filterMap fun p => (feeder i.nodes e.1 p.2).map fun q => usedKey q.1 q.2 0) ++
    (i.nodes.filter fun e => decide (e.2.op = 0x96)).flatMap (fun e => (i.st e.1).line.filterMap fun t =>
      if chanWritten e.2 then some (usedKey (threadProducer e.1) 0 0) else
        some (match feeder i.nodes e.1 0 with
          | some q => usedKey q.1 q.2 (if aaDests e.2 = 0 then 0 else t.tag)
          | none => rootKey e.1)) ++
    i.links.map fun l => sendKey i l.node l.which l.dst l.tok.tag
  keys.foldl Inv.take { i with used := [], credits := [] }

/-- A held-out invocation runs again: recorded tokens stand on their links, counts are rebuilt, the region is its own. -/
def reviveInv (r : Region) (now : Nat) (i : Inv) : Inv :=
  let nodes := i.nodes.map fun e => (e.1, { e.2 with place := e.2.place.at_ r.die r.x0 r.y0 })
  rebuildUsed { wakeNodes i with nodes := nodes, region := r, phase := .run, links := i.links2 ++ i.links, links2 := [], active := now, raised := false,
                                 cmd := none, saver := .none }

end Sys2Proof.Machine
end

