-- ==== Sys2Proof/Machine/Sha.lean ====
section
/-! DEFINITION. SHA-256, which image ids (R68), firmware checks and measurements (R361 to R368) name: FIPS 180-4 gives it (log 21). -/
namespace Sys2Proof.Machine

/-- Is n free of divisors from 2 to d? -/
def noDivisor (n : Nat) : Nat → Bool
  | 0 => true
  | d + 1 => (d = 0 || n % (d + 1) ≠ 0) && noDivisor n d

/-- The primes below 312: the first 64. -/
def shaPrimes : List Nat := (upto 2 310).filter fun n => noDivisor n (n - 1)

/-- The greatest r < lo + 2^k, from lo on, whose e-th power is at most n. -/
def rootFloor (e n : Nat) : Nat → Nat → Nat
  | 0, lo => lo
  | k + 1, lo => rootFloor e n k (if (lo + 2 ^ k) ^ e ≤ n then lo + 2 ^ k else lo)

/-- The first 32 bits of the fractional part of the e-th root of a prime. -/
def rootBits (e p : Nat) : BitVec 32 := BitVec.ofNat 32 (rootFloor e (p * 2 ^ (32 * e)) 37 0)

/-- The round constants come from the cube roots of the first 64 primes. -/
def shaK : List (BitVec 32) := shaPrimes.map (rootBits 3)

/-- The eight working words. -/
structure Sha where
  a : BitVec 32
  b : BitVec 32
  c : BitVec 32
  d : BitVec 32
  e : BitVec 32
  f : BitVec 32
  g : BitVec 32
  h : BitVec 32
  deriving DecidableEq, Repr

/-- The initial hash value comes from the square roots of the first eight primes. -/
def Sha.init : Sha :=
  let r := fun (k : Nat) => rootBits 2 (shaPrimes.getD k 0)
  ⟨r 0, r 1, r 2, r 3, r 4, r 5, r 6, r 7⟩

/-- One round. -/
def Sha.round (x : Sha) (k w : BitVec 32) : Sha :=
  let s1 := x.e.rotateRight 6 ^^^ x.e.rotateRight 11 ^^^ x.e.rotateRight 25
  let ch := (x.e &&& x.f) ^^^ (~~~x.e &&& x.g)
  let t1 := x.h + s1 + ch + k + w
  let s0 := x.a.rotateRight 2 ^^^ x.a.rotateRight 13 ^^^ x.a.rotateRight 22
  let maj := (x.a &&& x.b) ^^^ (x.a &&& x.c) ^^^ (x.b &&& x.c)
  ⟨t1 + (s0 + maj), x.a, x.b, x.c, x.d + t1, x.e, x.f, x.g⟩

/-- The big-endian number of some bytes, and the big-endian bytes of a number. -/
def beNat (bs : List Byte) : Nat := bs.foldl (fun a b => a * 256 + b.toNat) 0
def beBytes (n v : Nat) : List Byte := (toBytes n v).reverse

/-- The message schedule, newest word first, after its first 16. -/
def shaSchedule : Nat → List (BitVec 32) → List (BitVec 32)
  | 0, ws => ws
  | n + 1, ws =>
    let w := fun (k : Nat) => ws.getD k 0
    let s0 := (w 14).rotateRight 7 ^^^ (w 14).rotateRight 18 ^^^ ((w 14) >>> 3)
    let s1 := (w 1).rotateRight 17 ^^^ (w 1).rotateRight 19 ^^^ ((w 1) >>> 10)
    shaSchedule n ((s1 + w 6 + s0 + w 15) :: ws)

/-- One 64-byte block. -/
def shaBlock (x : Sha) (bs : List Byte) : Sha :=
  let ws := ((upto 0 16).map fun k => BitVec.ofNat 32 (beNat ((bs.drop (4 * k)).take 4))).reverse
  let y := (shaK.zip (shaSchedule 48 ws).reverse).foldl (fun x e => x.round e.1 e.2) x
  ⟨x.a + y.a, x.b + y.b, x.c + y.c, x.d + y.d, x.e + y.e, x.f + y.f, x.g + y.g, x.h + y.h⟩

/-- The digest of some bytes. -/
def sha256 (bs : List Byte) : List Byte :=
  let n := bs.length
  let msg := bs ++ [0x80] ++ List.replicate ((119 - n % 64) % 64) 0 ++ beBytes 8 (8 * n)
  let x := (upto 0 (msg.length / 64)).foldl (fun x k => shaBlock x ((msg.drop (64 * k)).take 64)) Sha.init
  [x.a, x.b, x.c, x.d, x.e, x.f, x.g, x.h].flatMap fun w => beBytes 4 w.toNat

/-- A graph's image id (R68). -/
def imageId (section_ : List Byte) : List Byte := (sha256 section_).take 16

end Sys2Proof.Machine
end

