-- ==== Sys2Proof/Machine/Image.lean ====
section
/-! DEFINITION. Graph and rules sections, the loader's checks, placement (spec 03_encoding R58 to R69, 02_machine R42, R43, 12_nodes R235,
13_tables R262, 14_rules R264, R271). -/
namespace Sys2Proof.Machine

/-! ### Sections (R67) -/

/-- A parsed section: scope, tag-block exponent, nodes with the element type of their record and their words. -/
structure Image where
  scope : Nat
  k : Nat
  nodes : List (Nat × List W)
  deriving DecidableEq, Repr

/-- The opcode of a record's words. -/
def wordsOp (ws : List W) : Nat := opOf (ws.headD 0)

/-- Parse n records; none where a record's word count is wrong or bytes are missing or left over. -/
def parseRecs : Nat → List Byte → Option (List (Nat × List W))
  | 0, bs => if bs = [] then some [] else none
  | n + 1, bs =>
    let c := leAt bs 1 1
    let ws := (upto 0 c).map fun j => w64 (leAt bs (8 + 8 * j) 8)
    if bs.length < 8 + 8 * c ∨ c = 0 ∨ leAt bs 2 6 ≠ 0 ∨ c ≠ 1 + extCount (wordsOp ws) then none
    else (parseRecs n (bs.drop (8 + 8 * c))).map fun rest => (leAt bs 0 1, ws) :: rest

/-- Parse a section. -/
def parseImage (bs : List Byte) : Option Image :=
  let n := leAt bs 0 2
  if bs.length < 32 ∨ n = 0 ∨ 16384 < n ∨ 5 < leAt bs 2 1 ∨ 8 < leAt bs 3 1 ∨ leAt bs 4 28 ≠ 0 then none
  else (parseRecs n (bs.drop 32)).map fun ns => ⟨leAt bs 2 1, leAt bs 3 1, ns⟩

/-- The section of a module by its index: its kind and bytes. -/
def sectionOf (s : State) (modul index : Nat) : Option (Nat × List Byte) :=
  (Tab.look s.fab.modules modul).bind fun m => m.sections[index]?

/-- A node before it is placed. -/
def Image.node (im : Image) (n : Nat) : Node :=
  let ws := (im.nodes.getD n (0, [])).2
  ⟨ws.headD 0, ws.drop 1, ⟨0, 0, 0, 0, 0⟩⟩
def Image.table (im : Image) : Tab Node := (upto 0 im.nodes.length).map fun n => (n, im.node n)

/-- Channels bound to a q register: node, q number, whether the thread writes it (R21). -/
def Image.bound (im : Image) : List (Nat × Nat × Bool × Nat) :=
  (im.table.filter fun e => chanBound e.2).map fun e => (e.1, chanQ e.2, decide (e.2.targets ≠ []), chanCap e.2)

/-! ### The loader's checks -/

/-- Every target names a used field of a node, and none names one twice (R37, R58). -/
def targetsChecked (im : Image) : Bool :=
  let t := im.table
  let all := t.flatMap fun e => e.2.targets.map fun x => x.2
  t.all (fun e => targetOk e.2.w.t1 && targetOk e.2.w.t2) &&
  all.all (fun x => decide (x.1 < im.nodes.length) && decide (x.2 ∈ usesOf (im.node x.1))) && decide (all.eraseDups.length = all.length)

/-- Is an opcode a match node (R264)? -/
def isMatch (op : Nat) : Bool := decide (0xb3 ≤ op) && decide (op ≤ 0xb8)

/-- What single nodes ask of their image: a triggered GEN its source, an EXPERT its lanes, an all-to-all channel its capacity, SPILL
its EXPERT (R212, R224, R233). -/
def nodeChecked (im : Image) (n : Nat) (nd : Node) : Bool :=
  let t := im.table
  match nd.op with
  | 0x87 => if nd.w.fn = 1 then (feeder t n 0).isSome else true
  | 0x96 => decide (aaDests nd ≤ chanCap nd)
  | 0x99 =>
    decide (exDests nd ≤ 2 ^ im.k) &&
    (decide (exMode nd ≠ 1) || match targetOf nd.w.t2 with
      | some (d, _) => decide ((im.node d).op = 0x9b)
      | none => false)
  | 0x9b => match targetOf nd.w.t1 with
    | some (d, f) => decide ((im.node d).op = 0x99) && decide (f = 1) && decide (feeder t n 0 = some (d, 1))
    | none => false
  | _ => true

/-- WMEs in the plus matches that a node sends (R270, R274), over chains of at most `fuel` nodes. -/
def matchWidth (t : Tab Node) : Nat → Nat → Nat
  | 0, _ => 4
  | fuel + 1, n =>
    let l := match feeder t n 0 with
      | some (p, _) => matchWidth t fuel p
      | none => 1
    match Tab.look t n with
    | some nd => if nd.op = 0xb4 then l + 1 else l
    | none => l

/-- The key of a MEMB equals a side of its join, and its wid position too (R271). -/
def keyEqual (memb : Node) (p a : Nat) : Bool :=
  let l := memb.w.lit.toNat
  decide (memb.op = 0xb6) && decide (bits l 12 11 = p) && decide (bits l 10 7 = a)

/-- A join's inputs (R271), but for their cores. -/
def joinChecked (im : Image) (n : Nat) (nd : Node) : Bool :=
  if nd.op = 0xb4 ∨ nd.op = 0xb5 then
    let t := im.table
    let lit := nd.w.lit.toNat
    match feeder t n 0, feeder t n 1 with
    | some (a, _), some (b, _) =>
      keyEqual (im.node a) (bits lit 12 11) (bits lit 10 7) && keyEqual (im.node b) 0 (bits lit 6 3) &&
      decide (matchWidth t (im.nodes.length + 1) b = 1)
    | _, _ => false
  else true

/-- Does the loader accept a parsed section of a kind? -/
def loaderOk (kind : Nat) (im : Image) : Bool :=
  targetsChecked im && im.table.all (fun e => nodeChecked im e.1 e.2) &&
  (if kind = 3 then im.table.all fun e => joinChecked im e.1 e.2 else im.table.all fun e => !isMatch e.2.op) &&
  decide ((im.bound.map fun b => b.2.1).eraseDups.length = im.bound.length)

/-- Nodes whose words are illegal in their place (R63): the words, or the element type their record gives. -/
def Image.illegal (im : Image) : List Nat :=
  (upto 0 im.nodes.length).filter fun n =>
    let r := im.nodes.getD n (0, [])
    !wordsLegal r.2 || decide (r.1 ≠ elemOf (wordsOp r.2))

/-! ### Placement (R69, R262) -/

/-- A placement: width, height, one node record for each node. -/
structure Plan where
  w : Nat
  h : Nat
  recs : List W
  deriving DecidableEq, Repr

/-- The relative place that a node record gives. -/
def placeOfRec (r : W) : Place :=
  match fld r 39 36 with
  | 6 => ⟨0, 6, 0, fld r 35 34, fld r 33 28⟩
  | 8 => ⟨0, 8, fld r 35 28, 0, 0⟩
  | e => ⟨0, e, fld r 35 28, fld r 55 48, fld r 47 40⟩

/-- A node of the image with its relative place. -/
def placedNode (im : Image) (p : Plan) (n : Nat) : Node := { im.node n with place := placeOfRec (p.recs.getD n 0) }
def placedTable (im : Image) (p : Plan) : Tab Node := (upto 0 im.nodes.length).map fun n => (n, placedNode im p n)

/-- The element that a place names: nodes with one key share its words. -/
def elemKey (p : Place) : Nat × Nat × Nat × Nat :=
  match p.elem with
  | 6 => (6, p.rx, p.ry, 0)
  | 8 => (8, p.slot / 16, 0, 0)
  | e => (e, p.rx, p.ry, 1)

/-- Words that an element holds (R235). -/
def elemCap (e : Nat) : Nat := if e < 4 then 64 else if e = 4 then 32 else if e = 6 then 12 else if e = 7 then 2 else 16

/-- Does the element of a place suit an opcode (R61)? The placer chooses a channel's. -/
def elemSuits (op elem : Nat) : Bool :=
  match elemOf op with
  | 0 => decide (elem < 4)
  | 1 => decide (elem = 4)
  | 2 => decide (elem = 6)
  | 3 => decide (elem = 7)
  | 4 => decide (elem = 8)
  | _ => decide (elem ≤ 5)

/-- Words of a node; its first word's index in its element. -/
def Node.words (nd : Node) : Nat := 1 + nd.ext.length
def Node.first (nd : Node) : Nat := if nd.place.elem = 8 then nd.place.slot % 16 else nd.place.slot

/-- Do two nodes of one element overlap? An AG cell's record gives no word index. -/
def clash (a b : Node) : Bool :=
  decide (elemKey a.place = elemKey b.place) && decide (a.place.elem ≠ 6) && decide (a.first < b.first + b.words) &&
  decide (b.first < a.first + a.words)

/-- The nodes that stand on a relative core. -/
def onCore (t : Tab Node) (x y : Nat) : Tab Node :=
  t.filter fun e => decide (e.2.place.elem ≠ 6) && decide (e.2.place.elem ≠ 8) && decide (e.2.place.rx = x) && decide (e.2.place.ry = y)

/-- A placed node lies in the rectangle and in its element. -/
def inRect (p : Plan) (nd : Node) : Bool :=
  elemSuits nd.op nd.place.elem &&
  match nd.place.elem with
  | 6 => decide (nd.place.ry < if nd.place.rx % 2 = 0 then p.w else p.h)
  | 8 => decide (nd.first + nd.words ≤ 16)
  | e => decide (nd.place.rx < p.w) && decide (nd.place.ry < p.h) && decide (nd.first + nd.words ≤ elemCap e)

/-- Every node pair keeps apart. -/
def apart : Tab Node → Bool
  | [] => true
  | e :: t => (t.all fun x => !clash e.2 x.2) && apart t

/-- Are ranges apart from one another? -/
def spansApart : List (Nat × Nat) → Bool
  | [] => true
  | x :: xs => (xs.all fun y => decide (x.2 ≤ y.1) || decide (y.2 ≤ x.1)) && spansApart xs

/-- Do frames, slots, element registers and queues of the element and core of a placed node fit (R35, R81, R235, R237), under a partition
word, beside the nodes of a table that it stands in? -/
def nodeFits (k : Nat) (p : Plan) (pw : Nat) (t : Tab Node) (nd : Node) : Bool :=
  inRect p nd &&
  (decide (nd.place.elem ≠ 6) ||
    decide (sumOver (t.filter fun x => decide (elemKey x.2.place = elemKey nd.place)) Node.words ≤ 12)) &&
  (decide (4 ≤ nd.place.elem) ||
    decide ((t.filter fun x => decide (elemKey x.2.place = elemKey nd.place) && decide (x.2.op ∈ [0x86, 0x87, 0x91])).length ≤ 8)) &&
  let c := onCore t nd.place.rx nd.place.ry
  let ex := (c.filter fun e => decide (e.2.op = 0x99)).map fun e => exSpan e.2
  decide (c.length * 2 ^ k * 32 ≤ partRF pw * 65536) && decide (scratchEnd c ≤ partSP pw * 65536) && spansApart ex

/-- A placement fits: every node where it stands, and each pair apart. -/
def planFits (im : Image) (p : Plan) (pw : Nat) : Bool :=
  let t := placedTable im p
  decide (p.recs.length = im.nodes.length) && t.all (fun e => nodeFits im.k p pw t e.2) && apart t

/-- FALLOC and FFREE share an M-cell (R230); a join's MEMB nodes share a core (R271), as far as they stand in a table. -/
def tableAllowed (im : Image) (t : Tab Node) : Bool :=
  decide (((t.filter fun e => decide (e.2.op = 0x94) || decide (e.2.op = 0x95)).map fun e => elemKey e.2.place).eraseDups.length ≤ 1) &&
  (upto 0 im.nodes.length).all fun n =>
    let op := (im.node n).op
    if op = 0xb4 ∨ op = 0xb5 then
      match feeder im.table n 0, feeder im.table n 1 with
      | some (a, _), some (b, _) => match Tab.look t a, Tab.look t b with
        | some x, some y => decide (x.place.rx = y.place.rx) && decide (x.place.ry = y.place.ry)
        | _, _ => true
      | _, _ => false
    else true
def planAllowed (im : Image) (p : Plan) : Bool := tableAllowed im (placedTable im p)

/-- The entry of the cache that a new one replaces: the least recently used without a running invocation (R262). -/
def oldestPlaced (ps : List Placed) : Option Placed :=
  ps.foldl (fun m p => if p.users ≠ 0 then m else match m with
    | none => some p
    | some q => if p.last < q.last then some p else m) none

/-- Can a die take a graph of a size (R69): 24 × 16 cores, on die 0 24 × 15? -/
def dieTakes (die w h : Nat) : Bool :=
  decide (1 ≤ w) && decide (w ≤ 24) && decide (1 ≤ h) && decide (h ≤ if die = 0 then 15 else 16)

/-! #### The placer (R69)

What it makes of a graph is Config.place where that is a placement; else the first node places, in order of width, height, core, element and
word, that fit (log 8). -/

/-- May a placement of an image be used on a die: its size, and, of legal words, what elements hold? -/
def planLegal (im : Image) (die pw : Nat) (p : Plan) : Bool :=
  dieTakes die p.w p.h && decide (p.recs.length = im.nodes.length) && (decide (im.illegal ≠ []) || (planFits im p pw && planAllowed im p))

/-- A node record of R262 for a relative place. -/
def recOf (p : Place) : W :=
  match p.elem with
  | 6 => w64 (6 * 2 ^ 36 + p.rx * 2 ^ 34 + p.ry * 2 ^ 28)
  | 8 => w64 (8 * 2 ^ 36 + p.slot * 2 ^ 28)
  | e => w64 (p.rx * 2 ^ 48 + p.ry * 2 ^ 40 + e * 2 ^ 36 + p.slot * 2 ^ 28)

/-- Words taken in the element of a place. -/
def wordsIn (t : Tab Node) (p : Place) : Nat := sumOver (t.filter fun x => decide (elemKey x.2.place = elemKey p)) Node.words

/-- The elements that a node could stand in, in a rectangle: AG cells by edge and offset, Basin ports, else the cores' elements. -/
def placesFor (op w h : Nat) : List Place :=
  let cells := fun (es : List Nat) => (upto 0 h).flatMap fun y => (upto 0 w).flatMap fun x => es.map fun e => (⟨0, e, 0, x, y⟩ : Place)
  match elemOf op with
  | 0 => cells [0, 1, 2, 3]
  | 1 => cells [4]
  | 2 => (upto 0 4).flatMap fun edge => (upto 0 (if edge % 2 = 0 then w else h)).map fun o => ⟨0, 6, 0, edge, o⟩
  | 3 => cells [7]
  | 4 => (upto 0 16).map fun port => ⟨0, 8, port * 16, 0, 0⟩
  | _ => cells [4, 0, 1, 2, 3, 5]

/-- A place with its first free word in an element. -/
def nextWord (t : Tab Node) (p : Place) : Place := if p.elem = 6 then p else { p with slot := p.slot + wordsIn t p }

/-- Place the nodes of an image from one on, at the first place that fits each. -/
def placeNodes (im : Image) (w h pw : Nat) : List Nat → Tab Node → Option (Tab Node)
  | [], t => some t
  | n :: ns, t =>
    let nd := im.node n
    let fits := fun (p : Place) =>
      let t1 := t ++ [(n, { nd with place := p })]
      nodeFits im.k ⟨w, h, []⟩ pw t1 { nd with place := p } && apart t1 && tableAllowed im t1
    match ((placesFor nd.op w h).map (nextWord t)).find? fits with
    | some p => placeNodes im w h pw ns (t ++ [(n, { nd with place := p })])
    | none => none

/-- The first rectangle in which every node finds a place. -/
def firstFit (im : Image) (die pw : Nat) : Option Plan :=
  ((upto 1 24).flatMap fun w => (upto 1 16).map fun h => (w, h)).findSome? fun e =>
    ((placeNodes im e.1 e.2 pw (upto 0 im.nodes.length) []).map fun t => (⟨e.1, e.2, t.map fun x => recOf x.2.place⟩ : Plan)).filter
      (planLegal im die pw)

/-- The placement of a graph section on a die: none where it cannot be fitted there. -/
def placeGraph (im : Image) (sec : List Byte) (die pw : Nat) : Option Plan :=
  match Config.place sec with
  | some (w, h, recs) => if planLegal im die pw ⟨w, h, recs⟩ then some ⟨w, h, recs⟩ else firstFit im die pw
  | none => firstFit im die pw

/-- Look a section's placement on a die up, or place it and store the entry (R69); none where the placer cannot fit it there, and no entry
then. -/
def planOf (s : State) (im : Image) (die pw : Nat) (sec : List Byte) : Option (State × Plan) :=
  let id := imageId sec
  match s.fab.placed.find? fun p => decide (p.image = id) with
  | some p =>
    if !dieTakes die p.w p.h then none
    else some (s.putPlaced (s.fab.placed.map fun q => if q.image = id then { q with last := s.gtsc } else q), ⟨p.w, p.h, p.recs⟩)
  | none =>
    match placeGraph im sec die pw with
    | none => none
    | some p =>
      let e : Placed := ⟨id, p.w, p.h, p.recs, 0, s.gtsc⟩
      if s.fab.placed.length < 1024 then some (s.putPlaced (s.fab.placed ++ [e]), p)
      else match oldestPlaced s.fab.placed with
        | some q => some (s.putPlaced (s.fab.placed.map fun x => if x.image = q.image then e else x), p)
        | none => some (s, p)

/-- An invocation uses the entry of its image, if the cache holds one (R69, R262). -/
def usePlan (s : State) (iid : Nat) (id : List Byte) : State :=
  let placed := s.fab.placed.map fun p => if p.image = id then { p with users := p.users + 1 } else p
  if placed = s.fab.placed then s else (s.putPlaced placed).onInv iid fun i => { i with cached := true }

/-! ### Words that regions share (R235) -/

/-- What AG cells and Basin ports hold of an invocation's words besides those of the other invocations in force: 12 words and 16, no two in one
place of a port. Their regions may share a column, a row or a die (DESIGN CHOICE, log 91: what fails then). -/
def sharedFits (s : State) (iid : Nat) (nodes : Tab Node) : Bool :=
  let others := (s.fab.invs.filter fun e => decide (e.1 ≠ iid) && decide (e.2.phase ≠ .out)).flatMap fun e => e.2.nodes
  let same := fun (a b : Place) => decide (a.elem = b.elem) && decide (a.core / 384 = b.core / 384)
  nodes.all fun e =>
    let p := e.2.place
    if p.elem = 6 then
      decide (sumOver ((others ++ nodes).filter fun x => same x.2.place p && decide (x.2.place.slot = p.slot)) Node.words ≤ 12)
    else if p.elem = 8 then
      (others.filter fun x => same x.2.place p).all fun x =>
        decide (x.2.place.slot + x.2.words ≤ p.slot) || decide (p.slot + e.2.words ≤ x.2.place.slot)
    else true

/-! ### Rectangles (R42, R43) -/

/-- Is a rectangle of a die free: inside the user fabric, no region of a running invocation in it? -/
def rectFree (s : State) (die x0 y0 w h : Nat) : Bool :=
  decide (die < 4) && decide (x0 + w ≤ 24) && decide (y0 + h ≤ if die = 0 then 15 else 16) &&
  s.fab.invs.all fun e =>
    let r := e.2.region
    decide (e.2.phase = .out) || decide (r.die ≠ die) || decide (x0 + w ≤ r.x0) || decide (r.x0 + r.w ≤ x0) || decide (y0 + h ≤ r.y0) ||
    decide (r.y0 + r.h ≤ y0)

/-- The free origin with the lowest y0, then the lowest x0. -/
def freeOrigin (s : State) (die w h : Nat) : Option (Nat × Nat) :=
  (upto 0 16).findSome? fun y => ((upto 0 24).find? fun x => rectFree s die x y w h).map fun x => (x, y)

/-- Live regions of a context; the first free slot of its RAREA (R330). -/
def liveOf (s : State) (ctxid : Nat) : List Inv := (s.fab.invs.filter fun e => decide (e.2.ctxid = ctxid) && decide (e.2.phase ≠ .out)).map Prod.snd
def freeSlot (s : State) (ctxid : Nat) : Option Nat :=
  let used := (liveOf s ctxid).map fun i => i.region.slot
  (upto 0 16).find? fun k => !decide (k ∈ used)

end Sys2Proof.Machine
end

