-- ==== Sys2Proof/Machine/Launch.lean ====
section
/-! DEFINITION. Launching and restoring an invocation in a granted region (spec 02_machine R38, 08_memories R139, R144, 12_nodes R238,
14_rules R265 to R267, 17_faults R330, R337, 24_prog_preempt R381). -/
namespace Sys2Proof.Machine

/-! ### Messages of GLAUNCH and GREST

`opnd` holds the launch descriptor's four words, or the save area's eight, and then the thread's prio, quant and pw; `hv` says that a
channel names a q register that was bound already. -/

/-- The stand-in IID of bindings whose invocation does not exist yet. -/
def pendingIid (m : Msg) : Nat := 2 ^ 20 + m.no

/-- Bindings of a failed launch end; those of a launch that succeeds take the IID (R21, R238). -/
def dropBinds (m : Msg) (s : State) : State :=
  onSender m (fun t => { t with q := t.q.filter fun e => decide (e.2.iid ≠ pendingIid m) }) s
def keepBinds (m : Msg) (iid : Nat) (s : State) : State :=
  onSender m (fun t => { t with q := t.q.map fun e => if e.2.iid = pendingIid m then (e.1, { e.2 with iid := iid }) else e }) s

/-- A launch or restore fails. -/
def failLaunch (m : Msg) (status : Nat) (s : State) : State := graphReply m status 0 (dropBinds m s)

/-- The prio, quant and pw that a message carries after n words. -/
def carried (m : Msg) (n k : Nat) : Nat := (m.opnd.getD (n + k) 0).toNat

/-! ### Tags (R38) -/

/-- The next base tag of a die for a block of 2^k tags. DEDUCED (log 80): one allocator for the regions of a die, since an IID is the die and
the base tag. -/
def nextBase (s : State) (die k : Nat) : Nat := (Tab.getD s.fab.tags die 0 + 2 ^ k - 1) / 2 ^ k * 2 ^ k % 65536

/-- No live tag of the die lies 32,768 or more behind the end of the block. DESIGN CHOICE (log 80): the end is the tag after its last. -/
def tagsOk (s : State) (die k : Nat) : Bool :=
  s.fab.invs.all fun e => decide (e.1 / 65536 ≠ die) || decide ((nextBase s die k + 2 ^ k + 65536 - e.1 % 65536) % 65536 < 32768)

/-- Grant the block. -/
def grantTags (s : State) (die k : Nat) : State := { s with fab := { s.fab with tags := Tab.put s.fab.tags die ((nextBase s die k + 2 ^ k) % 65536) } }

/-! ### What a grant writes -/

/-- The cores of a rectangle. -/
def coresOf (r : Region) : List Nat := (upto r.y0 r.h).flatMap fun y => (upto r.x0 r.w).map fun x => coreNo r.die y x

/-- PART of a region's cores, its scratchpad banks HELD, its performance counters cleared (R139, R144, R323). -/
def takeCores (r : Region) (iid part : Nat) (s : State) : State :=
  let banks := (upto 0 16).filter fun b => decide (partRF part < 4 * b + 4) && decide (4 * b < partRF part + partSP part)
  let m := (coresOf r).foldl (fun (m : Mem) c =>
    { m with part := Tab.set m.part partReset c part,
             banks := banks.foldl (fun t b => Tab.put t (c * 16 + b) ⟨iid, .held, noReceiver, 0⟩) m.banks }) s.mem
  { s with
    mem := m,
    fab := { s.fab with perf := s.fab.perf.filter fun e => !decide (e.1 / 8 ∈ coresOf r) } }

/-- What a grant takes from the context of a region: its first free slot of RAREA with the VA of the area there, spoil queue at 0, stall dump at
64 KiB; and W (R327, R330). -/
structure Grant where
  slot : Nat
  area : W
  win : Nat
  deriving DecidableEq, Repr
def grantOf (s : State) (ctxid : Nat) : Grant :=
  let slot := (freeSlot s ctxid).getD 0
  match Tab.look s.mem.ctx ctxid with
  | some c => ⟨slot, c.rarea + w64 (slot * 262144), c.qwin⟩
  | none => ⟨slot, w64 (slot * 262144), 0⟩

/-- The region of a grant (R330). -/
def regionOf (s : State) (m : Msg) (r : Request) (x0 y0 part : Nat) : Region :=
  let g := grantOf s m.ctxid
  { die := r.die, x0 := x0, y0 := y0, w := r.w, h := r.h, level := r.prio, prio := r.prio, quant := r.quant, granted := s.gtsc, expired := false,
    slot := g.slot, win := g.win, part := part, began := s.gtsc, dump := g.area, laid := part }

/-- A new invocation of an image in a region: nodes at their places, nothing else. -/
def newInv (s : State) (m : Msg) (im : Image) (p : Plan) (id : List Byte) (network : Bool) (r : Region) : Inv :=
  { k := im.k, owner := m.owner, ctxid := m.ctxid, tid := m.tid, scope := im.scope, modul := m.modul, image := id, network := network,
    cached := false, region := r, phase := .run,
    nodes := (placedTable im p).map fun e => (e.1, { e.2 with place := e.2.place.at_ r.die r.x0 r.y0 }),
    frames := [], used := [], credits := [], tbuf := [], links := [], nst := [], ctl := [], spoil := (0, 0, 0), active := s.cycle,
    fired := 0, raised := false, pages := 0, cmd := none, saver := .none, links2 := [], words := [] }

/-- Every node with its initial state (R223); a channel whose ring is in the scratchpad with its BASE (R207). -/
def initNodes (consts : List Nat) (i : Inv) : Inv :=
  { i with nst := i.nodes.map fun e =>
      (e.1, { initSt e.2 consts with ring := if e.2.op = 0x96 ∧ fld e.2.ext1 8 0 ≠ 0 then i.scratchAt e.1 e.2.place.core / 512 else 0 }) }

/-! ### Networks (R265 to R267) -/

/-- Does a network descriptor keep to its layout, with the nodes of its image? -/
def netDescOk (im : Image) (va : Nat) (d : List Byte) : Bool :=
  let f := fun (at_ n : Nat) => leAt d at_ n
  let t := im.table
  let uses := fun (op : Nat) (g : Nat → Bool) => t.all fun e => decide (e.2.op ≠ op) || g e.2.w.lit.toNat
  let root := f 42 2
  let pow2 := fun (n : Nat) => decide (n = 2 ^ (bitLen n - 1))
  decide (va % 64 = 0) && decide (f 0 8 % 64 = 0) && decide (1 ≤ f 8 4) && decide (f 8 4 ≤ 1048575) && decide (f 12 4 = 0) &&
  decide (f 16 8 % 64 = 0) && (decide (f 16 8 = 0) || decide (64 ≤ f 24 4) && decide (f 24 4 ≤ 1048576) && pow2 (f 24 4)) &&
  decide (f 28 4 ≠ 0) && decide (f 32 8 % 16 = 0) && decide (1 ≤ f 40 2) && decide (f 40 2 ≤ 4096) &&
  decide (root % 4 ≠ 3) && decide (root / 4 < im.nodes.length) && decide (root % 4 ∈ usesOf (im.node (root / 4))) &&
  (feeder t (root / 4) (root % 4)).isNone && decide (f 44 4 = 0) && decide (f 48 8 % 4 = 0) && decide (f 56 8 = 0) &&
  (upto 0 4).all (fun k => decide (f (72 + 16 * k) 8 = 0)) &&
  uses 0xb7 (fun l => decide (l % 4096 < f 40 2)) && uses 0xb3 (fun _ => decide (f 48 8 ≠ 0)) &&
  uses 0xb8 fun l => decide (f 16 8 ≠ 0) && decide (f (64 + 16 * (l % 4)) 8 ≠ 0)

/-- The rules of a table; none where a record breaks the layout (R266). -/
def rulesOf (n : Nat) (bs : List Byte) : Option (List Rule) :=
  let ok := (upto 0 n).all fun k => decide (leAt bs (16 * k + 4) 4 = 0) && decide (leAt bs (16 * k + 8) 8 % 8 = 0)
  if ok then some ((upto 0 n).map fun k => ⟨leAt bs (16 * k) 2, sext (leAt bs (16 * k + 2) 2) 16, leAt bs (16 * k + 8) 8⟩) else none

/-- Zero the first 16 bytes of the Mere's slots from one on. -/
def zeroMere (who : Who) (va : Nat) : Nat → State → Except ReadErr State
  | 0, s => .ok s
  | n + 1, s =>
    match writeVa s who none (va % 2 ^ 64) (zeros 16) with
    | .ok s1 => zeroMere who (va + 64) n s1
    | .error (k, a) => .error (.write k a)

/-- A write that a network's launch makes. -/
def writeNet (s : State) (who : Who) (va : Nat) (bs : List Byte) : Except ReadErr State :=
  match writeVa s who none va bs with
  | .ok s1 => .ok s1
  | .error (k, a) => .error (.write k a)

/-- Open the names of used scorer slots for reading (R257): none where one fails to open. -/
def openScorers (m : Msg) : List (Nat × Nat) → State → Except ReadErr (Option (State × Tab Scorer))
  | [], s => .ok (some (s, []))
  | (k, va) :: rest, s =>
    match readVa s m.who va 32 with
    | .error e => .error e
    | .ok (s1, name) =>
      match (openable s1 name m.owner).bind fun o => (openObj s1 m.ctxid o false).map fun r => (r, o) with
      | none => .ok none
      | some ((s2, h), o) =>
        let gen := match Tab.look s2.tab.objs o with
          | some x => x.desc.gen
          | none => 0
        match openScorers m rest s2 with
        | .ok (some (s3, t)) => .ok (some (s3, Tab.put t k ⟨w64 va, name, h, gen⟩))
        | r => r

/-- Set up a network from its descriptor: the state with the Mere and score table zero and the scorers open, and the network; none where
the launch is refused. -/
def openNet (m : Msg) (im : Image) (va : Nat) (s : State) : Except ReadErr (Option (State × Net)) := do
  let (s1, d) ← readVa s m.who va 128
  if !netDescOk im va d then .ok none else
  let f := fun (at_ n : Nat) => leAt d at_ n
  let (s2, rt) ← readVa s1 m.who (f 32 8) (16 * f 40 2)
  let used := (im.table.filter fun e => decide (e.2.op = 0xb3)).map fun e => e.2.w.lit.toNat / 16
  let count := used.foldl (fun a c => max a (c + 1)) 0
  let (s3, cs) ← readVa s2 m.who (f 48 8) (4 * count)
  match rulesOf (f 40 2) rt with
  | none => .ok none
  | some rules =>
    let slots := ((upto 0 4).map fun k => (k, f (64 + 16 * k) 8)).filter fun e => decide (e.2 ≠ 0)
    match ← openScorers m slots s3 with
    | none => .ok none
    | some (s4, scorers) =>
      let s5 ← zeroMere m.who (f 0 8) (f 8 4 + 1) s4
      let scap := if f 16 8 = 0 then 0 else f 24 4
      let s6 ← writeNet s5 m.who (f 16 8) (zeros (16 * scap))
      .ok (some (s6,
        { mere := w64 (f 0 8), mcap := f 8 4, stab := w64 (f 16 8), scap := scap, fsh := f 28 4, rules := rules, root := f 42 2,
          consts := (upto 0 count).map fun k => leAt cs (4 * k) 4, scorers := scorers, wm := [], n := 0, t := 1, free := f 8 4, stale := 0,
          queue := [], full := [] }))

/-! ### A launch is granted -/

/-- An invocation takes its region. -/
def installInv (m : Msg) (iid part : Nat) (i : Inv) (s : State) : State :=
  usePlan (takeCores i.region iid part (keepBinds m iid (s.putInv iid i))) iid i.image

/-- A graph is launched; with a delta from a command queue its listed nodes start with their new words, or nothing starts (R349). -/
def launchGraph (m : Msg) (iid part : Nat) (i : Inv) (before after : State) : State :=
  let s1 := installInv m iid part i after
  if m.tid ≠ hostTid ∨ m.a = 0 then graphReply m 0 iid s1 else
  match readDelta s1 m i m.a.toNat with
  | (_, .failed e) => refuseFor m e before
  | (_, .status n bad) =>
    match firstIllegal (bad.filterMap fun e => (Tab.look i.nodes e.1).map fun nd => (nd.place, e.2)) with
    | some (p, w) => graphReply m n 0 (before.recThread m.tid p.src cBLOCKED 1 p.loc w)
    | none => graphReply m n 0 before
  | (s2, .words ws) =>
    let i1 := ws.foldl (fun i e => i.reconf [] e.1) { i with words := ws }
    graphReply m 0 iid (s2.putInv iid { i1 with words := [] })

/-- The place of the first illegal word of an image at the origin that was granted (R63). -/
def illegalPlace (im : Image) (p : Plan) (r : Request) (x0 y0 : Nat) : Option (Place × W) :=
  firstIllegal (im.illegal.map fun n => ((placedNode im p n).place.at_ r.die x0 y0, (im.node n).word))

/-- An illegal word reaches its element: the launch or restore fails, with the record (R63). -/
def failBlocked (m : Msg) (e : Place × W) (s : State) : State := failLaunch m 3 (s.recThread m.tid e.1.src cBLOCKED 1 e.1.loc e.2)

/-- GLAUNCH's grant (R238, R265): none while the tags must wait. -/
def launchAt (m : Msg) (r : Request) (x0 y0 : Nat) (s : State) : Option State :=
  match sectionOf s m.modul m.imm with
  | none => some (failLaunch m 5 s)
  | some (kind, sec) =>
    let part := carried m 4 2
    match parseImage sec with
    | none => some (failLaunch m 5 s)
    | some im =>
    match planOf s im r.die part sec with
    | none => some (failLaunch m 1 s)
    | some (s1, p) =>
      match illegalPlace im p r x0 y0 with
      | some e => some (failBlocked m e s)
      | none =>
      if !tagsOk s r.die im.k then none else
      let iid := r.die * 65536 + nextBase s r.die im.k
      let i := newInv s1 m im p (imageId sec) (decide (kind = 3)) (regionOf s1 m r x0 y0 part)
      if !sharedFits s1 iid i.nodes then some (failLaunch m 1 s) else
      let s2 := grantTags s1 r.die im.k
      if kind = 3 then
        match openNet m im (m.opnd.getD 3 0).toNat s2 with
        | .error e => some (refuseFor m e (dropBinds m s))
        | .ok none => some (failLaunch m 5 s)
        | .ok (some (s3, net)) => some (graphReply m 0 iid (installInv m iid part (initNodes net.consts i) (s3.putNet iid net)))
      else some (launchGraph m iid part (initNodes [] i) s s2)

/-! ### A restore is granted (R337) -/

/-- A tag of a save area in the new block. -/
def relocate (old new t : Nat) : Nat := (t + new + 65536 - old) % 65536

/-- Take node records from a save area: at most `fuel` of them. -/
def restoreNodes : Nat → List Byte → Inv → Inv
  | 0, _, i => i
  | fuel + 1, bs, i =>
    if bs.length < 8 then i else
    let n := leAt bs 0 2
    let len := leAt bs 4 4
    let i1 := match Tab.look i.nodes n with
      | some nd => i.onSt n fun _ => stOfBytes i n nd ((bs.drop 8).take len)
      | none => i
    restoreNodes fuel (bs.drop (8 + len)) i1

/-- The tokens that a node's restored state carries, with their tags relocated. -/
def moveTags (f : Nat → Nat) (x : NodeSt) : NodeSt :=
  let g := fun (t : Tok) => { t with tag := f t.tag }
  { x with
    line := x.line.map g, outs := x.outs.map (fun e => (e.1, g e.2)), queues := x.queues.map (fun e => (e.1, e.2.map g)),
    run := x.run.map (fun r => { r with tok := g r.tok }), retained := none,
    score := x.score }

/-- Frames in their order: 2^k slots for each node. -/
def restoreFrames (base : Nat) (bs : List Byte) (i : Inv) : Inv :=
  (upto 0 (frameOrder i).length).foldl (fun i k =>
    let n := (frameOrder i).getD k 0
    (upto 0 (2 ^ i.k)).foldl (fun i j =>
      i.putSlot n ((base + j) % 65536) (slotOfBytes ((bs.drop (32 * (k * 2 ^ i.k + j))).take 32))) i) i

/-- Channel entries. -/
def restoreChans (f : Nat → Nat) (bs : List Byte) (i : Inv) : Inv :=
  (upto 0 (bs.length / 16)).foldl (fun i k =>
    let e := (bs.drop (16 * k)).take 16
    let t := tokOfBytes e
    let n := leAt e 11 2
    if (i.chanAt n).isSome then i.onSt n fun x => { x with line := x.line ++ [{ t with tag := f t.tag }] } else i) i

/-- Link records. -/
def restoreLinks (f : Nat → Nat) (bs : List Byte) (i : Inv) : Inv :=
  { i with links2 := (upto 0 (bs.length / 32)).filterMap fun k =>
      let e := (bs.drop (32 * k)).take 32
      let t := tokOfBytes e
      let d := leAt e 16 2
      let p := leAt e 18 2
      (Tab.look i.nodes p).bind fun nd => (nd.targets.find? fun x => decide (x.2 = (d / 4, d % 4))).map fun x =>
        ⟨{ t with tag := f t.tag }, p, x.1, d / 4, d % 4⟩ }

/-- The offsets of a save area's header, with its size. -/
def saveOffsets (h : List Byte) : Nat × Nat × Nat × Nat × Nat := (leAt h 32 8, leAt h 40 8, leAt h 48 8, leAt h 56 8, leAt h 24 8)

/-- Does a header fit an image: something saved, k, node count, parts in order? -/
def headerOk (im : Image) (h : List Byte) : Bool :=
  let (o1, o2, o3, o4, n) := saveOffsets h
  (decide (leAt h 0 1 = 1) || decide (leAt h 0 1 = 2)) && decide (leAt h 1 1 = im.k) && decide (leAt h 2 2 = im.nodes.length) &&
  decide (o1 = 64) && decide (o1 ≤ o2) && decide (o3 = o2 + im.nodes.length * 2 ^ im.k * 32) && decide (o3 ≤ o4) && decide (o4 ≤ n) && decide (n < 2 ^ 32)

/-- The state of a save area in a fresh invocation with a base tag. -/
def restoreInv (h bs : List Byte) (base : Nat) (i : Inv) : Inv :=
  let (o1, o2, o3, o4, n) := saveOffsets h
  let part := fun (a b : Nat) => (bs.drop a).take (b - a)
  let f := relocate (leAt h 4 2) base
  let i1 := restoreNodes (i.nodes.length + 1) (part o1 o2) (initNodes [] i)
  let i2 := { i1 with nst := i1.nst.map fun e => (e.1, moveTags f e.2) }
  restoreLinks f (part o4 n) (restoreChans f (part o3 o4) (restoreFrames base (part o2 o3) i2))

/-- SCORE keeps its pending records by tag, JOINB and NEGJ their sequences: relocated where the node keeps the same tags. -/
def restoreSeqs (bs : List Byte) (base n : Nat) (i : Inv) : Inv :=
  (upto 0 (2 ^ i.k)).foldl (fun i j =>
    let t := (base + j) % 65536
    let x := i.slot n t
    if x.hasL || x.hasR then
      i.putSlot n t { x with lseq := if x.hasL then leAt bs (8 * j) 4 else 0, rseq := if x.hasR then leAt bs (8 * j + 4) 4 else 0 }
    else i) i

/-- The join records of a save area, applied once the frames stand. -/
def restoreJoins (base : Nat) : Nat → List Byte → Inv → Inv
  | 0, _, i => i
  | fuel + 1, bs, i =>
    if bs.length < 8 then i else
    let n := leAt bs 0 2
    let len := leAt bs 4 4
    let i1 := match Tab.look i.nodes n with
      | some nd => if nd.op = 0xb4 ∨ nd.op = 0xb5 then restoreSeqs ((bs.drop 8).take len) base n i else i
      | none => i
    restoreJoins base fuel (bs.drop (8 + len)) i1

/-- The section of an image id among the loaded modules (R68): module, kind, bytes. -/
def sectionById (s : State) (id : List Byte) : Option (Nat × Nat × List Byte) :=
  s.fab.modules.findSome? fun e => (e.2.sections.find? fun x => decide (imageId x.2 = id)).map fun x => (e.1, x.1, x.2)

/-- The header that a GREST message carries. -/
def headerOf (m : Msg) : List Byte := opndBytes m 8

/-- The die of a command's region: bits 17:16 of its IID or origin word. -/
def dieOfWord (w : W) : Nat := fld w 17 16

/-- The held-out network that a header names, if there are two that on the die of the origin word (R387). -/
def heldNet (s : State) (m : Msg) : Option (Nat × Inv) :=
  let held := s.fab.invs.filter fun e => e.2.network && decide (e.2.phase = .out) && decide (e.2.owner = m.owner) && decide (e.1 % 65536 = leAt (headerOf m) 4 2) &&
    decide (e.2.image = ((headerOf m).drop 8).take 16) && !s.fab.reqs.any fun r => decide (r.msg = none) && decide (r.iid = e.1)
  match held.find? fun e => decide (e.1 / 65536 = dieOfWord m.b) with
  | some e => some e
  | none => held.head?

/-- What the hard cores keep of the save that a header comes from: of the same area, or else of the same image and base tag (log 78). -/
def savedOf (s : State) (m : Msg) : Option Saved :=
  let fits := fun (e : Saved) => decide (e.image = ((headerOf m).drop 8).take 16) && decide (e.base = leAt (headerOf m) 4 2)
  match s.fab.saves.find? fun e => fits e && decide (e.ctxid = m.ctxid) && decide (e.va = m.a) with
  | some e => some e
  | none => s.fab.saves.find? fits

/-- PART as the save found it, or as the restoring thread asks (R139; log 78). -/
def savedPart (s : State) (m : Msg) : Nat := match savedOf s m with
  | some e => e.part
  | none => carried m 8 2

/-- Tile-table entries and operand rings of a save at the cores of a region (R247, R301; log 78); a tile there that is in use stays. -/
def restoreTables (x : Option Saved) (r : Region) (s : State) : State := match x with
  | some e =>
    let stay := s.tab.tiles.filter fun t => r.has (t.1 / 256) && t.2.st.inUse
    { s with tab := { s.tab with
      tiles := stay.foldl (fun t x => Tab.put t x.1 x.2) (entriesTo r 256 e.tiles s.tab.tiles), orings := entriesTo r 16 e.rings s.tab.orings } }
  | none => s

/-- The bytes of a save area: the header as GREST's issue read it, which the message carries, and the rest as memory holds it now (R386). -/
def readArea (s : State) (m : Msg) : Except ReadErr (State × List Byte) :=
  match readVa s m.who ((m.a.toNat + 64) % 2 ^ 64) (leAt (headerOf m) 24 8 - 64) with
  | .error e => .error e
  | .ok (s1, bs) => .ok (s1, headerOf m ++ bs)

/-- GREST's grant for a graph: a new invocation with the saved state; none while the tags must wait. -/
def restoreGraphAt (m : Msg) (r : Request) (x0 y0 : Nat) (s : State) : Option State :=
  let h := headerOf m
  match sectionById s ((h.drop 8).take 16) with
  | none => some (failLaunch m 5 s)
  | some (md, _, sec) =>
    match parseImage sec with
    | none => some (failLaunch m 5 s)
    | some im =>
    let part := savedPart s m
    match planOf s im r.die part sec with
    | none => some (failLaunch m 1 s)
    | some (s1, p) =>
      match illegalPlace im p r x0 y0 with
      | some e => some (failBlocked m e s)
      | none =>
      if !tagsOk s r.die im.k then none else
      match readArea s1 m with
      | .error e => some (refuseFor m e (dropBinds m s))
      | .ok (s2, bs) =>
        let base := nextBase s r.die im.k
        let iid := r.die * 65536 + base
        let i := { newInv s2 m im p (imageId sec) false (regionOf s2 m r x0 y0 part) with modul := md }
        let i1 := reviveInv i.region s2.cycle (restoreInv h bs base i)
        if !sharedFits s2 iid i1.nodes then some (failLaunch m 1 s) else
        some (graphReply m 0 iid (restoreTables (savedOf s m) i.region (installInv m iid part i1 (grantTags s2 r.die im.k))))

/-- A moved MEMB goes on counting above every sequence that its entries carry (R273, R274; log 30). -/
def carrySeqs (old new : Inv) (s : State) : State :=
  new.nodes.foldl (fun s e =>
    if e.2.op ≠ 0xb6 then s else
    let was := match Tab.look old.nodes e.1 with
      | some nd => Tab.getD s.fab.seq nd.place.core 0
      | none => 0
    let now := Tab.getD s.fab.seq e.2.place.core 0
    { s with fab := { s.fab with seq := Tab.put s.fab.seq e.2.place.core (max was now) } }) s

/-- GREST's grant for a network: its old IID and tags, its state from the save area (R387). -/
def restoreNetAt (m : Msg) (r : Request) (x0 y0 iid : Nat) (i : Inv) (s : State) : State :=
  let h := headerOf m
  match readArea s m with
  | .error e => refuseFor m e s
  | .ok (s1, bs) =>
    let reg := regionOf s1 m r x0 y0 i.region.part
    let z := { i with frames := [], nst := [], links2 := [], tbuf := [], links := [], ctl := i.ctl.map fun e => (e.1, { e.2 with stall := 0 }) }
    let base := baseTag iid
    let i1 := restoreInv h bs base z
    let i2 := restoreJoins base (i.nodes.length + 1) ((bs.drop 64).take (leAt h 40 8 - 64)) i1
    let i3 := reviveInv reg s1.cycle i2
    if !sharedFits s1 iid i3.nodes then failLaunch m 1 s else
    graphReply m 0 iid (restoreTables (savedOf s m) reg (takeCores reg iid i.region.part (carrySeqs i i3 (s1.putInv iid i3))))

/-! ### A held-out invocation is granted again (R332, R337) -/

/-- The scheduler's restore: same IID, tags and bindings, at a fitting origin, with the PART it held. -/
def restoreHeld (r : Request) (x0 y0 : Nat) (i : Inv) (s : State) : State :=
  let g := grantOf s i.ctxid
  let reg : Region := { i.region with
    x0 := x0, y0 := y0, level := i.region.prio, granted := s.gtsc, expired := false, slot := g.slot, win := g.win, began := s.gtsc, dump := g.area,
    laid := i.region.part }
  let i1 := reviveInv reg s.cycle i
  takeCores reg r.iid i.region.part (carrySeqs i i1 (s.putInv r.iid i1))

end Sys2Proof.Machine
end

