-- ==== Sys2Proof/Machine/Graph.lean ====
section
/-! DEFINITION. Graph commands, opcodes 0xC8 to 0xCF, and the region scheduler (spec 12_nodes R236 to R246, R386, 17_faults R330 to R333,
08_memories R144 to R146). -/
namespace Sys2Proof.Machine

/-! ### Issue (R236, R386) -/

/-- The launching thread's prio, quant and pw. -/
def threadTerms (t : Thread) : List W := [t.sys.prio, t.sys.quant, t.sys.pw]

/-- Bind q registers to the channels of an image before its invocation exists; a channel whose register is bound already binds
nothing (R21, R238). -/
def bindImage (m : Msg) (bound : List (Nat × Nat × Bool × Nat)) (s : State) : State :=
  s.onTh m.tid fun t =>
    { t with q := bound.foldl (fun q b => if (Tab.look t.q b.2.1).isSome then q else Tab.put q b.2.1 ⟨b.2.2.1, pendingIid m, b.1, b.2.2.2⟩) t.q }

/-- A channel names a q register that the thread has bound. -/
def qTaken (t : Thread) (bound : List (Nat × Nat × Bool × Nat)) : Bool := bound.any fun b => (Tab.look t.q b.2.1).isSome

/-- The bound channels of a section's bytes. -/
def boundIn (sec : Option (List Byte)) : List (Nat × Nat × Bool × Nat) :=
  match sec.bind parseImage with
  | some im => im.bound
  | none => []

/-- A graph command waits until its task is irrevocable and its counter has room (R175, R314). -/
def graphClear (s : State) : Except Stop Unit := do
  needIrrev s
  needRoom 2 s

/-- Send a graph command to the hard core of a die. -/
def sendGraph (die : Nat) (m : Msg) (s : State) : State := sendCmd (srcHard die) m s

/-- The message of a graph command: gB receives its result. -/
def graphMsg (op : Nat) (x : TX) (s : State) : Msg := msgOf op x s

/-- GLAUNCH of an image (R238): a release (R198); the q bindings start at issue. -/
def execGlaunch (x : TX) (s : State) : Out :=
  issueJump x.pg [x.a] [x.b] (fun s => do
    graphClear s
    needRel s
    let m0 := graphMsg 0xc8 x s
    let (s1, bs) ← if x.a = 0 then .ok (s, toBytes 32 0xffffff) else readAtIssue m0.a.toNat 32 s
    let d := wordsOf bs
    let bound := boundIn ((sectionOf s m0.modul m0.imm).map Prod.snd)
    let m := { m0 with opnd := d ++ threadTerms s.me, hv := qTaken s.me bound, hreg := b2n (decide (x.a = 0)) }
    let die := fld (d.headD 0) 7 0
    .ok (sendGraph (if die < 4 then die else dieOf s.cur) m (bindImage m bound s1))) s

/-- GLAUNCH of a delta (R238, R243): a release (R198). -/
def execGlaunchDelta (x : TX) (s : State) : Out :=
  issueJump x.pg [x.a] [x.b] (fun s => do
    graphClear s
    needRel s
    let m := graphMsg 0xc8 x s
    let (s1, bs) ← readAtIssue m.a.toNat 32 s
    let d := wordsOf bs
    .ok (sendGraph (dieOfWord (d.getD 1 0)) { m with opnd := d } s1)) s

/-- GSTOP and GSNAP: the header of the save area is checked for write; A of g0 discards. -/
def saveIssue (op : Nat) (x : TX) (s : State) : Except Stop State := do
  graphClear s
  let m := graphMsg op x s
  let discard := decide (op = 0xc9) && decide (x.a = 0)
  let (s1, _) ← if discard then .ok (s, []) else xlates .write m.a.toNat 64 s
  .ok (sendGraph (dieOfWord m.b) { m with fn := b2n discard } s1)

/-- GSTOP (R239). -/
def execGstop (x : TX) (s : State) : Out := issueJump x.pg [x.a, x.b] [x.b] (saveIssue 0xc9 x) s

/-- GSNAP (R239). -/
def execGsnap (x : TX) (s : State) : Out := issueJump x.pg [x.a, x.b] [x.b] (saveIssue 0xca x) s

/-- GREST (R239, R381): the channels of a restored graph bind to the issuing thread. -/
def execGrest (x : TX) (s : State) : Out :=
  issueJump x.pg [x.a, x.b] [x.b] (fun s => do
    graphClear s
    let m0 := graphMsg 0xcb x s
    let (s1, h) ← readAtIssue m0.a.toNat 64 s
    let bound := match sectionById s ((h.drop 8).take 16) with
      | some (_, kind, sec) => if kind = 3 then [] else boundIn (some sec)
      | none => []
    let m := { m0 with opnd := wordsOf h ++ threadTerms s.me, hv := qTaken s.me bound }
    .ok (sendGraph (dieOfWord m.b) m (bindImage m bound s1))) s

/-- GBANK (R240). -/
def execGbank (x : TX) (s : State) : Out :=
  issueJump x.pg [x.a, x.b] [x.b] (fun s => do
    graphClear s
    .ok (sendGraph (dieOfWord (graphMsg 0xcc x s).b) (graphMsg 0xcc x s) s)) s

/-- GPART (R240). -/
def execGpart (x : TX) (s : State) : Out :=
  issueJump x.pg [x.a, x.b] [x.b] (fun s => do
    graphClear s
    .ok (sendGraph (dieOfWord (graphMsg 0xcd x s).b) (graphMsg 0xcd x s) s)) s

/-- GQUERY: the buffer is checked for write. -/
def queryIssue (x : TX) (s : State) : Except Stop State := do
  graphClear s
  let m := graphMsg 0xce x s
  let (s1, _) ← xlates .write m.a.toNat 64 s
  .ok (sendGraph (dieOfWord m.b) m s1)

/-- GQUERY.status, .size, .spoil, .dump (R241). -/
def execGqueryStatus (x : TX) (s : State) : Out := issueJump x.pg [x.a, x.b] [x.b] (queryIssue x) s
def execGquerySize (x : TX) (s : State) : Out := issueJump x.pg [x.a, x.b] [x.b] (fun s => queryIssue x s) s
def execGquerySpoil (x : TX) (s : State) : Out := issueJump x.pg [x.a, x.b] [x.b] (fun s => queryIssue x s) s
def execGqueryDump (x : TX) (s : State) : Out := issueJump x.pg [x.a, x.b] [x.b] (fun s => queryIssue x s) s

/-- FRESHET (R244): the delta's header is read at issue, and goes with the message (R386). -/
def execFreshet (x : TX) (s : State) : Out :=
  issueJump x.pg [x.a, x.b] [x.b] (fun s => do
    graphClear s
    let m := graphMsg 0xcf x s
    let (s1, h) ← readAtIssue m.a.toNat 16 s
    .ok (sendGraph (dieOfWord m.b) { m with opnd := wordsOf h } s1)) s

/-! ### Launch and restore requests -/

/-- A grant request (R330). -/
def request (m : Msg) (die : Nat) (origin : Option (Nat × Nat)) (p : Plan) (n : Nat) (s : State) : State :=
  let prio := carried m n 0 % 4
  let r : Request := ⟨die, origin, p.w, p.h, prio, prio, carried m n 1, s.gtsc, some m, 0⟩
  { s with fab := { s.fab with reqs := s.fab.reqs ++ [r] } }

/-- The origin bytes of a descriptor. -/
def originOf (x y : Nat) : Option (Nat × Nat) := if x = 255 ∧ y = 255 then none else some (x, y)

/-- Does a launch descriptor keep to R238 and R265? -/
def launchDescOk (kind : Nat) (d : List W) : Bool :=
  decide (d.headD 0 = d.headD 0 &&& 0xffffff#64) && decide (d.getD 1 0 = 0) && decide (d.getD 2 0 = 0) &&
  (decide (kind = 3) || decide (d.getD 3 0 = 0)) && (let die := fld (d.headD 0) 7 0; decide (die < 4) || decide (die = 255))

/-- The checks on an image and its placement, then the grant request. An image with an illegal word meets the check of its words once it is
granted, where they reach their elements (R63; log 83). -/
def requestImage (m : Msg) (kind die : Nat) (sec : List Byte) (origin : Option (Nat × Nat)) (n : Nat) (s : State) : State :=
  match parseImage sec with
  | none => failLaunch m 5 s
  | some im =>
    if loaderOk kind im = false ∨ m.hv = true then failLaunch m 5 s else
    match planOf s im die (carried m n 2) sec with
    | none => failLaunch m 1 s
    | some (s1, p) =>
      if im.illegal = [] ∧ planFits im p (carried m n 2) = false then failLaunch m 1 s
      else if im.illegal = [] ∧ planAllowed im p = false then failLaunch m 5 s
      else if (freeSlot s1 m.ctxid).isNone then failLaunch m 2 s
      else request m die origin p n s1

/-- GLAUNCH acts (R238). -/
def actLaunch (m : Msg) (s : State) : State :=
  let d := m.opnd
  let die := let b := fld (d.headD 0) 7 0; if b = 255 then dieOf m.tid else b
  match sectionOf s m.modul m.imm with
  | none => failLaunch m 5 s
  | some (kind, sec) =>
    if (kind ≠ 2 ∧ kind ≠ 3) ∨ launchDescOk kind d = false ∨ (kind = 3 ∧ m.hreg = 1) then failLaunch m 5 s
    else requestImage m kind die sec (originOf (fld (d.headD 0) 15 8) (fld (d.headD 0) 23 16)) 4 s

/-- GREST acts (R337, R381, R387). -/
def actRestore (m : Msg) (s : State) : State :=
  let h := headerOf m
  let die := dieOfWord m.b
  let origin := if fld m.b 15 0 = 0xffff then none else some (fld m.b 7 0, fld m.b 15 8)
  match sectionById s ((h.drop 8).take 16) with
  | none => failLaunch m 5 s
  | some (_, kind, sec) =>
    match parseImage sec with
    | none => failLaunch m 5 s
    | some im =>
      if m.b.toNat ≥ 2 ^ 18 ∨ headerOk im h = false then failLaunch m 5 s
      else if kind = 3 then
        match heldNet s m with
        | none => failLaunch m 6 s
        | some (iid, i) =>
          if iid / 65536 ≠ die then failLaunch m 5 s
          else if (freeSlot s m.ctxid).isNone then failLaunch m 2 s
          else request m die origin ⟨i.region.w, i.region.h, []⟩ 8 s
      else requestImage m kind die sec origin 8 s

/-! ### Commands on a live invocation -/

/-- The IID that a command names. -/
def targetIid (m : Msg) : Option Nat :=
  let ok := fun (w : W) => if w.toNat < 2 ^ 18 then some w.toNat else some (2 ^ 18)
  match m.op with
  | 0xc8 => if m.cls = 1 then ok (m.opnd.getD 1 0) else none
  | 0xcb => none
  | _ => ok m.b

/-- Tokens in flight of an invocation (R241): a spilled token counts once, with the SPILL node that holds it. -/
def tokensIn (i : Inv) : Nat :=
  let sum := fun (t : Tab (List Tok)) => t.foldl (fun a e => a + e.2.length) 0
  let spills := fun (n : Nat) => (Tab.look i.nodes n).any fun nd => decide (nd.op = 0x9b)
  let ofSt := fun (n : Nat) (x : NodeSt) => x.line.length + x.outs.length + sum x.queues + if spills n then sum x.spill else 0
  i.frames.foldl (fun a e => a + b2n e.2.hasL + b2n e.2.hasR + b2n e.2.hasP) 0 + i.tbuf.length + i.links.length + i.links2.length +
    i.nst.foldl (fun a e => a + ofSt e.1 e.2) 0

/-- Has a region been quiet for its window (R332)? -/
def quiet (s : State) (i : Inv) : Bool := decide (i.region.win ≠ 0) && idleFor s i i.region.win

/-- The state code of GQUERY (R241). -/
def stateCode (s : State) (i : Inv) : Nat :=
  match i.phase with
  | .out => 4
  | .drain | .snap => 1
  | .wave => 2
  | _ => if quiet s i then 3 else 0

/-- GQUERY's buffer, and the invocation after (R241). -/
def queryBytes (s : State) (m : Msg) (iid : Nat) (i : Inv) : List Byte × Inv :=
  match m.cls with
  | 0 => (toBytes 8 (stateCode s i) ++ toBytes 8 (tokensIn i) ++ toBytes 8 i.fired ++ zeros 40, i)
  | 1 => (toBytes 8 (saveSize i iid) ++ zeros 56, i)
  | 2 =>
    let (rd, wr, ovf) := i.spoil
    let rd1 := min (rd + m.imm) wr
    (toBytes 8 (rd1 % 256) ++ toBytes 8 (wr % 256) ++ toBytes 4 ovf ++ zeros 44, { i with spoil := (rd1, wr, ovf) })
  | _ => (toBytes 8 (i.ct m.imm).stall.toNat ++ zeros 56, i)

/-- GQUERY acts. -/
def actQuery (m : Msg) (iid : Nat) (i : Inv) (s : State) : State :=
  if m.cls = 3 ∧ (Tab.look i.nodes m.imm).isNone then graphReply m 5 0 s else
  let (bs, i1) := queryBytes s m iid i
  match writeVa s m.who none m.a.toNat bs with
  | .ok s1 => graphReply m 0 iid (s1.onInv iid fun _ => i1)
  | .error (k, va) => refuseRead m (cPAGE, pageValue k .write va) s

/-- GBANK acts (R240): the named banks of every shared core pass, or none. -/
def actBank (m : Msg) (iid : Nat) (i : Inv) (s : State) : State :=
  let dest := fld m.a 33 16
  match s.inv dest with
  | none => graphReply m 6 0 s
  | some j =>
    if j.owner ≠ m.owner then graphReply m 6 0 s else
    let banks := ((coresOf i.region).filter fun c => j.region.has c).flatMap fun c =>
      ((upto 0 16).filter fun b => bit m.a.toNat b).map fun b => c * 16 + b
    if banks.all (fun b => decide ((s.bank b).st = .held) && decide ((s.bank b).holder = iid)) then
      graphReply m 0 iid (banks.foldl (fun s b => s.putBank b { s.bank b with st := .passing, receiver := dest }) s)
    else graphReply m 4 0 s

/-- Does a granule leave a part of a core: it lies in the part before and not after? -/
def leaves (lo hi lo1 hi1 g : Nat) : Bool := decide (lo ≤ g) && decide (g < hi) && !(decide (lo1 ≤ g) && decide (g < hi1))

/-- Does a byte range of the pool meet a granule that leaves a part? -/
def rangeLeaves (lo hi lo1 hi1 p n : Nat) : Bool :=
  decide (n ≠ 0) && (upto 0 64).any fun g => leaves lo hi lo1 hi1 g && decide (g * 65536 < p + n) && decide (p < (g + 1) * 65536)

/-- R146's refusals for one core of an invocation; where frames and queues lie in their parts: log 19. -/
def partRefused (s : State) (i : Inv) (core new : Nat) : Bool :=
  let old := s.mem.partOf core
  let (r, sp, r1, sp1) := (partRF old, partSP old, partRF new, partSP new)
  let here := i.nodesOn core
  let live := here.map fun e => (match lineAt i core e.1 e.2 with
    | some (p, cap) => (p, cap * 16)
    | none => if e.2.op = 0x99 then (queueAt i e.2 0, scratchNeed e.2) else (i.scratch + i.scratchAt e.1 core, scratchNeed e.2))
  let tiles := s.tab.tiles.filter fun e => decide (e.1 / 256 = core)
  let rings := s.tab.orings.any fun e => e.2.v && decide (e.1 / 16 = core) && (upto e.2.first (e.2.count + 1)).any fun k =>
    rangeLeaves r (r + sp) r1 (r1 + sp1) ((s.tile (core * 256 + k)).offset * 512) (s.tile (core * 256 + k)).bytes
  rangeLeaves 0 r 0 r1 0 (here.length * 2 ^ i.k * 32) ||
  live.any (fun x => rangeLeaves r (r + sp) r1 (r1 + sp1) x.1 x.2) || rings ||
  tiles.any (fun e => decide (e.2.st ≠ .empty) && rangeLeaves r (r + sp) r1 (r1 + sp1) (e.2.offset * 512) e.2.bytes) ||
  tiles.any fun e => decide (e.1 ∈ unretired s) && rangeLeaves (r + sp) 64 (r1 + sp1) 64 (e.2.offset * 512) e.2.bytes

/-- The region of a granule under a PART: 0 register file, 1 scratchpad, 2 accumulators. -/
def granuleIn (part g : Nat) : Nat := if g < partRF part then 0 else if g < partRF part + partSP part then 1 else 2

/-- The interleave of a bank under a PART (R140): the first bank of its group and their number, or the bank alone. -/
def leaveOf (part b : Nat) : Nat × Nat :=
  let rf := partRF part
  let i := 2 ^ partSPI part
  let g0 := 4 * ((rf + 3) / 4)
  let gend := g0 + 4 * i * ((rf + partSP part - g0) / (4 * i))
  if 4 * b < g0 ∨ gend ≤ 4 * b ∨ 64 < gend then (b, 1) else (g0 / 4 + (b - g0 / 4) / i * i, i)

/-- Does a bank of a core take part in the scratchpad of a PART; does a new PART give it another region, or another interleave there? -/
def bankIn (part b : Nat) : Bool := (upto (4 * b) 4).any fun g => decide (granuleIn part g = 1)
def bankMoves (old new b : Nat) : Bool :=
  (upto (4 * b) 4).any (fun g => decide (granuleIn old g ≠ granuleIn new g)) || decide (leaveOf old b ≠ leaveOf new b)

/-- The scratchpad banks of a region that a new PART moves (R145). -/
def movedBanks (s : State) (i : Inv) (new : Nat) : List Nat :=
  (coresOf i.region).flatMap fun c =>
    ((upto 0 16).filter fun b => bankIn (s.mem.partOf c) b && bankMoves (s.mem.partOf c) new b).map fun b => c * 16 + b

/-- Has the token of a bank been passed with GBANK (R145)? -/
def bankPassed (x : Bank) : Bool := decide (x.st = .held) && decide (x.receiver = x.holder)

/-- The banks of a core under a new PART: one that moves has its token to pass again; DESIGN CHOICE (log 79): one that the scratchpad gains is
HELD by the invocation. -/
def partBanks (iid c old new : Nat) (t : Tab Bank) : Tab Bank :=
  ((upto 0 16).filter fun b => bankIn new b && bankMoves old new b).foldl (fun t b =>
    let x := Tab.getD t (c * 16 + b) .reset
    Tab.put t (c * 16 + b) (if bankIn old b then { x with receiver := noReceiver } else ⟨iid, .held, noReceiver, 0⟩)) t

/-- GPART acts (R146, R240): every core, or none. DESIGN CHOICE (log 79): it is refused where it moves a scratchpad bank whose token has not
been passed (R145). -/
def actPart (m : Msg) (iid : Nat) (i : Inv) (s : State) : State :=
  let new := fld m.a 25 0
  let ok := decide (partRF new + partSP new + partACC new = 64) && decide (partSPI new ≤ 4) && decide (m.a.toNat < 2 ^ 26) && !bit new 15 && !bit new 7
  if ok && (coresOf i.region).all (fun c => !partRefused s i c new) && (movedBanks s i new).all (fun b => bankPassed (s.bank b)) then
    graphReply m 0 iid { s with mem := (coresOf i.region).foldl (fun (x : Mem) c =>
      { x with part := Tab.set x.part partReset c new, banks := partBanks iid c (x.partOf c) new x.banks }) s.mem }
  else graphReply m 5 0 s

/-- A save command starts its protocol (R334, R335). -/
def actSave (m : Msg) (iid : Nat) (i : Inv) (s : State) : State :=
  let i1 := { i with cmd := some m, saver := .command }
  if m.op = 0xc9 then s.putInv iid (beginDrain i1) else snapStep iid (startSnap iid i1 s)

/-- Is an invocation held out by the scheduler, not by a command (R387)? -/
def schedHeld (s : State) (iid : Nat) : Bool := s.fab.reqs.any fun r => decide (r.msg = none) && decide (r.iid = iid)

/-- Does IMM24 name a graph or rules section of the thread's module (R238)? -/
def namesGraph (s : State) (m : Msg) : Bool :=
  match sectionOf s m.modul m.imm with
  | some (kind, _) => decide (kind = 2) || decide (kind = 3)
  | none => false

/-- A command on a live invocation acts. -/
def actOn (m : Msg) (iid : Nat) (i : Inv) (s : State) : State :=
  if m.op = 0xce then actQuery m iid i s
  else if i.phase = .out then
    if m.op = 0xc9 ∧ m.fn = 1 then graphReply m 0 iid (endInv s iid) else graphReply m 6 0 s
  else match m.op with
    | 0xc8 =>
      if (m.opnd.headD 0).toNat ≥ 2 ^ 24 ∨ m.opnd.getD 3 0 ≠ 0 ∨ namesGraph s m = false then graphReply m 5 0 s
      else startDelta m iid (m.opnd.getD 2 0).toNat beginDrainDelta s
    | 0xcf => startDelta m iid m.a.toNat (beginWave iid) s
    | 0xcc => actBank m iid i s
    | 0xcd => actPart m iid i s
    | _ => actSave m iid i s

/-- A graph command acts. -/
def graphAct (m : Msg) (s : State) : State :=
  match targetIid m with
  | none => if m.op = 0xc8 then actLaunch m s else actRestore m s
  | some iid =>
    match s.inv iid with
    | none => graphReply m 6 0 s
    | some i => if i.owner = m.owner then actOn m iid i s else graphReply m 6 0 s

/-- Is a bank that GPART moves on its way, or is an access queued at its ports (R145)? -/
def partWaits (s : State) (m : Msg) (i : Inv) : Bool :=
  decide (m.op = 0xcd) && (movedBanks s i (fld m.a 25 0)).any fun b => decide ((s.bank b).st ≠ .held) || decide ((s.bank b).port ≠ 0)

/-- May a command act now (R246): no other is in progress on its invocation, the scheduler does not hold it out, and no bank that it moves is on
its way? A GSTOP with A of g0 ends a network that is held out (R387). -/
def graphReady (s : State) (m : Msg) : Bool :=
  match (targetIid m).bind s.inv with
  | none => true
  | some i =>
    decide (m.op = 0xce) || (decide (m.op = 0xc9 ∧ m.fn = 1) && i.network && decide (i.phase = .out)) ||
      (decide (i.cmd = none) && !partWaits s m i &&
        (decide (i.phase = .run) || decide (i.phase = .out) && !schedHeld s ((targetIid m).getD 0)))

/-- The first message of a hard core's queue that may act: none before it names the same invocation. -/
def nextGraph (s : State) : List Msg → List Msg → Option (Msg × List Msg)
  | _, [] => none
  | before, m :: rest =>
    if graphReady s m && (decide (targetIid m = none) || before.all fun b => decide (targetIid b ≠ targetIid m)) then some (m, before ++ rest)
    else nextGraph s (before ++ [m]) rest

/-- A hard core's turn on its queue. -/
def hardTurn (src : Nat) (s : State) : State :=
  match nextGraph s [] (s.inbox src) with
  | none => s
  | some (m, rest) => graphAct m (s.putInbox src rest)

/-! ### The region scheduler (R330 to R333) -/

/-- Where a request would go: its own origin, or the free origin of R43. -/
def spotOf (s : State) (r : Request) : Option (Nat × Nat) :=
  match r.origin with
  | some o => if rectFree s r.die o.1 o.2 r.w r.h then some o else none
  | none => freeOrigin s r.die r.w r.h

/-- The tag-block exponent of the image that a launch, or a graph's restore, would need tags for. -/
def tagsAsked (s : State) (m : Msg) : Option Nat :=
  let sec := if m.op = 0xc8 then sectionOf s m.modul m.imm else match sectionById s (((headerOf m).drop 8).take 16) with
    | some (_, kind, bs) => if kind = 3 then none else some (kind, bs)
    | none => none
  (sec.bind fun e => parseImage e.2).map Image.k

/-- Can a request be granted or answered now (R331)? One with an origin of its own is answered at once, NOREGION when its rectangle is not free
(R237); one that must wait for tags (R38), and a held-out invocation whose context has no free slot of RAREA, or whose elements are taken,
wait. -/
def answerable (s : State) (r : Request) : Bool :=
  match r.msg, spotOf s r with
  | none, none => false
  | none, some (x, y) =>
    match s.inv r.iid with
    | some i => (freeSlot s i.ctxid).isSome &&
        sharedFits s r.iid (i.nodes.map fun e => (e.1, { e.2 with place := e.2.place.at_ r.die x y }))
    | none => false
  | some _, none => r.origin.isSome
  | some m, some _ => (freeSlot s m.ctxid).isNone || match tagsAsked s m with
    | some k => tagsOk s r.die k
    | none => true

/-- Requests of a die in the order of service (R331): by level, then by arrival. -/
def inOrder (s : State) (die : Nat) : List Request :=
  let rs := s.fab.reqs.filter fun r => decide (r.die = die)
  (upto 0 4).flatMap fun k => rs.filter fun r => decide (min 3 r.level = 3 - k)

/-- The request that is served next. -/
def served (s : State) (die : Nat) : Option Request := (inOrder s die).find? (answerable s)

/-- Take a request out of the list. -/
def dropReq (s : State) (r : Request) : State := { s with fab := { s.fab with reqs := s.fab.reqs.erase r } }

/-- A launch or restore request is granted; none while it must wait for tags. -/
def grantMsg (m : Msg) (r : Request) (s : State) : Option State :=
  match spotOf s r with
  | none => some (failLaunch m 2 s)
  | some (x0, y0) =>
    if (freeSlot s m.ctxid).isNone then some (failLaunch m 2 s)
    else if m.op = 0xc8 then launchAt m r x0 y0 s
    else match heldNet s m, sectionById s (((headerOf m).drop 8).take 16) with
      | some (iid, i), some (_, 3, _) => some (restoreNetAt m r x0 y0 iid i s)
      | none, some (_, 3, _) => some (failLaunch m 6 s)
      | _, _ => restoreGraphAt m r x0 y0 s

/-- REGION_GRANT (R330, R331): the request served next, when a command made it. -/
def execRegionGrant (die : Nat) (s : State) : Out :=
  match served s die with
  | none => .next s
  | some r =>
    match r.msg with
    | none => .next s
    | some m =>
      match grantMsg m r (dropReq s r) with
      | some s1 => .next s1
      | none => .next s

/-- SCHEDULER_RESTORE (R332, R337): the request served next, when it is that of a held-out invocation. -/
def execSchedulerRestore (iid : Nat) (s : State) : Out :=
  match s.inv iid with
  | none => .next s
  | some i =>
    match served s (iid / 65536) with
    | none => .next s
    | some r =>
      if r.msg = none ∧ r.iid = iid then
        match spotOf s r, freeSlot s i.ctxid with
        | some (x0, y0), some _ => .next (restoreHeld r x0 y0 i (dropReq s r))
        | _, _ => .next s
      else .next s

/-- REQUEST_AGING (R331): the i-th request of a die rises by one level for every 16 of its quanta that it has waited. -/
def execRequestAging (die i : Nat) (s : State) : Out :=
  match (s.fab.reqs.filter fun r => decide (r.die = die))[i]? with
  | none => .next s
  | some r =>
    let due := s.since r.since / (16 * r.quant)
    let rise := r.level - r.prio
    if rise < due ∧ r.level < 3 then
      .next { s with fab := { s.fab with reqs := s.fab.reqs.map fun q => if q = r then { q with level := q.level + 1 } else q } }
    else .next s

/-- QUANTUM_EXPIRY (R331, R333, R246): with no request waiting a new quantum starts, else the region may be pre-empted; an expiry
during a command waits. -/
def execQuantumExpiry (iid : Nat) (s : State) : Out :=
  match s.inv iid with
  | none => .next s
  | some i =>
    if i.phase = .run ∧ i.cmd = none ∧ i.region.quant ≤ s.since i.region.began then
      let r := if s.fab.reqs.any (fun r => decide (r.die = i.region.die)) then { i.region with expired := true }
        else { i.region with began := s.gtsc, expired := false }
      .next (s.putInv iid { i with region := r })
    else .next s

/-- May a region be pre-empted for a request of a level (R332)? -/
def preemptible (s : State) (level : Nat) (i : Inv) : Bool :=
  decide (i.phase = .run) && decide (i.cmd = none) && (i.region.expired || quiet s i) && decide (i.region.level ≤ level)

/-- Do two rectangles overlap? -/
def overlap (r : Region) (x0 y0 w h : Nat) : Bool :=
  decide (x0 < r.x0 + r.w) && decide (r.x0 < x0 + w) && decide (y0 < r.y0 + r.h) && decide (r.y0 < y0 + h)

/-- The regions in force on a die. -/
def regionsOn (s : State) (die : Nat) : List (Nat × Inv) :=
  s.fab.invs.filter fun e => decide (e.2.phase ≠ .out) && decide (e.2.region.die = die)

/-- The origin whose rectangle holds only free cores and cores of regions that may be pre-empted. -/
def preemptOrigin (s : State) (r : Request) : Option (Nat × Nat) :=
  let ok := fun (x y : Nat) =>
    decide (x + r.w ≤ 24) && decide (y + r.h ≤ (if r.die = 0 then 15 else 16)) &&
    (regionsOn s r.die).all (fun e => !overlap e.2.region x y r.w r.h || preemptible s r.level e.2)
  match r.origin with
  | some o => if ok o.1 o.2 then some o else none
  | none => (upto 0 16).findSome? fun y => ((upto 0 24).find? fun x => ok x y).map fun x => (x, y)

/-- The region to pre-empt first: lowest level, then earliest grant. -/
def firstVictim (vs : List (Nat × Inv)) : Option (Nat × Inv) :=
  vs.foldl (fun m e => match m with
    | none => some e
    | some v =>
      if e.2.region.level < v.2.region.level ∨ (e.2.region.level = v.2.region.level ∧ e.2.region.granted < v.2.region.granted) then some e else m) none

/-- Pre-empt one region: DRAIN when the context asks for it and the region is not quiescent, else SNAP. -/
def preemptInv (iid : Nat) (i : Inv) (s : State) : State :=
  let drain := match Tab.look s.mem.ctx i.ctxid with
    | some c => bit c.flags 0
    | none => false
  let i1 := { i with saver := .scheduler }
  if drain && !quiet s i then s.putInv iid (beginDrain i1) else snapStep iid (startSnap iid i1 s)

/-- PREEMPT (R332): the oldest request of the highest waiting level does not fit; one overlapping region is pre-empted at a time. -/
def execPreempt (die : Nat) (s : State) : Out :=
  match inOrder s die with
  | [] => .next s
  | r :: _ =>
    if (spotOf s r).isSome || s.fab.invs.any (fun e => decide (e.2.saver = .scheduler) && decide (e.2.region.die = die)) then .next s else
    match preemptOrigin s r with
    | none => .next s
    | some (x, y) =>
      match firstVictim ((regionsOn s die).filter fun e => overlap e.2.region x y r.w r.h) with
      | some (iid, i) => .next (preemptInv iid i s)
      | none => .next s

end Sys2Proof.Machine
end

