-- ==== Sys2Proof/Machine/Rules.lean ====
section
/-! DEFINITION. Rule-engine instructions, opcodes 0xB0 to 0xB2 and 0xB9 to 0xBC, and the Basin (spec 14_rules R277 to R290). -/
namespace Sys2Proof.Machine

/-! ### Networks as their owner names them -/

/-- The IID of a command, in the B register. -/
def Msg.net (m : Msg) : Nat := m.b.toNat

/-- The network that an IID names for an owner. -/
def ownNet (s : State) (owner iid : Nat) : Option (Inv × Net) :=
  match s.inv iid, s.net iid with
  | some i, some n => if i.owner = owner then some (i, n) else none
  | _, _ => none

/-- The network that a command names. -/
def Msg.ownNet (m : Msg) (s : State) : Option (Inv × Net) := Machine.ownNet s m.owner m.net

/-- The Basin that a command is sent to (R286). -/
def basinFor (b : W) : Nat := srcBasin (dieOfWord b)

/-! ### Delta instructions at issue (R283, R287) -/

/-- The bytes of an image, read at issue and, in a task, tracked as a load (R287). -/
def readImage (va : Nat) (s : State) : Except Stop (State × List Byte) := do
  needAlign va 64
  let (s1, x) ← xlate .read va 64 s
  needCached x.cached s
  let pas := upto x.pa 64
  if !settled s.me false pas then .error (.stall (.fence true true)) else
  if poisonAs s1 s.cur pas then .error (.trapOpen cPOISON) else
  .ok (noteRead s1 s.cur (if x.cached then [] else pas) pas, readAs s1 s.cur pas)

/-- A delta instruction that completes at once with an imprecise trap (R287). -/
def dueMe (code : Nat) (v : W) (s : State) : State := advance (s.onMe fun t => { t with imp := t.imp ++ [(code, v)] })

/-- Take a free reservation (R267). -/
def reserve (iid : Nat) (s : State) : State := s.onNet iid fun n => { n with free := n.free - 1 }

/-- The delta of a message: kind 0 assert, 1 retract, 2 modify; its operands are the image and the wid. -/
def Msg.delta (m : Msg) : Delta :=
  ⟨m.net, m.op - 0xb0, (m.opnd.take 8).flatMap (fun w => toBytes 8 w.toNat), (m.opnd.getD 8 0).toNat % 2 ^ 20⟩

/-- A delta is buffered in the issuing thread's task, which is not irrevocable, or sent to the Basin (R283). -/
def sendDelta (m : Msg) (s : State) : State :=
  match s.specul s.cur with
  | some k => advance (s.onTask k.id fun t => { t with deltas := t.deltas ++ [m.delta] })
  | none => sendCmd (basinFor m.b) m s

/-- A 65th delta makes the task irrevocable (R283). -/
def needDelta (s : State) : Except Stop Unit :=
  match s.specul s.cur with
  | some k => if 64 ≤ k.deltas.length then .error (.stall .irrevocable) else .ok ()
  | none => .ok ()

/-- A delta instruction: the image at an address, a wid, and whether it takes a reservation. -/
def deltaBody (op : Nat) (x : TX) (va : Option Nat) (wid : W) : Body := fun s => do
  needDelta s
  let (s1, img) ← match va with
    | some a => readImage a s
    | none => .ok (s, List.replicate 64 0)
  needRoom 2 s
  let m := { msgOf op x s with opnd := wordsOf img ++ [wid] }
  match ownNet s1 m.owner m.net with
  | none => .ok (dueMe cPRIV m.b s1)
  | some (_, n) =>
    if va.isNone then .ok (sendDelta m s1)
    else if n.free = 0 then .ok (dueMe cBASIN (basinVal 1 0) s1)
    else .ok (sendDelta m (reserve m.net s1))

/-- WMASSERT (R287). -/
def execWmassert (x : TX) (s : State) : Out :=
  issueJump x.pg [x.a, x.b] [] (fun s => deltaBody 0xb0 x (some (s.me.rg x.a.toNat).toNat) 0 s) s

/-- WMRETRACT (R287). -/
def execWmretract (x : TX) (s : State) : Out :=
  issueJump x.pg [x.a, x.b] [] (fun s => deltaBody 0xb1 x none (s.me.rg x.a.toNat) s) s

/-- WMMODIFY (R287). -/
def execWmmodify (x : TX) (s : State) : Out :=
  issueJump x.pg [x.a, x.a + 1, x.b] [] (fun s =>
    deltaBody 0xb2 x (some (s.me.rg x.a.toNat).toNat) (s.me.rg (x.a.toNat + 1)) s) s

/-! ### Commands at issue (R286) -/

/-- Send a command to the Basin: checked buffers, irrevocability, room in C. -/
def sendRule (checks : List (Acc × Nat × Nat × Nat)) (m : Msg) (s : State) : Except Stop State := do
  needIrrev s
  needAll checks s
  needRoom 2 s
  .ok (sendCmd (basinFor m.b) m s)

/-- CSSEL (R281): the thread's prio, quant, pw and ctx go with the message; it acquires when it completes. -/
def execCssel (x : TX) (s : State) : Out :=
  issueJump x.pg [x.a, x.b] [x.b] (fun s => do
    needIrrev s
    let t := s.me.sys
    let m := { msgOf 0xb9 x s with opnd := [t.prio, t.quant, t.pw, t.ctx] }
    needAll [(.write, m.a.toNat, 64 * (m.imm % 64 + 1), 64)] s
    needRoom 2 s
    .ok (sendCmd (basinFor m.b) m (pushPend { Pend.mk0 .acqCmd 0 0 0 0 [] with acq := true } s))) s

/-- CSINFO of the summary (R288). -/
def execCsinfoSummary (x : TX) (s : State) : Out :=
  issueJump x.pg [x.a, x.b] [x.b] (fun s =>
    let m := msgOf 0xba x s
    sendRule [(.write, m.a.toNat, 64, 64)] m s) s

/-- CSINFO of one entry (R288). -/
def execCsinfoEntry (x : TX) (s : State) : Out :=
  issueJump x.pg [x.a, x.b] [x.b] (fun s => sendRule [(.write, (s.me.rg x.a.toNat).toNat, 64, 64)] (msgOf 0xba x s) s) s

/-- CSCLR of every entry (R289). -/
def execCsclrAll (x : TX) (s : State) : Out := issueJump x.pg [x.b] [x.b] (fun s => sendRule [] (msgOf 0xbb x s) s) s

/-- CSCLR of one rule (R289). -/
def execCsclrRule (x : TX) (s : State) : Out :=
  issueJump x.pg [x.b] [x.b] (fun s =>
    let m := msgOf 0xbb x s
    sendRule [] m s) s

/-- RLOAD (R290). -/
def execRload (x : TX) (s : State) : Out := issueJump x.pg [x.b] [x.b] (fun s => sendRule [] (msgOf 0xbc x s) s) s

/-! ### Ranking (R279) -/

/-- An FP32 score as an integer in the order of the ranking: −0 equals +0, NaN lies below every number. -/
def scoreKey (c : Nat) : Int :=
  let mag : Nat := c % 2147483648
  if 0x7f800000 < mag then -4294967296 else if bit c 31 then -(mag : Int) else (mag : Int)

/-- Timetags in descending order, a missing one lowest. -/
def ttKey (b : Basin) : List Nat := ((sortBy (fun (x y : Nat) => decide (y < x)) b.tts).map (· + 1) ++ [0, 0, 0]).take 3

/-- Is one list of numbers above another of its length? -/
def aboveL : List Nat → List Nat → Bool
  | x :: xs, y :: ys => decide (y < x) || (decide (x = y) && aboveL xs ys)
  | _, _ => false

/-- Does one entry rank before another? -/
def outranks (a b : Basin) : Bool :=
  if a.sal ≠ b.sal then decide (b.sal < a.sal)
  else if scoreKey a.score ≠ scoreKey b.score then decide (scoreKey b.score < scoreKey a.score)
  else if ttKey a ≠ ttKey b then aboveL (ttKey a) (ttKey b)
  else decide (a.rule < b.rule)

/-- The entries of a network that pass a test, ranked. -/
def ranked (s : State) (iid : Nat) (p : Basin → Bool) : List (Nat × Basin) :=
  sortBy (fun (x y : Nat × Basin) => outranks x.2 y.2) (s.fab.basin.filter fun e => decide (e.2.net = iid) && p e.2)

/-- The state code of an entry (R278). -/
def BasinSt.code : BasinSt → Nat
  | .ready => 1 | .firing => 2 | .fired => 3

/-- The 64 bytes of an entry (R277). -/
def basinBytes (b : Basin) : List Byte :=
  let tt := fun (k : Nat) => toBytes 6 (b.tts.getD k 0)
  toBytes 2 b.rule ++ toBytes 2 (b.sal % 65536).toNat ++ toBytes 4 b.score ++ toBytes 1 b.st.code ++ toBytes 1 b.n ++ toBytes 4 b.net ++
  toBytes 2 0 ++ toBytes 8 b.m.toNat ++ tt 0 ++ tt 1 ++ tt 2 ++ toBytes 6 0 ++ toBytes 8 b.ts ++ toBytes 8 0

/-! ### Results (R286) -/

/-- A result word. -/
def ruleWord (status count value : Nat) : W := w64 (status * 2 ^ 56 + count * 2 ^ 48 + value % 2 ^ 32)

/-- A command of the Basin completes. -/
def ruleReply (m : Msg) (status count value : Nat) (s : State) : State := dirDone m (setResult m (ruleWord status count value) s)

/-- A command whose buffer cannot be written any more: a PAGE trap falls due, and nothing else happens. -/
def ruleFail (m : Msg) (e : XKind × Nat) (s : State) : State := dueTrap m cPAGE (pageValue e.1 .write e.2) (dirDone m s)

/-! ### CSSEL (R281, R282) -/

/-- No firing of a network is an uncommitted task, and it is settled. -/
def ruleReady (s : State) (iid : Nat) : Bool :=
  netSettled s iid && !s.fab.basin.any fun e => decide (e.2.net = iid) && decide (e.2.st = .firing)

/-- RETRACTED slots become free (R267, R269). -/
def freeSlotsOf (iid : Nat) (i : Inv) (n : Net) (s : State) : State :=
  let gone := (n.wm.filter fun e => e.2.1).map Prod.fst
  let s1 := gone.foldl (fun s w => mereWrite s i none (n.slotVa w) (List.replicate 16 0)) s
  s1.onNet iid fun n => { n with wm := n.wm.filter (fun e => !e.2.1), free := n.free + gone.length }

/-- The shards that FSH admits on a home die. -/
def admitted (die fsh : Nat) : List Nat := ((upto 0 32).filter fun k => bit fsh k).map fun k => die * 32 + k

/-- The timestamp of rank r of cycle n. -/
def firingTs (n r die : Nat) : Nat := ((n * 65536 + r) * 65536) + 0x400 + die

/-- The code and data of a network's module. -/
def modulOf (s : State) (md : Nat) : Modul := Tab.getD s.fab.modules md ⟨0, 0, []⟩

/-- Entry e becomes the firing of rank r: its record, its task, its place among the firings to start. -/
def selectOne (m : Msg) (i : Inv) (n : Net) (s : State) (x : Nat × Nat × Basin) : State :=
  let (r, e, b) := x
  let ts := firingTs n.n r i.region.die
  let b1 := { b with st := .firing, ts := ts }
  let rec_ := m.a.toNat + (r - 1) * 64
  let s1 := s.putBasin (Tab.put s.fab.basin e b1)
  let s2 := match writeVa s1 m.who none rec_ (basinBytes b1) with
    | .ok s2 => s2
    | .error _ => s1
  let rule := (n.rules.find? fun q => decide (q.rule = b.rule)).getD ⟨0, 0, 0⟩
  let md := modulOf s i.modul
  let pc := alignPc (md.code + w64 rule.act)
  let k : Task := ⟨s2.nextId, ts, none, pc, md.data, w64 rec_, 0, false, [], [], [], some e, some m.net, false, (admitted i.region.die n.fsh).headD 0, 0⟩
  { s2 with
    nextId := s2.nextId + 1, tasks := insertTask k s2.tasks,
    fab := { s2.fab with firings := s2.fab.firings ++ [⟨e, ts, w64 rec_, m, pc, md.data⟩] } }

/-- CSSEL acts on a settled network. -/
def selectNow (m : Msg) (iid : Nat) (i : Inv) (n : Net) (s : State) : State :=
  if n.full ≠ [] then ruleReply m 1 0 0 s
  else if n.n = 0xffffffff then ruleReply m 3 0 0 s
  else
    let s1 := freeSlotsOf iid i n s
    let c := (ranked s1 iid fun b => decide (b.st = .ready)).take (m.imm % 64 + 1)
    if c = [] then ruleReply m 0 0 n.n s1
    else match translates s1 m.who .write m.a.toNat (64 * c.length) with
      | .error e => ruleFail m e s1
      | .ok _ =>
        let s2 := s1.onNet iid fun n => { n with n := n.n + 1 }
        let s3 := ((upto 1 c.length).zip c).foldl (selectOne m i { n with n := n.n + 1 }) s2
        ruleReply m 0 c.length (n.n + 1) s3

/-- The thread that a firing inherits its terms from (R282). -/
def firingFrom (f : Firing) (md : Nat) : Thread :=
  let o := f.msg.opnd
  { Thread.reset with
    modul := md,
    sys := { Sys.reset with prio := o.getD 0 0, quant := o.getD 1 0, pw := o.getD 2 0, ctx := o.getD 3 0, owner := w64 f.msg.owner } }

/-- The thread that a firing could start on now: the lowest HALTED one of the lowest shard that its network admits and that has one; and the
module of its network. -/
def firingPlace (s : State) (die : Nat) (f : Firing) : Option (Nat × Nat) :=
  match Tab.look s.fab.basin f.entry with
  | none => none
  | some b =>
    match s.inv b.net, s.net b.net with
    | some i, some n => ((admitted die n.fsh).findSome? (haltedThread s)).map fun tid => (tid, i.modul)
    | _, _ => none

/-- FIRING_START (R282): the first firing of a die, in rank order, for which a thread is free starts on it. -/
def execFiringStart (die : Nat) (s : State) : Out :=
  match (s.fab.firings.filter fun f => decide (f.ts % 65536 = 0x400 + die)).findSome? fun f => (firingPlace s die f).map fun p => (f, p) with
  | none => .next s
  | some (f, tid, md) =>
    let s1 := startThread s tid (firingFrom f md) f.act f.data f.recva (w64 f.ts)
    let s2 := { s1 with tasks := s1.tasks.map fun (t : Task) => if t.firing = some f.entry then { t with tid := some tid, shard := shardOf tid } else t }
    .next { s2 with fab := { s2.fab with firings := s2.fab.firings.erase f } }

/-! ### CSINFO and CSCLR (R288, R289) -/

/-- Entries of a network in a state. -/
def countSt (s : State) (iid : Nat) (st : BasinSt) : Nat := (basinOf s iid fun b => decide (b.st = st)).length

/-- The summary of a network. -/
def summaryBytes (s : State) (iid : Nat) (n : Net) : List Byte :=
  toBytes 4 n.n ++ toBytes 4 (countSt s iid .ready) ++ toBytes 4 (countSt s iid .firing) ++ toBytes 4 (countSt s iid .fired) ++
  toBytes 4 (n.wm.filter fun e => !e.2.1).length ++ toBytes 4 n.stale ++ toBytes 6 n.t ++ toBytes 2 0 ++
  ((upto 0 4).flatMap fun k => toBytes 4 (Tab.getD n.scorers k ⟨0, [], 0, 0⟩).gen) ++ List.replicate 16 0

/-- CSINFO acts. -/
def infoNow (m : Msg) (n : Net) (s : State) : State :=
  let bs := if m.cls = 0 then summaryBytes s m.net n else
    match (ranked s m.net fun _ => true)[m.imm % 65536]? with
    | some e => basinBytes e.2
    | none => List.replicate 64 0
  match writeVa s m.who none m.a.toNat bs with
  | .ok s1 => ruleReply m 0 0 n.n s1
  | .error e => ruleFail m e s

/-- CSCLR acts: every entry, or those of one rule, whatever their state. -/
def clearNow (m : Msg) (s : State) : State :=
  let es := basinOf s m.net fun b => decide (m.cls = 0) || decide (b.rule = m.imm % 65536)
  ruleReply m 0 0 es.length (es.foldl removeEntry s)

/-! ### RLOAD (R290) -/

/-- Open the names of slots in turn, as the network copied them at its launch (R265): the state and the new slots, or the failing name's VA. -/
def reopen (i : Inv) : List (Nat × Scorer) → State → Except W (State × Tab Scorer)
  | [], s => .ok (s, [])
  | (k, x) :: rest, s =>
    match (openable s x.name i.owner).bind fun o => (openObj s i.ctxid o false).map fun r => (r, o) with
    | none => .error x.va
    | some ((s2, h), o) =>
      match reopen i rest s2 with
      | .error v => .error v
      | .ok (s3, t) => .ok (s3, Tab.put t k { x with handle := h, gen := ((Tab.look s2.tab.objs o).map fun x => x.desc.gen).getD 0 })

/-- RLOAD acts on a settled network; a failing open undoes those before it. -/
def reloadNow (m : Msg) (iid : Nat) (i : Inv) (n : Net) (s : State) : State :=
  let old := n.scorers.filter fun e => bit m.imm e.1
  match reopen i old s with
  | .error va => dueTrap m cNOTBOUND va (ruleReply m 4 0 0 s)
  | .ok (s1, fresh) =>
    let s2 := old.foldl (fun s e => closeHandle s i.ctxid e.2.handle) s1
    ruleReply m 0 0 0 (s2.onNet iid fun n => { n with scorers := fresh.foldl (fun t e => Tab.put t e.1 e.2) n.scorers })

/-! ### The Basin's turn -/

/-- A delta that is applied at once: it waits while its tokens would overfill the queue (R283); a network that has ended takes none. -/
def applyNow (m : Msg) (s : State) : Option State :=
  match m.ownNet s with
  | none => some (dueTrap m cPRIV m.b (retireC m s))
  | some (_, n) =>
    if 4096 < n.queue.length + m.delta.tokens s then none else some (retireC m (applyDelta none s m.delta))

/-- Is a message a delta? -/
def Msg.isDelta (m : Msg) : Bool := decide (0xb0 ≤ m.op) && decide (m.op ≤ 0xb2)

/-- The head of a Basin's inbox has its turn; CSSEL and RLOAD go on to wait for their network. -/
def basinTurn (src : Nat) (s : State) : State :=
  match s.inbox src with
  | [] => s
  | m :: rest =>
    let s1 := s.putInbox src rest
    if m.isDelta then (applyNow m s1).getD s
    else if m.op = 0xb9 ∨ m.op = 0xbc then addCmd (Cmd.start 0 src m) s1
    else match m.ownNet s1 with
      | none => ruleReply m 2 0 0 s1
      | some (_, n) => if m.op = 0xba then infoNow m n s1 else clearNow m s1

/-- DELTA_APPLY (R283): a delta at the head of its Basin's inbox is applied once the queue has room. -/
def execDeltaApply (net : Nat) (s : State) : Out :=
  let src := basinFor (w64 net)
  match s.inbox src with
  | [] => .next s
  | m :: rest =>
    if m.isDelta && decide (m.net = net) then .next ((applyNow m (s.putInbox src rest)).getD s) else .next s

/-- A CSSEL or RLOAD that may complete now: none of its network is ahead of it, and its network is settled with no firing. -/
def ruleMayReply (s : State) (c : Cmd) : Bool :=
  !(s.eng.cmds.any fun d => decide (d.id < c.id) && decide (d.eng = c.eng) && decide (d.msg.net = c.msg.net)) &&
  ((c.msg.ownNet s).isNone || if c.msg.op = 0xb9 then ruleReady s c.msg.net else netSettled s c.msg.net)

/-- Remove a started command. -/
def dropCmd (id : Nat) (s : State) : State := { s with eng := { s.eng with cmds := s.eng.cmds.filter fun c => decide (c.id ≠ id) } }

/-- CSSEL, RLOAD complete. -/
def ruleEnd (c : Cmd) (s : State) : State :=
  let m := c.msg
  let s1 := dropCmd c.id s
  match m.ownNet s1 with
  | none => ruleReply m 2 0 0 s1
  | some (i, n) => if m.op = 0xb9 then selectNow m m.net i n s1 else reloadNow m m.net i n s1

/-! ### Injection (R283) -/

/-- Has ROOT's field no room for a token: a token stands there, or the Basin knows of no free slot in the channel that ROOT names (R208)? -/
def rootFull (i : Inv) (node f tag : Nat) : Bool :=
  match Tab.look i.nodes node with
  | some nd => if nd.op = 0x96 then decide (freeSlots i (rootKey node) (threadCap nd) = 0) else (i.slot node tag).has f
  | none => true

/-- A token stands in ROOT's field, or at the tail of the channel that ROOT names. -/
def rootTake (s : State) (net : Nat) (i : Inv) (node f : Nat) (t : Tok) : State :=
  if (Tab.look i.nodes node).map Node.op = some 0x96 then
    markQueued (s.putInv net (((i.onSt node fun x => { x with line := x.line ++ [t] }).take (rootKey node)).activity s)) net node 0 (i.st node).line
  else s.putInv net ((i.putSlot node t.tag ((i.slot node t.tag).set f t)).activity s)

/-- DELTA_INJECT (R283): the oldest token of a network's delta queue enters ROOT's field when that accepts it. -/
def execDeltaInject (net : Nat) (s : State) : Out :=
  match s.net net, s.inv net with
  | some n, some i =>
    match n.queue with
    | [] => .next s
    | v :: rest =>
      let node := n.root / 4
      let f := n.root % 4
      let c := i.ct node
      if i.phase = .out ∨ i.phase = .drain ∨ c.saved ∨ c.hold ∨ c.blocked ∨ rootFull i node f (baseTag net) then .next s
      else .next ((rootTake s net i node f ⟨v, baseTag net, .zero, 0⟩).putNet net { n with queue := rest })
  | _, _ => .next s

end Sys2Proof.Machine
end

