-- ==== Sys2Proof/Machine/Engines.lean ====
section
/-! DEFINITION. Engine commands, opcodes 0x70 to 0x77 but XTASK: block-transfer engines and the collective engine; messages entering
engines, chunks, replies (spec 09_memory_ops R172, R182 to R186, 11_queues R214, 18_outside R356 to R358, R360). -/
namespace Sys2Proof.Machine

/-! ### Issue (R182) -/

/-- A command that counts on C and goes to an engine's inbox, with or without the h operand. -/
def engineBody (op eng : Nat) (h : Bool) (x : TX) : Body := fun s => do
  needIrrev s
  let (s1, m) ← engineMsg op x s
  needRoom 2 s
  .ok (sendCmd eng (if h then m.withH x s else m) s1)

/-- XCOPY (R184). -/
def execXcopy (x : TX) (s : State) : Out := issueJump x.pg [x.a] [] (fun s => engineBody 0x70 (srcBte s.cur) false x s) s

/-- XGATH (R184). -/
def execXgath (x : TX) (s : State) : Out := issueJump x.pg [x.a, x.b] [] (fun s => engineBody 0x71 (srcBte s.cur) true x s) s

/-- XSCAT (R184). -/
def execXscat (x : TX) (s : State) : Out := issueJump x.pg [x.a, x.b] [] (fun s => engineBody 0x72 (srcBte s.cur) true x s) s

/-- XCOLL (R357). -/
def execXcoll (x : TX) (s : State) : Out := issueJump x.pg [x.a, x.b] [] (engineBody 0x73 srcColl true x) s

/-- XCKPT (R360): privileged. -/
def execXckpt (x : TX) (s : State) : Out :=
  issueJump x.pg [x.a] [] (fun s => do
    needPrv s
    engineBody 0x76 srcColl false x s) s

/-- An engine of this package with a source number that takes active messages (R32, R33). -/
def takesMsgs (n : Nat) : Bool :=
  (decide (0x400 ≤ n) && decide (n < 0x404)) || (decide (0x420 ≤ n) && decide (n < 0x440)) || decide (n = srcColl) || decide (n = srcDir)

/-- XSEND (R184): an engine that takes no active messages refuses with reason 4. -/
def execXsend (x : TX) (s : State) : Out :=
  issueJump x.pg [x.a, x.b] [] (fun s => do
    needIrrev s
    let (s1, m) ← engineMsg 0x75 x s
    needRoom 2 s
    let n := (s.me.rg x.b.toNat).toNat
    if takesMsgs n then .ok (sendCmd n m s1)
    else .ok (advance (writeReply m n 3 4 0 { s1 with nextId := s.nextId + 1 }))) s

/-! ### Operands (R184) -/

/-- The operands of an engine command. -/
def Msg.op_ (m : Msg) (k : Nat) : Nat := (m.opnd.getD k 0).toNat

/-- The tile that an operand names. -/
def Msg.tref (m : Msg) (k : Nat) (s : State) : Option Nat := trefKey s m.owner (m.opnd.getD k 0)

/-- Operands from one on are zero. -/
def Msg.zeroFrom (m : Msg) (k : Nat) : Bool := (m.opnd.drop k).all fun w => decide (w = 0)

/-- The tensor of the h operand; none where its V is 0. -/
def Msg.tensor (m : Msg) (s : State) : Option Desc := if m.hv then (s.handle m.ctxid m.hidx).map fun h => h.desc else none

/-- Chunks of 512 bytes. -/
def chunkCount (n : Nat) : Nat := (n + 511) / 512

/-- A started command stops before it moves anything. -/
def stopCmd (m : Msg) (eng status code : Nat) (s : State) : State :=
  addCmd { Cmd.start 0 eng m with stop := some (status, code) } s

/-- It stops for a failed read or write of its own, with the record to its sender (R172, R183). -/
def faultCmd (m : Msg) (eng code : Nat) (v : W) (s : State) : State := stopCmd m eng 2 code (recSender m eng code v s)

/-- May a command write a tile now (R185, R248)? The reason for which it may not; accumulator storage takes the writes of dot
blocks only (R141). -/
def dstFault (s : State) (k : Nat) : Option Nat :=
  if inAcc s k then some 5 else if (s.tile k).st ≠ .empty ∨ ringTailOk s k = false then some 1 else none

/-- May a command read a tile now? -/
def srcFault (s : State) (k : Nat) : Option Nat :=
  if (s.tile k).st ≠ .ready then some 1 else if (s.tile k).poison then some 2 else none

/-- The tiles of a command that starts: the destination FILLING, the source DRAINING. -/
def startCmd (c : Cmd) (s : State) : State :=
  let s1 := match c.dst with
    | some k => startFill s k
    | none => s
  let s2 := match c.src with
    | some k => s1.onTile k fun e => { e with st := .draining }
    | none => s1
  addCmd c s2

/-! ### XCOPY (R184) -/

/-- The tiles of an XCOPY: source, destination. -/
def copyTiles (m : Msg) (s : State) : Option Nat × Option Nat :=
  (if 2 ≤ m.cls then m.tref 0 s else none, if m.cls % 2 = 1 then m.tref 1 s else none)

/-- The operands keep to R184: count, KEEP, unused words, tiles and their sizes. -/
def copyOk (m : Msg) (s : State) : Bool :=
  let n := m.op_ 2
  let (a, b) := copyTiles m s
  decide (1 ≤ n) && decide (n ≤ 2 ^ 40) && (decide (m.cls = 0) || decide (n % 512 = 0)) && decide (m.op_ 3 ≤ 1) && m.zeroFrom 4 &&
  (decide (m.cls < 2) || a.any fun k => decide (n ≤ (s.tile k).bytes)) &&
  (decide (m.cls % 2 = 0) || b.any fun k => decide (n ≤ (s.tile k).bytes))

/-- The first reason for which two tiles are not as a command needs them. -/
def tileFault (s : State) (src dst : Option Nat) : Option Nat := ((dst.bind (dstFault s)).orElse fun _ => src.bind (srcFault s))

/-- XCOPY starts. -/
def startCopy (m : Msg) (eng : Nat) (s : State) : State :=
  let (a, b) := copyTiles m s
  if !copyOk m s then stopCmd m eng 3 5 s else
  match tileFault s a b with
  | some r => stopCmd m eng 3 r s
  | none =>
    startCmd { Cmd.start 0 eng m with src := a, dst := b, keep := decide (m.op_ 3 = 1), total := chunkCount (m.op_ 2) } s

/-! ### XGATH and XSCAT (R184)

A row is an index of dimension 0; its elements follow in row-major order, whole blocks for a block format. -/

/-- The coordinates of one row, without dimension 0: the last dimension by blocks where the format has them. -/
def coordsOf (fmt : Nat) : List Nat → List (List Nat)
  | [] => [[]]
  | [n] => (upto 0 (n / unitElems fmt)).map fun i => [i * unitElems fmt]
  | n :: rest => (upto 0 n).flatMap fun i => (coordsOf fmt rest).map fun cs => i :: cs

/-- The VA of each byte of a row of a tensor. -/
def rowVas (d : Desc) (row : Nat) : List Nat :=
  (coordsOf d.fmt (d.dims.drop 1)).flatMap fun cs =>
    let at_ := (unitOf d.fmt (d.index (row :: cs)).toNat).1
    (upto 0 (unitBytes d.fmt)).map fun k => (d.base.toNat + at_ + k) % 2 ^ 64

/-- Bytes of a row. -/
def rowLen (d : Desc) : Nat := (coordsOf d.fmt (d.dims.drop 1)).length * unitBytes d.fmt

/-- The indices of a list as it stands in memory (N32). -/
def indicesOf (bs : List Byte) : List Nat := (upto 0 (bs.length / 4)).map fun k => leAt bs (4 * k) 4

/-- A row's VAs in list order; a row of XSCAT whose index comes again later is left out, so that the later row stands. -/
def listVas (d : Desc) (scat : Bool) : List Nat → List (Option Nat)
  | [] => []
  | r :: rest =>
    (if scat && decide (r ∈ rest) then List.replicate (rowLen d) none else (rowVas d r).map some) ++ listVas d scat rest

/-- The tile operand of XGATH and XSCAT. -/
def rowsTile (m : Msg) (s : State) : Option Nat := m.tref 2 s

/-- The operands keep to R184. DESIGN CHOICE (log 91): a count of 0, or more bytes than the tile holds, breaks them. -/
def rowsOk (m : Msg) (s : State) (d : Desc) : Bool :=
  let n := m.op_ 1 * rowLen d
  m.zeroFrom 3 && decide (1 ≤ m.op_ 1) && decide (1 ≤ n) && (rowsTile m s).any fun k => decide (n ≤ (s.tile k).bytes)

/-- Every destination byte of an XSCAT, checked for write before any is written (R172). -/
def scatCheck (s : State) (m : Msg) (d : Desc) (list : List Nat) : Option (XKind × Nat) :=
  let vas := (listVas d false list).filterMap id
  if !d.wr then some (.permission, vas.headD 0) else
  vas.findSome? fun va => match translate s m.who .write va with
    | .error k => some (k, va)
    | .ok _ => none

/-- XGATH, XSCAT start: the index list is read. DESIGN CHOICE (log 91): an index at or beyond DIM 0 is refused with reason 5. -/
def startRows (m : Msg) (eng : Nat) (s : State) : State :=
  let scat := decide (m.op = 0x72)
  match m.tensor s with
  | none => stopCmd m eng 3 5 s
  | some d =>
    if !rowsOk m s d then stopCmd m eng 3 5 s else
    let (a, b) := if scat then (rowsTile m s, none) else (none, rowsTile m s)
    match tileFault s a b with
    | some r => stopCmd m eng 3 r s
    | none =>
      match readVa s m.who (m.op_ 0) (4 * m.op_ 1) with
      | .error e => faultCmd m eng e.report.1 e.report.2 s
      | .ok (s1, bs) =>
        let list := indicesOf bs
        if list.any (fun r => decide (d.dim.headD 0 ≤ r)) then stopCmd m eng 3 5 s1 else
        match (if scat then scatCheck s1 m d list else none) with
        | some (k, va) => faultCmd m eng cPAGE (pageValue k .write va) s1
        | none =>
          startCmd { Cmd.start 0 eng m with src := a, dst := b, list := list, desc := some d, total := chunkCount (list.length * rowLen d) } s1

/-! ### Moving one chunk -/

/-- Where a byte is, while an engine moves it: a PA and whether its home caches it (R149), or nothing for a byte that is left out. -/
abbrev Spot := Option Xl

/-- Translate bytes one by one; the state has the TLB fills. -/
def spotsOf (who : Who) (acc : Acc) : List (Option Nat) → State → Except (XKind × Nat) (State × List Spot)
  | [], s => .ok (s, [])
  | none :: vs, s =>
    match spotsOf who acc vs s with
    | .error e => .error e
    | .ok (s1, ps) => .ok (s1, none :: ps)
  | some va :: vs, s =>
    match translate s who acc va with
    | .error k => .error (k, va)
    | .ok (s1, x) =>
      match spotsOf who acc vs s1 with
      | .error e => .error e
      | .ok (s2, ps) => .ok (s2, some x :: ps)

/-- The bytes of one chunk of a tile. -/
def tileSpots (s : State) (key lo n : Nat) : List Spot := (upto lo n).map fun o => some ⟨tilePa s key o, true⟩

/-- Bytes in all of a transfer. -/
def Cmd.bytes (c : Cmd) : Nat :=
  if c.msg.op = 0x70 then c.msg.op_ 2 else match c.desc with
    | some d => c.list.length * rowLen d
    | none => 0

/-- The memory side of a transfer: the VA of each byte of a chunk. -/
def chunkVas (c : Cmd) (src : Bool) (lo n : Nat) : List (Option Nat) :=
  if c.msg.op = 0x70 then (upto lo n).map fun o => some ((c.msg.op_ (if src then 0 else 1) + o) % 2 ^ 64)
  else match c.desc with
    | some d => ((listVas d (!src) c.list).drop lo).take n
    | none => []

/-- One side of a chunk. -/
def sideSpots (c : Cmd) (src : Bool) (lo n : Nat) (s : State) : Except (XKind × Nat) (State × List Spot) :=
  match (if src then c.src else c.dst) with
  | some k => .ok (s, tileSpots s k lo n)
  | none => spotsOf c.msg.who (if src then .read else .write) (chunkVas c src lo n) s

/-- Perform the late writes of a command, or those of one of its chunks (R197). -/
def flushLate (mine : Nat × Nat × List Nat × List (Nat × Byte) → Bool) (s : State) : State :=
  (s.eng.late.filter mine).foldl (fun s e => writeRunsUnc s none e.2.2.1 (e.2.2.2.map Prod.fst) (e.2.2.2.map Prod.snd))
    { s with eng := { s.eng with late := s.eng.late.filter fun e => !mine e } }

/-- Threads that WAITM holds at a command's tile keep what a chunk of it overwrites: a plain load that no acquire orders after the wait may still
return it (R191, `earlyRead`). -/
def keepOld (c : Cmd) (xs : List Xl) (s : State) : State :=
  match c.dst with
  | none => s
  | some key =>
    let old := xs.map fun x => (x.pa, s.mem.rd x.pa)
    { s with threads := s.threads.map fun e => match e.2.st, e.2.why with
      | .stalled, .chunks k _ _ => if k = key then (e.1, { e.2 with stale := old.foldl (fun t x => Tab.put t x.1 x.2) e.2.stale }) else e
      | _, _ => e }

/-- A command's data reaches memory. Without REL nothing orders it with the command's completions (R197; log 88): a free value says whether it is
performed now or is still under way when they are written. -/
def dataWrite (c : Cmd) (k : Nat) (xs : List Xl) (bs : List Byte) (s : State) : State :=
  if c.msg.rel then writeRunsUnc (keepOld c xs s) none (uncOf xs) (xs.map Xl.pa) bs
  else
    let s1 := { s with fresh := s.fresh + 1 }
    if bit (Config.freeValue s.fresh).toNat 0 then
      { s1 with eng := { s1.eng with late := s1.eng.late ++ [(c.id, k, uncOf xs, (xs.map Xl.pa).zip bs)] } }
    else writeRunsUnc s1 none (uncOf xs) (xs.map Xl.pa) bs

/-- The bytes of two sides that move: from where, to where. -/
def spotPairs (from_ dest : List Spot) : List (Xl × Xl) :=
  (from_.zip dest).filterMap fun e => match e.1, e.2 with
    | some a, some b => some (a, b)
    | _, _ => none

/-- Would poison reach a line that an issued atomic is still to act on (R169)? The chunk waits for it. -/
def poisonWaits (from_ dest : List Spot) (s : State) : Bool := (spotPairs from_ dest).any fun e => s.mem.bad e.1.pa && atomicOn s e.2.pa

/-- Move bytes: lines of cached pages come into their home slices (R149), poison goes with the bytes to each destination line, and into the tile's
entry (R162). -/
def moveBytes (c : Cmd) (k : Nat) (from_ dest : List Spot) (s : State) : State :=
  let ps := spotPairs from_ dest
  let src := ps.map Prod.fst
  let dest := ps.map Prod.snd
  let s := (s.bring ((src.filter Xl.cached).map Xl.pa)).refresh (src.map Xl.pa)
  let bad := (ps.filter fun e => s.mem.bad e.1.pa).map fun e => e.2.pa
  let bs := src.map fun x => s.mem.rd x.pa
  let s1 := if bad = [] then dataWrite c k dest bs s else writeRunsUnc s none (uncOf dest) (dest.map Xl.pa) bs
  let s2 := { s1 with mem := bad.foldl (fun m p => m.setBad p true) s1.mem }
  match c.dst with
  | some k => if bad = [] then s2 else s2.onTile k fun e => { e with poison := true }
  | none => s2

/-- Update a started command. -/
def onCmd (id : Nat) (f : Cmd → Cmd) (s : State) : State :=
  { s with eng := { s.eng with cmds := s.eng.cmds.map fun c => if c.id = id then f c else c } }

/-- A command has completed every chunk. -/
def Cmd.full (c : Cmd) : Bool := decide (popc c.total c.chunks = c.total)

/-- The last chunk is written (R185): the destination is READY unless poisoned, with its data performed (R248), the source EMPTY, or READY with
KEEP. -/
def endTiles (c : Cmd) (s : State) : State :=
  let s1 := match c.dst with
    | some k => (flushLate (fun e => decide (e.1 = c.id)) s).onTile k fun e => if e.poison then e else { e with st := .ready }
    | none => s
  match c.src with
  | some k => s1.onTile k fun e => { e with st := if c.keep then .ready else .empty }
  | none => s1

/-- A chunk is complete: its bit, in the command and in the tile's entry. -/
def markChunk (c : Cmd) (k : Nat) (s : State) : State :=
  let c1 := { c with chunks := c.chunks ||| 2 ^ k }
  let s1 := onCmd c.id (fun _ => c1) s
  let s2 := match c.dst with
    | some t => s1.onTile t fun e => { e with bitmap := e.bitmap ||| (1#64 <<< k) }
    | none => s1
  if c1.full then endTiles c1 s2 else s2

/-- A started command meets a failure: it stops. -/
def failCmd (c : Cmd) (code : Nat) (v : W) (s : State) : State :=
  onCmd c.id (fun c => { c with stop := some (2, code) }) (recSender c.msg c.eng code v s)

/-- One chunk of XCOPY, XGATH or XSCAT. -/
def moveChunk (c : Cmd) (k : Nat) (s : State) : State :=
  let lo := 512 * k
  let n := min 512 (c.bytes - lo)
  match sideSpots c true lo n s with
  | .error (x, va) => failCmd c cPAGE (pageValue x .read va) s
  | .ok (s1, from_) =>
    match sideSpots c false lo n s1 with
    | .error (x, va) => failCmd c cPAGE (pageValue x .write va) s
    | .ok (s2, dest) => if poisonWaits from_ dest s2 then s else markChunk c k (moveBytes c k from_ dest s2)

/-! ### XCOLL (R356 to R358) -/

/-- Members, the rank of this package, elements, bytes of one, of a collective that has started. -/
def Cmd.members (c : Cmd) : Nat := c.list.length
def rankOf (s : State) (list : List Nat) : Nat := list.findIdx fun c => decide (c = s.cid)
def Cmd.elems (c : Cmd) : Nat := c.msg.op_ 4
def Cmd.unit (c : Cmd) : Nat := match c.desc with
  | some d => unitBytes d.fmt
  | none => 4

/-- Elements that a member sends, and receives. -/
def sentElems (fn m e : Nat) : Nat := if fn = 3 then e / m * m else e
def gotElems (fn m e : Nat) : Nat := match fn with | 1 => e / m | 2 => m * e | 3 => e / m * m | _ => e

/-- Bytes of one contribution as it reaches this member: its part for an alltoall. -/
def partBytes (fn m e unit : Nat) : Nat := (if fn = 3 then e / m else e) * unit

/-- Rising member list. -/
def risingList : List Nat → Bool
  | a :: b :: t => decide (a < b) && risingList (b :: t)
  | _ => true

/-- The operands of XCOLL but its list (R184, R357). DESIGN CHOICE (log 91): elements beyond the EXTENT of the object break them. -/
def collOk (m : Msg) (s : State) (d : Desc) : Bool :=
  let n := m.op_ 1
  let e := m.op_ 4
  let u := unitBytes d.fmt
  decide (2 ≤ n) && decide (n ≤ 1024) && decide (1 ≤ e) && (decide (m.fn ≠ 1 ∧ m.fn ≠ 3) || decide (e % n = 0)) &&
  (decide (m.fn = 4) || decide (m.op_ 5 = 0)) && decide (m.op_ 5 < 65536) && decide (m.op_ 3 % 32 = 0) &&
  decide (e * u ≤ d.extent) &&
  (if m.op_ 2 = 0 then decide (gotElems m.fn n e * u ≤ d.extent)
   else (m.tref 2 s).any fun k => decide (gotElems m.fn n e * u ≤ (s.tile k).bytes))

/-- Bytes of a member list (N16). -/
def membersOf (bs : List Byte) : List Nat := (upto 0 (bs.length / 2)).map fun k => leAt bs (2 * k) 2

/-- The collective with this tag and list is outstanding at this member (R358). -/
def outstanding (s : State) (tag : Nat) (list : List Nat) : Bool :=
  s.eng.cmds.any fun c => decide (c.msg.op = 0x73) && decide (c.msg.imm % 65536 = tag) && decide (c.list = list) && c.stop.isNone

/-- Does this member send: all but the others of a bcast. -/
def sends (m : Msg) (s : State) : Bool := decide (m.fn ≠ 4) || decide (m.op_ 5 = s.cid)

/-- What this member contributes to itself. -/
def ownPart (fn m e unit rank : Nat) (data : List Byte) : List Byte :=
  if fn = 3 then (data.drop (rank * (e / m) * unit)).take (e / m * unit) else data

/-- A collective whose checks have passed: its results' places are checked (R172), its send buffer is read; one that cannot be read stops it
with its tile FILLING (R358). -/
def startColl2 (m : Msg) (eng : Nat) (d : Desc) (list : List Nat) (s : State) : State :=
  let e := m.op_ 4
  let u := unitBytes d.fmt
  let got := gotElems m.fn list.length e * u
  let tile := if m.op_ 2 = 0 then none else m.tref 2 s
  let check := if tile.isSome then none else
    if !d.wr then some (XKind.permission, d.base.toNat) else match translates s m.who .write d.base.toNat got with
      | .error f => some f
      | .ok _ => none
  match check with
  | some (k, va) => faultCmd m eng cPAGE (pageValue k .write va) s
  | none =>
    let c := { Cmd.start 0 eng m with dst := tile, list := list, desc := some d, total := chunkCount got }
    match (if sends m s then readVa s m.who d.base.toNat (sentElems m.fn list.length e * u) else .ok (s, [])) with
    | .error err => startCmd { c with stop := some (2, err.report.1) } (recSender m eng err.report.1 err.report.2 s)
    | .ok (s1, bs) =>
      let rank := rankOf s list
      let parts : Tab (List Nat × List Byte) := if sends m s then [(rank, [rank], ownPart m.fn list.length e u rank bs)] else []
      startCmd { c with data := bs, parts := parts } s1

/-- XCOLL starts. -/
def startColl (m : Msg) (eng : Nat) (s : State) : State :=
  match m.tensor s with
  | none => stopCmd m eng 3 5 s
  | some d =>
    if d.fmt ≠ 8 ∧ d.fmt ≠ 9 then stopCmd m eng 3 3 s
    else if !collOk m s d then stopCmd m eng 3 5 s
    else match readVa s m.who (m.op_ 0) (2 * m.op_ 1) with
      | .error e => faultCmd m eng e.report.1 e.report.2 s
      | .ok (s1, bs) =>
        let list := membersOf bs
        if !risingList list || decide (s.cid ∉ list) || (decide (m.fn = 4) && decide (m.op_ 5 ∉ list)) ||
            outstanding s (m.imm % 65536) list then stopCmd m eng 3 5 s1
        else match (if m.op_ 2 = 0 then none else tileFault s1 none (m.tref 2 s1)) with
          | some r => stopCmd m eng 3 r s1
          | none => startColl2 m eng d list s1

/-- Ranks whose contributions are here. -/
def Cmd.covered (c : Cmd) : List Nat := c.parts.flatMap fun e => e.2.1

/-- REDUCE_CONTRIBUTION (R356, R358): a contribution of some ranks arrives; one of another length shows a disagreement. A disagreement that the
length does not show, and another member's stop, come as `Input.member`. Only a reduction merges ranks. -/
def execReduceContribution (cmd : Nat) (ranks : List Nat) (data : List Byte) (s : State) : Out :=
  match s.eng.cmds.find? fun c => decide (c.id = cmd) && decide (c.msg.op = 0x73) && c.stop.isNone with
  | none => .next s
  | some c =>
    let fn := c.msg.fn
    let low := ranks.foldl Nat.min (ranks.headD 0)
    let bcastOk := decide (fn ≠ 4) || ranks.all fun r => decide (c.list.getD r 65536 = c.msg.op_ 5)
    if ranks = [] ∨ ranks.any (fun r => decide (c.members ≤ r) || decide (r ∈ c.covered)) = true ∨ (2 ≤ fn ∧ ranks.length ≠ 1) ∨
        bcastOk = false then .next s
    else if data.length ≠ partBytes fn c.members c.elems c.unit then
      .next (onCmd cmd (fun c => { c with stop := some (3, 5) }) s)
    else .next (onCmd cmd (fun c => { c with parts := Tab.put c.parts low (ranks, data) }) s)

/-- One element of a reduction, and the flags: sum, min, max in ascending order of the smallest rank (R356). -/
def reduceElem (cls : Nat) (bf : Bool) : List Nat → Nat × Nat
  | [] => (0, 0)
  | x :: xs =>
    let wide := fun (v : Nat) => if bf then v * 65536 else v
    let r := xs.foldl (fun (a : Nat × Nat) v =>
      let p := dec fF32 a.1
      let q := dec fF32 (wide v)
      if cls = 0 then
        let y := xadd 0 p q
        let z := round fF32 0 y.1
        (z.code, a.2 ||| y.2 ||| z.flags ||| sigFlag [p, q])
      else
        let y := fltMinMax (decide (cls = 2)) 8 0 (w64 a.1) (w64 (wide v)) 0
        (y.1.toNat % 2 ^ 32, a.2 ||| y.2)) (wide x, 0)
    if bf then
      let z := round fBF16 0 (dec fF32 r.1).exact
      (z.code, r.2 ||| z.flags)
    else r

/-- The element of each contribution at an index. -/
def elemsAt (c : Cmd) (i : Nat) : List Nat := c.parts.map fun e => leAt e.2.2 (i * c.unit) c.unit

/-- The first element that this member keeps of a reduction. -/
def sliceBase (c : Cmd) (s : State) : Nat := if c.msg.fn = 1 then rankOf s c.list * (c.elems / c.members) else 0

/-- An element of a reduction at this member. -/
def redAt (c : Cmd) (s : State) (i : Nat) : Nat × Nat :=
  reduceElem c.msg.cls (match c.desc with | some d => decide (d.fmt = 9) | none => false) (elemsAt c (sliceBase c s + i))

/-- Elements received. -/
def Cmd.got (c : Cmd) : Nat := gotElems c.msg.fn c.members c.elems

/-- Elements of one part of an allgather or an alltoall. -/
def Cmd.partElems (c : Cmd) : Nat := match c.msg.fn with | 2 => c.elems | 3 => c.elems / c.members | _ => c.got

/-- The rank whose part a received element belongs to. -/
def fromRank (c : Cmd) (i : Nat) : Nat :=
  match c.msg.fn with
  | 4 => c.list.findIdx fun x => decide (x = c.msg.op_ 5)
  | _ => i / c.partElems

/-- One received element as bytes; none while what it needs is not here. -/
def elemBytes (c : Cmd) (s : State) (i : Nat) : Option (List Byte) :=
  if c.msg.fn < 2 then
    if c.covered.length = c.members then some (toBytes c.unit (redAt c s i).1) else none
  else match Tab.look c.parts (fromRank c i) with
    | some e => some ((e.2.drop ((if c.msg.fn = 4 then i else i % c.partElems) * c.unit)).take c.unit)
    | none => none

/-- The flags of a whole reduction (R119). -/
def collFlags (c : Cmd) (s : State) : Nat := if c.msg.fn < 2 then orAll ((upto 0 c.got).map fun i => (redAt c s i).2) else 0

/-- Elements that lie whole in the chunks of a mask: a chunk holds whole elements. -/
def landed (c : Cmd) (mask lo n : Nat) : Bool := (upto lo n).all fun i => bit mask (i * c.unit / 512)

/-- The parts whose last chunk is one that lands now: one arrival for each (R357); with REL every part's once the last write is performed
(R197). -/
def arrivalsDue (c : Cmd) (k : Nat) : Nat :=
  let n := c.partElems
  if c.msg.rel then (if popc c.total (c.chunks ||| 2 ^ k) = c.total then c.got / n else 0) else
  ((upto 0 (c.got / n)).filter fun p =>
    landed c (c.chunks ||| 2 ^ k) (p * n) n && !landed c c.chunks (p * n) n).length

/-- Arrivals at the barrier object, or the failure to write it. An arrival counts only after its data are visible (R357): what is still under way
is performed first. -/
def collArrive (c : Cmd) (k : Nat) (s : State) : State :=
  let n := if c.msg.op_ 3 = 0 then 0 else arrivalsDue c k
  if n = 0 then s else
  match translates s c.msg.who .write (c.msg.op_ 3) 32 with
  | .error (x, va) => failCmd c cPAGE (pageValue x .write va) s
  | .ok (s1, pas) =>
    let s2 := flushLate (fun e => decide (e.1 = c.id)) s1
    { s2 with eng := { s2.eng with arrivals := s2.eng.arrivals ++ List.replicate n (pas.headD 0, none) } }

/-- A chunk of a collective lands (R357): in the tile, or over the send buffer. -/
def collChunk (c : Cmd) (k : Nat) (s : State) : State :=
  let per := 512 / c.unit
  let n := min per (c.got - k * per)
  match ((upto (k * per) n).map (elemBytes c s)).foldr (fun (x : Option (List Byte)) a => match x, a with
      | some b, some r => some (b ++ r)
      | _, _ => none) (some []) with
  | none => s
  | some bs =>
    let put : Except (XKind × Nat) State := match c.dst with
      | some t => .ok (dataWrite c k ((tileSpots s t (512 * k) bs.length).filterMap id) bs s)
      | none => match c.desc with
        | some d => match translatesX s c.msg.who .write ((d.base.toNat + 512 * k) % 2 ^ 64) bs.length with
          | .ok (s1, xs) => .ok (dataWrite c k xs bs s1)
          | .error e => .error e
        | none => .ok s
    match put with
    | .error (x, va) => failCmd c cPAGE (pageValue x .write va) s
    | .ok s1 =>
      let done := { c with chunks := c.chunks ||| 2 ^ k }
      let s2 := match c.dst with
        | some t => if done.full then s1.onTile t fun e => { e with flags := e.flags ||| collFlags c s % 32 } else s1
        | none => s1
      collArrive c k (markChunk c k s2)

/-! ### XCKPT (R360) -/

/-- XCKPT starts: the barrier timestamp is set; one at a time runs. -/
def startCkpt (m : Msg) (eng : Nat) (s : State) : State :=
  if ckptRuns s then stopCmd m eng 3 4 s
  else if 2 ^ 48 ≤ m.op_ 0 ∨ m.zeroFrom 3 = false then stopCmd m eng 3 5 s
  else addCmd { Cmd.start 0 eng m with keep := true, saved := s.bts } { s with bts := m.opnd.getD 1 0 }

/-- An engine command issued before a number, and not yet replied. -/
def earlier (no : Nat) (m : Msg) : Bool := decide (0x70 ≤ m.op) && decide (m.op ≤ 0x76) && decide (m.no < no)

/-- What an XCKPT waits for is over: tasks below S, and engine commands issued before it. -/
def ckptReady (c : Cmd) (s : State) : Bool :=
  let e := earlier c.msg.no
  s.tasks.all (fun t => decide (c.msg.op_ 1 ≤ t.ts)) && !(s.eng.inbox.any fun x => x.2.any e) &&
  !(s.eng.cmds.any fun d => decide (d.id ≠ c.id) && e d.msg) && !(s.eng.dots.any fun d => decide (d.2.node = none) && e d.2.msg) &&
  !(s.eng.rings.any fun r => r.2.slots.any (fun x => !x.left && e x.msg) || r.2.next.any e)

/-- Read an extent list up to its end, at most `fuel` entries: PA, length, LBA of each; none where an entry breaks the layout. -/
def extentsOf (who : Who) : Nat → Nat → State → Except ReadErr (Option (State × List Nat))
  | 0, _, _ => .ok none
  | fuel + 1, va, s =>
    match readVa s who va 32 with
    | .error e => .error e
    | .ok (s1, bs) =>
      let pa := leAt bs 0 8
      let len := leAt bs 8 8
      if len = 0 then .ok (some (s1, []))
      else if len % 4096 ≠ 0 ∨ leAt bs 24 8 ≠ 0 then .ok none
      else match extentsOf who fuel ((va + 32) % 2 ^ 64) s1 with
        | .ok (some (s2, r)) => .ok (some (s2, pa :: len :: leAt bs 16 8 :: r))
        | r => r

/-- Bytes of extents. -/
def extentBytes : List Nat → Nat
  | _ :: len :: _ :: r => len + extentBytes r
  | _ => 0

/-- The PA of a byte offset in extents. -/
def extentPa : List Nat → Nat → Nat
  | pa :: len :: _ :: r, o => if o < len then pa + o else extentPa r (o - len)
  | _, _ => 0

/-- The starting LBA of the extent that a byte offset in extents lies in, and the offset in that extent. -/
def extentLba : List Nat → Nat → Nat × Nat
  | _ :: len :: lba :: r, o => if o < len then (lba, o) else extentLba r (o - len)
  | _, o => (0, o)

/-- A chunk goes to the bridge (R360): LP6 lines are read through their home slices, pools at their M-cells. DESIGN CHOICE (log 92): the bytes of
a poisoned line go as they stand. -/
def streamChunk (c : Cmd) (k : Nat) (s : State) : State :=
  let pas := upto (extentPa c.list (512 * k)) 512
  let s1 := (s.bring pas).refresh pas
  let e := extentLba c.list (512 * k)
  { s1 with out := { s1.out with stream :=
    ⟨bits (c.msg.op_ 0) 15 0, bits (c.msg.op_ 0) 47 16, e.1, e.2, pas.map s1.mem.rd⟩ :: s1.out.stream } }

/-- A stream's chunk reads LP6 or pool memory; any other PA is an operand it cannot use. -/
def streams (s : State) (c : Cmd) (k : Nat) : Bool :=
  let p := s.mem.kind (extentPa c.list (512 * k))
  decide (p = .lp6) || decide (p = .pool)

/-- The extent list is read, once; or a chunk goes to the bridge. -/
def ckptChunk (c : Cmd) (k : Nat) (s : State) : State :=
  if !ckptReady c s then s
  else if c.list = [] then
    match extentsOf c.msg.who (2 ^ 59) (c.msg.op_ 2) s with
    | .error e => failCmd c e.report.1 e.report.2 s
    | .ok none => onCmd c.id (fun c => { c with stop := some (3, 5) }) s
    | .ok (some (s1, [])) => onCmd c.id (fun c => { c with list := [0] }) s1
    | .ok (some (s1, l)) => onCmd c.id (fun c => { c with list := l, total := extentBytes l / 512 }) s1
  else if c.total ≤ k then s
  else if streams s c k then onCmd c.id (fun c => { c with chunks := c.chunks ||| 2 ^ k }) (streamChunk c k s)
  else onCmd c.id (fun c => { c with stop := some (3, 5) }) s

/-! ### Transfers that go on (R344) -/

/-- A transfer that yields a resume record. -/
def isTransfer (m : Msg) : Bool := decide (0x70 ≤ m.op) && decide (m.op ≤ 0x72)

/-- What a transfer had completed when its resume record was written, for a message that a CTXREST re-issues: its FN is 1 (R344). -/
def Msg.resumed (m : Msg) : Nat := if m.fn = 1 then m.a.toNat else 0

/-- The chunks that a record's second word says are complete. -/
def resumeMask (m : Msg) (v total : Nat) : Nat := if m.op = 0x70 ∧ m.cls % 2 = 1 ∨ m.op = 0x71 then v % 2 ^ total else 2 ^ (v / 512) - 1

/-- A resumed transfer takes its tiles: a destination that is FILLING, or EMPTY and so reinitialised (R247), a source that is READY. -/
def resumeTiles (c : Cmd) (s : State) : Option State :=
  let dstOk := match c.dst with
    | some k => decide ((s.tile k).st = .filling) || decide ((s.tile k).st = .empty)
    | none => true
  let srcOk := match c.src with
    | some k => (srcFault s k).isNone
    | none => true
  if !(dstOk && srcOk) then none else
  let s1 := match c.dst with
    | some k => s.onTile k fun e =>
      let e := if e.st = .empty then e.fresh .filling else e
      { e with bitmap := e.bitmap ||| w64 c.chunks }
    | none => s
  match c.src with
  | some k => some (s1.onTile k fun e => { e with st := .draining })
  | none => some s1

/-- The command of a resume record, as it stood; none where its operands are not good any more. -/
def resumeCmd (m : Msg) (s : State) (v : Nat) : Option Cmd :=
  let c0 := Cmd.start 0 (srcBte m.tid) m
  if m.op = 0x70 then
    let (a, b) := copyTiles m s
    let n := chunkCount (m.op_ 2)
    if copyOk m s then some { c0 with src := a, dst := b, keep := decide (m.op_ 3 = 1), total := n, chunks := resumeMask m v n } else none
  else match m.tensor s with
    | none => none
    | some d =>
      match readVa s m.who (m.op_ 0) (4 * m.op_ 1) with
      | .error _ => none
      | .ok (_, bs) =>
        let n := chunkCount (m.op_ 1 * rowLen d)
        let (a, b) := if m.op = 0x72 then (rowsTile m s, none) else (none, rowsTile m s)
        if rowsOk m s d then some { c0 with src := a, dst := b, list := indicesOf bs, desc := some d, total := n, chunks := resumeMask m v n } else none

/-- An engine starts a resumed transfer (R344). -/
def startResumed (m : Msg) (eng : Nat) (s : State) : State :=
  match resumeCmd m s m.resumed with
  | none => stopCmd m eng 3 5 s
  | some c =>
    match resumeTiles c s with
    | none => stopCmd m eng 3 1 s
    | some s1 => if c.full then addCmd c (endTiles c s1) else addCmd c s1

/-! ### Events -/

/-- A command of a block-transfer or the collective engine starts. -/
def startEngine (m : Msg) (eng : Nat) (s : State) : State :=
  if isTransfer m && decide (m.fn = 1) then startResumed m eng s else
  match m.op with
  | 0x70 => startCopy m eng s
  | 0x71 | 0x72 => startRows m eng s
  | 0x73 => startColl m eng s
  | _ => startCkpt m eng s

/-- Messages of this run of a thread. -/
def ofRun (s : State) (tid : Nat) (m : Msg) : Bool := decide (m.tid = tid) && decide ((s.th tid).born ≤ m.no)

/-- A transfer whose thread is being saved: it starts no more, and yields a resume record (R343). -/
def yields (s : State) (m : Msg) : Bool := isTransfer m && s.frozen m.tid && ofRun s m.tid m

/-- The head of an engine's inbox starts: with ACQ once the sender's earlier accesses are performed (R182, R197). -/
def engineTurn (src : Nat) (s : State) : State :=
  match s.inbox src with
  | [] => s
  | m :: rest => if acqHeld m s || yields s m then s else startEngine m src (s.putInbox src rest)

/-- The lanes of a BTE. -/
def bteLanes : Nat := 8

/-- A CTXSAVE stops the transfers of a thread: of their chunks only those in flight finish, at most one on each lane (R343). -/
def stopLanes (tid : Nat) (s : State) : State :=
  { s with eng := { s.eng with cmds := s.eng.cmds.map fun c => if isTransfer c.msg && ofRun s tid c.msg then { c with flight := bteLanes } else c } }

/-- A chunk in flight has finished: the thread's transfers share the lanes. -/
def landFlight (tid : Nat) (s : State) : State :=
  { s with eng := { s.eng with cmds := s.eng.cmds.map fun c => if yields s c.msg && decide (c.msg.tid = tid) then { c with flight := c.flight - 1 } else c } }

/-- The directory takes the head of its inbox; one with REL waits for the sender's earlier accesses (R253, R256). -/
def directoryTurn (s : State) : State :=
  match s.inbox srcDir with
  | [] => s
  | m :: rest => if relHeld m s then s else dirTurn m (s.putInbox srcDir rest)

/-- ACTIVE_MESSAGE (R214): an engine starts the oldest message of its inbox. What an XSEND's message asks of an engine the spec does
not say. -/
def execActiveMessage (src : Nat) (s : State) : Out :=
  if (s.inbox src).head?.any fun m => decide (m.op = 0x75) then .refused (.engineDefined src)
  else if src < 0x404 then .next (basinTurn src s)
  else if src < 0x420 then .next (hardTurn src s)
  else if src = srcDir then .next (directoryTurn s)
  else .next (engineTurn src s)

/-- DONE of a command: chunks, or the elements that have landed for XCOLL. -/
def Cmd.done (c : Cmd) : Nat :=
  let n := popc c.total c.chunks
  if c.msg.op = 0x73 then ((upto 0 c.total).filter fun k => bit c.chunks k).foldl (fun a k => a + min (512 / c.unit) (c.got - k * (512 / c.unit))) 0
  else n

/-- STATUS and CODE of a command that is over; none while it goes on. -/
def Cmd.over (c : Cmd) : Option (Nat × Nat) :=
  match c.stop with
  | some r => some r
  | none => if (decide (c.msg.op ≠ 0x76) || decide (c.list ≠ [])) && c.full then some (0, 0) else none

/-- One chunk of a command. -/
def cmdChunk (c : Cmd) (chunk : Nat) (s : State) : State :=
  if c.msg.op = 0x76 then ckptChunk c chunk s
  else if c.total ≤ chunk then s
  else if c.msg.op = 0x73 then collChunk c chunk s
  else if 0x70 ≤ c.msg.op ∧ c.msg.op ≤ 0x72 then moveChunk c chunk s
  else s

/-- A command whose last chunk completes in the cycle in which an XCANCEL reaches it is not cancelled (R186). -/
def unCancel (id : Nat) (s : State) : State :=
  onCmd id (fun c => if c.stop = some (1, 0) ∧ ({ c with stop := none } : Cmd).over.isSome then { c with stop := none } else c) s

/-- CHUNK_WRITTEN (R185): a chunk of a command, or of a dot engine's output, is complete; the data of a completed one that is still under way
is performed (R197). A transfer whose thread is being saved finishes only chunks in flight (R343). -/
def execChunkWritten (cmd chunk : Nat) (s : State) : Out :=
  let mine := fun (e : Nat × Nat × List Nat × List (Nat × Byte)) => decide (e.1 = cmd) && decide (e.2.1 = chunk)
  if s.eng.late.any mine then .next (flushLate mine s) else
  match s.eng.cmds.find? fun c => decide (c.id = cmd) with
  | some c =>
    if (c.stop.isSome && !(decide (c.stop = some (1, 0)) && decide (.cancelled c.id ∈ s.shot))) || bit c.chunks chunk then .next s
    else if yields s c.msg then .next (if c.flight = 0 then s else landFlight c.msg.tid (unCancel cmd (cmdChunk c chunk s)))
    else .next (unCancel cmd (cmdChunk c chunk s))
  | none =>
    match s.eng.dots.find? fun e => decide (e.2.id = cmd) with
    | some (eng, r) => .next (dotChunk eng r chunk s)
    | none => .next s

/-- The source tile of a command that stopped (R186, R248): READY again when it was cancelled, else as the command leaves it. -/
def releaseSrc (c : Cmd) (s : State) : State :=
  match c.src, c.stop with
  | some k, some (st, _) => s.onTile k fun e => { e with st := if st = 1 ∨ c.keep = true then .ready else .empty }
  | _, _ => s

/-- An engine command replies: BTS is restored, the reply word is written, C and the XCANCELs retire. A refused XCKPT has set no BTS. -/
def replyCmd (c : Cmd) (r : Nat × Nat) (s : State) : State :=
  let s1 := releaseSrc c (dropCmd c.id s)
  let s2 := if c.msg.op = 0x76 ∧ c.keep = true then { s1 with bts := c.saved } else s1
  retireCancels c.cancels (retireC c.msg (writeReply c.msg c.eng r.1 r.2 c.done s2))

/-! ### XCANCEL (R186) -/

/-- Where the command that an XCANCEL names is found. -/
inductive Found where
  | none
  | inbox (eng : Nat) (m : Msg)
  | cmd (c : Cmd)
  | slot (shard k : Nat) (m : Msg)
  | pending (shard : Nat) (m : Msg)
  | dot (eng : Nat) (r : DotRun)
  deriving DecidableEq, Repr

/-- A command of a thread with a reply address. -/
def named (tid : Nat) (reply : W) (m : Msg) : Bool := decide (m.tid = tid) && decide (m.reply = reply) && decide (0x70 ≤ m.op) && decide (m.op ≤ 0x76)

/-- Every command that an XCANCEL could name, with its place in the order of issue. -/
def candidates (s : State) (tid : Nat) (reply : W) : List (Nat × Found) :=
  let ok := named tid reply
  (s.eng.inbox.flatMap fun e => (e.2.filter ok).map fun m => (m.no, Found.inbox e.1 m)) ++
  ((s.eng.cmds.filter fun c => ok c.msg).map fun c => (c.msg.no, Found.cmd c)) ++
  (s.eng.rings.flatMap fun e =>
    (((upto 0 e.2.slots.length).zip e.2.slots).filter fun x => !x.2.left && ok x.2.msg).map fun x => (x.2.msg.no, Found.slot e.1 x.1 x.2.msg)) ++
  (s.eng.rings.flatMap fun e => (e.2.next.filter ok).map fun m => (m.no, Found.pending e.1 m)) ++
  ((s.eng.dots.filter fun e => decide (e.2.node = none) && ok e.2.msg).map fun e => (e.2.msg.no, Found.dot e.1 e.2))

/-- The oldest of them. -/
def oldestNamed (s : State) (tid : Nat) (reply : W) : Found :=
  match (candidates s tid reply).foldl (fun (b : Option (Nat × Found)) e => match b with
    | some x => if e.1 < x.1 then some e else b
    | none => some e) none with
  | some (_, f) => f
  | none => .none

/-- The XCANCEL counts on C until the command that it names has replied. -/
def cancelOf (me : Nat × Nat) (f : Found) (s : State) : State :=
  let wait := fun (st : State) => st.onTh me.1 fun t => { t with c := t.c + 1 }
  match f with
  | .none => s
  | .inbox eng m => retireC m (writeReply m eng 1 0 0 (s.putInbox eng ((s.inbox eng).erase m)))
  | .cmd c =>
    (wait (onCmd c.id (fun c => { c with
      stop := if c.stop.isSome ∨ c.over.isSome then c.stop else some (1, 0), cancels := c.cancels ++ [me] }) s)).mark (.cancelled c.id)
  | .slot shard k m => retireSlot shard k m 1 0 0 s
  | .pending shard m =>
    replyTask m 1 0 0 (s.putRing shard { s.ring shard with next := (s.ring shard).next.erase m })
  | .dot eng r =>
    (wait (s.putDot eng { r with
      stop := if r.stop.isSome ∨ (dotReply r).isSome then r.stop else some (1, 0, 0), cancels := r.cancels ++ [me] })).mark (.cancelled r.id)

/-- XCANCEL (R186). -/
def execXcancel (x : TX) (s : State) : Out :=
  issue x.pg [x.a] [] (fun s => do
    needIrrev s
    needRoom 2 s
    let me := (s.cur, s.nextId)
    .ok (cancelOf me (oldestNamed s s.cur (s.me.rg x.a.toNat)) { s with nextId := s.nextId + 1 })) s

end Sys2Proof.Machine
end

