-- ==== Sys2Proof/Machine/Context.lean ====
section
/-! DEFINITION. Saving and restoring a thread, opcodes 0xD4 and 0xD5, and the resumption of a stalled thread (spec 17_faults R338, R343,
R344, 02_machine R41). -/
namespace Sys2Proof.Machine

/-! ### CTXSAVE (R343) -/

/-- CTXSAVE: the target issues nothing more from now on; the command counts on C until the save ends. -/
def execCtxsave (x : TM) (s : State) : Out :=
  issue x.pg [x.a, x.d] [] (fun s => do
    needPrv s
    let t := (s.me.rg x.d.toNat).toNat % 65536
    if !isThreadNo t ∨ (s.th t).st = .halted then .error (.trapOpen cPRIV) else
    let va := addrTM x s
    needAlign va 64
    let (s1, _) ← xlates .write va 1024 s
    needRoom 2 s
    .ok (startOwn { msgOfTM 0xd4 x s with opnd := [w64 va, w64 t] } (stopLanes t s1))) s

/-- Its transfers: those started, those still in an inbox. -/
def startedOf (s : State) (tid : Nat) : List Cmd := s.eng.cmds.filter fun c => isTransfer c.msg && ofRun s tid c.msg
def queuedOf (s : State) (tid : Nat) : List Msg := s.eng.inbox.flatMap fun e => e.2.filter fun m => isTransfer m && ofRun s tid m

/-- Opens that wait for a name. -/
def waitsOf (s : State) (tid : Nat) : List WaitOpen := s.tab.waits.filter fun w => ofRun s tid w.msg

/-- Commands that save the thread itself. -/
def savesOf (s : State) (tid : Nat) : List Cmd := s.eng.cmds.filter fun c => decide (c.msg.op = 0xd4) && ofRun s tid c.msg

/-- An instruction whose counter is raised, or whose effect is begun, completes before the save (R182, R180). -/
def halfDone : Why → Bool
  | .inbox _ _ => true
  | .ring _ => true
  | .barrierTs _ _ _ => true
  | _ => false

/-- Everything that R343 lets complete has completed: L and S, the commands but the transfers, issued records. -/
def saveReady (s : State) (tid : Nat) : Bool :=
  let t := s.th tid
  ((s.specul tid).isSome || decide (t.l = 0) && decide (t.s = 0)) && !halfDone t.why &&
  (startedOf s tid).all (fun c => c.over.isNone) &&
  decide (t.c = (startedOf s tid).length + (queuedOf s tid).length + (waitsOf s tid).length + (savesOf s tid).length) &&
  !s.eng.dots.any fun e => decide (e.2.node = none) && ofRun s tid e.2.msg

/-- Chunks of a mask that are complete from the first on. -/
def prefixOf (mask : Nat) : Nat → Nat → Nat
  | 0, k => k
  | n + 1, k => if bit mask k then prefixOf mask n (k + 1) else k

/-- A resume record (R338): HDR, the chunks or bytes completed, REPLY, OPND0 to OPND4. The h operand of XGATH and XSCAT stands in
HDR<15:0>, which those commands leave zero (log 46). -/
def resumeBytes (m : Msg) (done : Nat) : List Byte :=
  let h := if m.op = 0x70 then 0 else b2n m.hv * 32768 + m.hidx
  toBytes 8 (m.op * 2 ^ 56 + m.tid * 2 ^ 40 + m.owner * 2 ^ 24 + m.scope * 2 ^ 21 + b2n m.acq * 2 ^ 20 + b2n m.rel * 2 ^ 19 + m.cls * 2 ^ 16 + h) ++
  toBytes 8 done ++ toBytes 8 m.reply.toNat ++ ((upto 0 5).flatMap fun k => toBytes 8 (m.op_ k))

/-- What a started transfer has completed: the chunks of a tile, or the bytes of a memory destination. -/
def Cmd.progress (c : Cmd) : Nat := if c.dst.isSome then c.chunks else min c.bytes (512 * prefixOf c.chunks c.total 0)

/-- The resume records of a thread, in the order of issue. -/
def resumesOf (s : State) (tid : Nat) : List (List Byte) :=
  let xs := ((startedOf s tid).map fun c => (c.msg.no, resumeBytes c.msg c.progress)) ++
    (queuedOf s tid).map fun m => (m.no, resumeBytes m m.resumed)
  (sortBy (fun (a b : Nat × List Byte) => decide (a.1 < b.1)) xs).map Prod.snd

/-- Its transfers stop: a tile being read is READY again. -/
def stopTransfers (tid : Nat) (s : State) : State :=
  let s1 := (startedOf s tid).foldl (fun s c => match c.src with
    | some k => s.onTile k fun e => { e with st := .ready }
    | none => s) s
  { s1 with
    eng := { s1.eng with
      cmds := s1.eng.cmds.filter fun c => !(isTransfer c.msg && ofRun s tid c.msg),
      inbox := s1.eng.inbox.map fun e => (e.1, e.2.filter fun m => !(isTransfer m && ofRun s tid m)) },
    tab := { s1.tab with waits := s1.tab.waits.filter fun w => !ofRun s tid w.msg } }

/-- A thread at its task's spawn point (R343), or as it is, with an imprecise trap that is due taken. -/
def savedForm (tid : Nat) (s : State) : State :=
  match s.specul tid with
  | some k =>
    let s1 := (returnReservations s k.deltas).onTask k.id fun t => { t with reads := [], vlines := [], deltas := [] }
    s1.onTh tid fun t => { t with
      g := Tab.set (Tab.set [] 0 1 k.arg1) 0 2 k.arg2, p := [], pc := k.entry, pend := [], imp := [], stale := [], why := .none, st := .runnable,
      sys := { t.sys with fflags := 0 } }
  | none =>
    match (s.th tid).imp with
    | (c, v) :: _ => (takeTrap tid c (s.th tid).pc v s).onTh tid fun t => { t with imp := [] }
    | [] => s

/-- The state field of a context block. -/
def stCode : TState → Nat
  | .stalled => 1
  | .parked => 2
  | .trapped => 3
  | _ => 0

/-- The system values of a saved thread: one that is PARKED at a word which it executes again keeps xpc there (R100, R343). -/
def savedSys (t : Thread) : Sys :=
  match t.st, t.why with
  | .parked, .watch .. | .parked, .barrier .. | .parked, .name _ => { t.sys with xpc := t.pc }
  | _, _ => t.sys

/-- The twelve system values of R338, in order. -/
def Sys.list (y : Sys) : List W :=
  [y.ts, y.fflags, y.xpc, y.xcause, y.xval, y.pw, y.ctx, y.owner, y.prio, y.quant, y.intmask, y.intpend]

/-- The 1,024 bytes of a thread context block (R338). -/
def ctxBytes (s : State) (tid nres : Nat) : List Byte :=
  let t := s.th tid
  let k := s.taskOf tid
  ((upto 0 64).flatMap fun n => toBytes 8 (t.rg n).toNat) ++ toBytes 8 t.pc.toNat ++
  toBytes 1 ((upto 0 8).foldl (fun a n => a + b2n (t.rp n) * 2 ^ n) 0) ++ toBytes 1 (stCode t.st + 8 * b2n t.hnd) ++ toBytes 2 0 ++
  toBytes 1 t.l ++ toBytes 1 t.s ++ toBytes 1 nres ++ toBytes 1 t.k ++ ((upto 0 16).flatMap fun n => toBytes 2 (t.rh n).toNat) ++
  ((savedSys t).list.flatMap fun v => toBytes 8 v.toNat) ++
  ([k.map Task.entry, k.map Task.arg2, k.map fun x => w64 x.aborts, k.map Task.arg1].flatMap fun v => toBytes 8 (v.getD 0).toNat) ++
  ((upto 0 16).flatMap fun n => match Tab.look t.q n with
    | some b => toBytes 8 (2 ^ 63 + b2n b.out * 2 ^ 62 + b.node * 2 ^ 32 + b.iid)
    | none => toBytes 8 0) ++
  toBytes 1 nres ++ List.replicate 207 0

/-- What a block holds that ties it to the thread it was saved from (R344): its task's timestamp, its bindings. -/
def homeKeys (ts : Nat) (q : Tab QBind) : List Nat := (if ts = 0 then [] else [2 * ts]) ++ q.map fun b => 2 * b.2.iid + 1

/-- Unissued records of a thread stay in the rings, or may issue again (R343). DEDUCED (log 46): they stay until the thread is restored, since K is
restored as it was saved. -/
def holdRecords (tid : Nat) (held : Bool) (s : State) : State :=
  { s with eng := { s.eng with rings := s.eng.rings.map fun e =>
    (e.1, { e.2 with slots := e.2.slots.map fun x => if ofRun s tid x.msg then { x with held := held } else x }) } }

/-- The target becomes HALTED; its task goes on without a thread. -/
def haltSaved (tid : Nat) (s : State) : State :=
  let t := s.th tid
  let s0 := holdRecords tid true s
  let s1 := { s0 with
    tasks := s.tasks.map fun (k : Task) => if k.tid = some tid then { k with tid := none, home := tid } else k,
    tab := { s.tab with homes := (homeKeys t.sys.ts.toNat t.q).foldl (fun h k => Tab.put h k tid) s.tab.homes } }
  s1.onTh tid fun t => { t with st := .halted, why := .none, q := [], pend := [], imp := [], stale := [], hpend := [], c := 0, k := 0 }

/-- A CTXSAVE ends (R343): block and records are written, the target is HALTED, the command retires. -/
def endSave (c : Cmd) (s : State) : State :=
  let tid := (c.msg.opnd.getD 1 0).toNat
  let s0 := dropCmd c.id s
  if (s0.th tid).st = .halted then retireC c.msg s0 else
  let recs := resumesOf s0 tid
  let s1 := savedForm tid (stopTransfers tid s0)
  match writeVa s1 c.msg.who none (c.msg.opnd.headD 0).toNat (ctxBytes s1 tid recs.length ++ recs.flatten) with
  | .ok s2 => retireC c.msg (haltSaved tid s2)
  | .error (k, va) => dueTrap c.msg cPAGE (pageValue k .write va) (retireC c.msg s0)

/-- ENGINE_REPLY of a CTXSAVE: once what R343 lets complete has completed. -/
def saveTurn (c : Cmd) (s : State) : State :=
  let tid := (c.msg.opnd.getD 1 0).toNat
  if (s.th tid).st = .halted ∨ saveReady s tid = true then endSave c s else s

/-- ENGINE_REPLY (R183): a command that is over replies, and its counter retires. -/
def execEngineReply (cmd : Nat) (s : State) : Out :=
  match s.eng.cmds.find? fun c => decide (c.id = cmd) with
  | none => .next s
  | some c =>
    match c.msg.op with
    | 0xd6 => .next (retireC c.msg (tlbInvalidate c.msg (dropCmd c.id s)))
    | 0xd4 => .next (saveTurn c s)
    | 0xb9 | 0xbc => if ruleMayReply s c then .next (ruleEnd c s) else .next s
    | 0x70 | 0x71 | 0x72 | 0x73 | 0x76 =>
      match c.over with
      | some r => .next (replyCmd c r s)
      | none => .next s
    | _ => .next s

/-! ### CTXREST (R344) -/

/-- The system values of a block, reserved bits zero (R75, R76, R78). DESIGN CHOICE (log 84): a partition word that breaks R77 leaves the
thread's own. -/
def sysOf (bs : List Byte) (own : W) : Sys :=
  let v := fun (k : Nat) => w64 (leAt bs (560 + 8 * k) 8)
  Sys.masked ⟨v 0, v 1, v 2, v 3, v 4, if pwOk (v 5) then v 5 else own, v 6, v 7, v 8, v 9, v 10, v 11⟩

/-- The q bindings of a block. -/
def bindsOf (bs : List Byte) : Tab QBind :=
  (upto 0 16).foldl (fun t n =>
    let v := leAt bs (688 + 8 * n) 8
    if bit v 63 then Tab.put t n ⟨bit v 62, bits v 17 0, bits v 45 32, 0⟩ else t) []

/-- The task of a block: saved out, with its timestamp and its entry. -/
def taskOfBlock (s : State) (bs : List Byte) : Option Task :=
  s.tasks.find? fun k => decide (k.tid = none) && decide (k.ts = leAt bs 560 8) && decide (k.entry = w64 (leAt bs 656 8)) &&
    decide (k.arg2 = w64 (leAt bs 664 8)) && decide (k.arg1 = w64 (leAt bs 680 8))

/-- The block holds a q binding, or ts ≠ 0, and was not saved out of a thread (R344). DESIGN CHOICE (log 46): one that no save has written counts
as another thread's. -/
def wrongThread (s : State) (bs : List Byte) (tid : Nat) : Bool :=
  (homeKeys (leAt bs 560 8) (bindsOf bs)).any fun k => decide (Tab.look s.tab.homes k ≠ some tid)

/-- The module whose thread code a pc lies in: the one with the greatest base at or below it (log 47). -/
def modulAt (s : State) (pc : W) (old : Nat) : Nat :=
  (s.fab.modules.foldl (fun (b : Option (Nat × Nat)) e =>
    if e.2.code.toNat ≤ pc.toNat ∧ (match b with | some x => decide (x.2 ≤ e.2.code.toNat) | none => true) = true then some (e.1, e.2.code.toNat) else b)
    none).map Prod.fst |>.getD old

/-- The first order number among the records of a thread in the tile-task rings: replies to them count for the restored thread. -/
def ringBorn (s : State) (tid : Nat) : Nat :=
  s.eng.rings.foldl (fun b e =>
    (e.2.slots.filter fun x => !x.left && decide (x.msg.tid = tid)).foldl (fun b x => min b x.msg.no) b) s.nextId

/-- The thread of a block (R338, R344): a STALLED or PARKED thread issues its word again. A binding whose invocation has ended meanwhile has ended
with it (R31). -/
def blockThread (s : State) (bs : List Byte) (tid : Nat) : Thread :=
  let pc := alignPc (w64 (leAt bs 512 8))
  let y := sysOf bs (s.th tid).sys.pw
  { g := (upto 1 63).foldl (fun t n => Tab.set t 0 n (w64 (leAt bs (8 * n) 8))) [],
    p := (upto 1 7).foldl (fun t n => Tab.set t false n (bit (leAt bs 520 1) n)) [],
    q := (bindsOf bs).filter fun b => (s.inv b.2.iid).isSome,
    h := (upto 0 16).foldl (fun t n => Tab.set t 0 n (BitVec.ofNat 16 (leAt bs (528 + 2 * n) 2 &&& 0x8fff))) [],
    hpend := [], pc := pc, sys := y, hnd := bit (leAt bs 521 1) 3,
    st := if leAt bs 521 1 % 8 = 3 then .trapped else .runnable,
    why := .none, pend := [], c := leAt bs 816 1 % 64, k := leAt bs 527 1, imp := [], stale := [], modul := modulAt s pc (s.th tid).modul,
    born := ringBorn s tid }

/-- The message of a resume record, re-issued by the restored thread with what the record says is complete. -/
def resumeMsg (s : State) (tid : Nat) (bs : List Byte) : Msg :=
  let h := leAt bs 0 8
  let t := s.th tid
  { op := bits h 63 56, fn := 1, cls := bits h 18 16, imm := 0, scope := bits h 23 21, acq := bit h 20, rel := bit h 19, tid := tid,
    owner := t.own, ctxid := t.ctxid, prv := t.prv, modul := t.modul, pc := t.pc, no := s.nextId,
    opnd := ((upto 0 5).map fun k => w64 (leAt bs (24 + 8 * k) 8)) ++ [0], reply := w64 (leAt bs 16 8),
    hv := bit h 15, hidx := bits h 11 0, hreg := 0, a := w64 (leAt bs 8 8), b := 0, d := 0 }

/-- Re-issue one resume record (R344): its message enters the engine's inbox. -/
def resumeOne (tid : Nat) (s : State) (bs : List Byte) : State := deliver (srcBte tid) (resumeMsg s tid bs) { s with nextId := s.nextId + 1 }

/-- Is there room in an inbox for some messages? -/
def inboxFits (s : State) (eng n : Nat) : Bool := match inboxDepth eng with
  | some d => decide ((s.inbox eng).length + n ≤ d)
  | none => true

/-- The 64-byte records after a block. -/
def recordsOf (bs : List Byte) : List (List Byte) := (upto 0 (bs.length / 64)).map fun k => (bs.drop (64 * k)).take 64

/-- CTXREST (R344). -/
def execCtxrest (x : TM) (s : State) : Out :=
  issue x.pg [x.a, x.d] [] (fun s => do
    needPrv s
    let tid := shardOf s.cur * 8 + (s.me.rg x.d.toNat).toNat % 8
    if (s.th tid).st ≠ .halted then .error (.trapOpen cPRIV) else
    let va := addrTM x s
    needAlign va 64
    let (s1, bs) ← readAtIssue va 1024 s
    if wrongThread s bs tid then .error (.trapOpen cPRIV) else
    if !inboxFits s (srcBte tid) (leAt bs 816 1 % 64) then .error (.stall (.room (srcBte tid) (leAt bs 816 1 % 64))) else
    let (s2, recs) ← readAtIssue (va + 1024) (64 * (leAt bs 816 1 % 64)) s1
    let k := taskOfBlock s bs
    let s3 := holdRecords tid false (s2.putTh tid (blockThread s bs tid))
    let s4 := match k with
      | some k => s3.onTask k.id fun t => { t with tid := some tid, aborts := leAt bs 672 8, shard := shardOf tid }
      | none => s3
    .ok ((recordsOf recs).foldl (resumeOne tid) s4)) s

/-! ### STALL_RESUME (R41) -/

/-- The thread's word issues again. -/
def reissue (tid : Nat) (s : State) : State := s.onTh tid fun t => { t with st := .runnable, why := .none }

/-- The instruction of a stalled thread completes: the pc moves past it. -/
def completes (tid : Nat) (s : State) : State := s.onTh tid fun t => { t with st := .runnable, why := .none, pc := t.pc + 8 }

/-- A q register's wait is over: a head token or a slot, or a binding that is wrong. -/
def qReady {α : Type} (r : Except Stop α) : Bool := match r with
  | .error (.stall _) => false
  | _ => true

/-- Does the condition hold that a stalled thread waits for? -/
def stallOver (s : State) (tid : Nat) : Why → Bool
  | .none => true
  | .head q => qReady (qHead { s with cur := tid } (BitVec.ofNat 7 (72 + q)))
  | .space q => qReady (qSpace { s with cur := tid } (BitVec.ofNat 7 (72 + q)))
  | .counter w => qReady (needRoom w { s with cur := tid })
  | .limits l st c k => limitsMet (s.th tid) l st c k
  | .loaded sp => !(s.th tid).awaits sp
  | .irrevocable => (s.specul tid).isNone
  | .gvt a => gvtMet s tid a
  | .taskRoom => decide (tasksOfDie s (dieOf tid) < 4096)
  | .ckpt => !ckptRuns s
  | .way line => s.oldest tid || decide (waysTaken s (shardOf tid) line < 8)
  | .chunks k cls mask => chunksMet (s.tile k) cls mask || (s.tile k).poison
  | .tileState k st => decide ((s.tile k).st.code = st) || (s.tile k).poison
  | .fence l st => fenceMet (s.th tid) l st
  | .tlb slice => !missFull s slice
  | .room eng n => inboxFits s eng n
  | .flags => !(s.th tid).pend.any Pend.flagged
  | _ => false

/-- A message that found its inbox full goes in (R214); a DOPEN.wait then parks. -/
def deliverStalled (tid eng : Nat) (m : Msg) (s : State) : State :=
  let s1 := deliver eng m s
  if m.op = 0xc0 ∧ m.fn = 1 then s1.onTh tid fun t => parkOpen m.no t.pc t else completes tid s1

/-- STALL_RESUME (R41): a stalled thread goes on once its condition holds. While a CTXSAVE saves it, only an instruction that has begun
does (R343). -/
def execStallResume (tid : Nat) (s : State) : Out :=
  if (s.th tid).st ≠ .stalled then .next s else
  match (s.th tid).why with
  | .inbox eng m => if inboxRoom s eng then .next (deliverStalled tid eng m s) else .next s
  | .ring m =>
    match arriveTask (shardOf tid) m s with
    | some s1 => .next (completes tid s1)
    | none => .next s
  | .barrierTs d a old =>
    if s.tasks.any (fun t => decide (t.ts < a.toNat)) then .next s else .next (completes tid (s.onTh tid fun t => t.wg d old))
  | w => if stallOver s tid w && !s.frozen tid then .next (reissue tid s) else .next s

end Sys2Proof.Machine
end

