-- ==== Sys2Proof/Machine/Host.lean ====
section
/-! DEFINITION. The PCIe endpoint and the command queues: function and queue pages, the Bench strip, the aperture; host-window reads; accesses
of peer packages (spec 11_queues R216, R217, 18_outside R345 to R353). -/
namespace Sys2Proof.Machine

/-! ### Pages (R345 to R347) -/

/-- A command queue, a function page. -/
def State.queue (s : State) (q : Nat) : Queue := Tab.getD s.out.queues q .reset
def State.putQueue (s : State) (q : Nat) (x : Queue) : State := { s with out := { s.out with queues := Tab.put s.out.queues q x } }
def State.page (s : State) (f : Nat) : FnPage := Tab.getD s.out.pages f .reset
def State.putPage (s : State) (f : Nat) (x : FnPage) : State := { s with out := { s.out with pages := Tab.put s.out.pages f x } }

/-- A write of a queue's DOORBELL: bits 31:0 are the write index. -/
def putDoorbell (q wr : Nat) (s : State) : State := if q < 64 then s.putQueue q { s.queue q with wr := wr % 2 ^ 32 } else s

/-- A write of BASE, SIZE or RIDXA, which takes effect only while the queue is empty. -/
def putConfig (q reg v : Nat) (s : State) : State :=
  let x := s.queue q
  if q < 64 ∧ x.rd = x.wr then
    match reg with
    | 0x008 => s.putQueue q { x with base := w64 (bits v 63 6 * 64 + v % 2) }
    | 0x010 => s.putQueue q { x with size := v % 32 }
    | 0x018 => s.putQueue q { x with ridxa := w64 v }
    | _ => s
  else s

/-- DOORBELL (R216, R347), by its page: a thread writes any queue's, the host through a function's BAR0 (`barWrite`). -/
def execDoorbell (q wr : Nat) (s : State) : Out := .next (putDoorbell q wr s)

/-- QUEUE_CONFIG_WRITE (R347), by its page. -/
def execQueueConfigWrite (q reg v : Nat) (s : State) : Out := .next (putConfig q reg v s)

/-- The open INDIRECT commands of a queue go with its chain. -/
def dropChain (q : Nat) (s : State) : State :=
  let ids := (s.queue q).bufs.map IBuf.cmd
  { s with out := { s.out with cmds := s.out.cmds.filter fun c => !decide (c.id ∈ ids) } }

/-- QUEUE_STATUS_CLEAR (R217): the queue restarts at the top-level entry whose chain faulted. -/
def execQueueStatusClear (q : Nat) (s : State) : Out :=
  if q < 64 ∧ (s.queue q).status ≠ 0 then .next ((dropChain q s).putQueue q { s.queue q with status := 0, bufs := [] }) else .next s

/-- A host write of ERRCNT: of 0, it clears it. -/
def putErrcnt (fnc v : Nat) (s : State) : State := if v = 0 ∧ fnc < 17 then s.putPage fnc { s.page fnc with errcnt := 0 } else s

/-- ERRCNT_CLEAR (R346). -/
def execErrcntClear (fnc v : Nat) (s : State) : Out := .next (putErrcnt fnc v s)

/-- The queue whose page is the n-th of a function: the PF's pages hold every queue. -/
def queueOf (s : State) (fnc n : Nat) : Option Nat :=
  if fnc = 0 then (if n < 64 then some n else none) else ((upto 0 64).filter fun q => decide ((s.queue q).fnc = fnc))[n]?

/-- REGISTER_WRITE (R345 to R347): ACTX, ABASE and QCTX take a kernel write; every other write is dropped. Offset 2^20 + q stands for the
kernel's assignment of queue q to the function (log 50). -/
def execRegisterWrite (kernel : Bool) (fnc off v : Nat) (s : State) : Out :=
  if !kernel ∨ 17 ≤ fnc then .next s
  else if off = 0x000 then .next (s.putPage fnc { s.page fnc with actx := v % 65536 })
  else if off = 0x008 then .next (s.putPage fnc { s.page fnc with abase := w64 (v / 65536 * 65536) })
  else if off < 0x1000 then .next s
  else if off < 2 ^ 20 then
    match queueOf s fnc (off / 4096 - 1) with
    | some q => .next (if off % 4096 = 0x028 then s.putQueue q { s.queue q with qctx := v % 65536 } else s)
    | none => .next s
  else if off < 2 ^ 20 + 64 then .next (s.putQueue (off - 2 ^ 20) { s.queue (off - 2 ^ 20) with fnc := fnc })
  else .next s

/-- The register of a function page at an offset; a reserved one reads zero (R346). -/
def FnPage.reg (p : FnPage) (off : Nat) : Nat :=
  match off / 8 with
  | 0 => p.actx
  | 1 => p.abase.toNat
  | 2 => p.errcnt
  | _ => 0

/-- The register of a queue page at an offset; a reserved one reads zero (R347). -/
def Queue.reg (x : Queue) (off : Nat) : Nat :=
  match off / 8 with
  | 0 => x.wr
  | 1 => x.base.toNat
  | 2 => x.size
  | 3 => x.ridxa.toNat
  | 4 => x.status
  | 5 => x.qctx
  | _ => 0

/-- The host reads 8 bytes at a BAR0 offset of a function: where no page stands, the read completes with Unsupported Request (R345). -/
def barRead (fnc off : Nat) (s : State) : Reply :=
  if 17 ≤ fnc then .unsupported
  else if off < 0x1000 then .data (toBytes 8 ((s.page fnc).reg off)) false
  else match queueOf s fnc (off / 4096 - 1) with
    | some q => .data (toBytes 8 ((s.queue q).reg (off % 4096))) false
    | none => .unsupported

/-- The host writes a BAR0 offset of a function; where no page stands, and in a field that the host does not write, it is dropped. -/
def barWrite (fnc off v : Nat) (s : State) : State :=
  if 17 ≤ fnc then s
  else if off < 0x1000 then (if off = 0x010 then putErrcnt fnc v s else s)
  else match queueOf s fnc (off / 4096 - 1) with
    | some q => if off % 4096 = 0 then putDoorbell q v s else putConfig q (off % 4096) v s
    | none => s

/-! ### The Bench strip reads a queue (R216, R217, R347, R348) -/

/-- Who the commands of a queue act for: its context, at U level. -/
def Queue.who (x : Queue) (s : State) : Who := ⟨0, x.qctx, ((Tab.look s.mem.ctx x.qctx).map CtxDesc.owner).getD 0, false, none⟩

/-- Where a 64-bit bus address stands in the model's memory: those of 50 bits in the host window (R352), which a device access reaches; the
others, which only the Bench strip's own reads and writes reach (R347), beyond every PA. -/
def hostPa (a : Nat) : Nat := if a < 2 ^ 50 then 0x8000000000000 + a else 2 ^ 64 + a

/-- Read n bytes in the space of a queue's ring. -/
def benchRead (s : State) (x : Queue) (host : Bool) (va n : Nat) : Except ReadErr (State × List Byte) :=
  if host then
    if s.mem.bads (hostPa va) n then .error (.poison va) else .ok (s, s.mem.rds (hostPa va) n)
  else readVa s (x.who s) va n

/-- A record of the Bench strip (R326): KIND 2, to the hard core of die 0. -/
def recBench (code q : Nat) (v : W) (s : State) : State := s.recHard srcBench code 2 q v

/-- The read index moves past a top-level entry and is written where RIDXA says (R347). -/
def advanceRd (q : Nat) (s : State) : State :=
  let x := s.queue q
  let rd := (x.rd + 1) % 2 ^ 32
  let s1 := s.putQueue q { x with rd := rd }
  if bit x.base.toNat 0 then homeWrite s1 none (hostPa x.ridxa.toNat) (toBytes 8 rd)
  else match writeVa s1 (x.who s) none x.ridxa.toNat (toBytes 8 rd) with
    | .ok s2 => s2
    | .error (k, va) => recBench cPAGE q (pageValue k .write va) s1

/-- Is there an entry to take: the queue is on and not halted, and a buffer is open or the ring is not empty? -/
def queueOn (s : State) (q : Nat) : Bool :=
  let x := s.queue q
  s.powered && decide (q < 64) && decide (4 ≤ x.size) && decide (x.size ≤ 16) && decide (x.status = 0) &&
  (decide (x.bufs ≠ []) || decide (x.rd ≠ x.wr))

/-- The next entry of a queue: of the innermost open buffer, else of the ring. -/
def nextEntry (s : State) (q : Nat) : Except ReadErr (State × List Byte) :=
  let x := s.queue q
  match x.bufs with
  | b :: _ => readVa s (x.who s) ((b.va.toNat + 64 * b.next) % 2 ^ 64) 64
  | [] => benchRead s x (bit x.base.toNat 0) (x.base.toNat / 64 * 64 + x.rd % 2 ^ x.size * 64) 64

/-- The fields of an entry. -/
def cType (bs : List Byte) : Nat := leAt bs 0 1
def cIrq (bs : List Byte) : Bool := bit (leAt bs 1 1) 0
def cFence (bs : List Byte) : Bool := bit (leAt bs 1 1) 1
def cVec (bs : List Byte) : Nat := leAt bs 2 1 % 64

/-- Bytes from one position on are zero. -/
def zeroFrom (bs : List Byte) (n : Nat) : Bool := (bs.drop n).all fun b => decide (b = 0)

/-- Does an entry keep to R348 and R349? -/
def entryOk (bs : List Byte) : Bool :=
  decide (leAt bs 1 1 < 4) && decide (leAt bs 2 1 < 64) && decide (leAt bs 3 5 = 0) &&
  match cType bs with
  | 0 => zeroFrom bs 16
  | 1 => decide (leAt bs 40 1 < 128) && zeroFrom bs 41
  | 2 => decide (leAt bs 40 3 < 2 ^ 18) && decide (leAt bs 43 3 < 2 ^ 18) && decide (leAt bs 46 2 = 0) && zeroFrom bs 56
  | 3 => decide (leAt bs 16 8 % 64 = 0) && decide (1 ≤ leAt bs 24 3) && decide (leAt bs 24 3 ≤ 65536) && zeroFrom bs 27
  | 4 => zeroFrom bs 32
  | 5 => decide (leAt bs 16 8 % 8 = 0) && zeroFrom bs 32
  | _ => false

/-- FENCE holds an entry until every earlier command of its queue has completed; the chain that it stands in has not. -/
def fenceOk (s : State) (q : Nat) (bs : List Byte) : Bool :=
  let open_ := (s.queue q).bufs.map IBuf.cmd
  !cFence bs || s.out.cmds.all fun c => decide (c.q ≠ q) || decide (c.id ∈ open_)

/-- Buffers whose entries are all dispatched close, innermost first. -/
def closeBufs : List IBuf → List IBuf
  | [] => []
  | b :: r => if b.count ≤ b.next then closeBufs r else b :: r

/-- The innermost buffer moves past an entry: the buffers, and the INDIRECT whose last entry it was. -/
def passEntry : List IBuf → List IBuf × Option Nat
  | [] => ([], none)
  | b :: r => ({ b with next := b.next + 1 } :: r, if b.next + 1 = b.count then some b.cmd else none)

/-- The Bench strip has taken a command of a queue: the next in turn is another's (R216). -/
def State.served (s : State) (q : Nat) : State := { s with out := { s.out with last := q } }

/-- Dispatch an entry: its command is in progress, the queue moves past it. -/
def dispatchCmd (q : Nat) (bs : List Byte) (c : HCmd) (s : State) : State :=
  let x := s.queue q
  let (bufs, last) := passEntry x.bufs
  let b1 := closeBufs bufs
  let s1 := { s with out := { s.out with cmds := s.out.cmds ++ [{ c with q := q, bytes := bs, lastOf := last }] } }
  let s2 := s1.putQueue q { x with bufs := b1 }
  (if b1 = [] then advanceRd q s2 else s2).served q

/-- A fresh command. -/
def HCmd.start (id : Nat) : HCmd := ⟨id, 0, [], false, none, 0, none, 0⟩

/-- The Bench strip takes a queue's next entry when it is of a type and may be dispatched. -/
def takeEntry (q ty : Nat) (s : State) (f : List Byte → State → Option State) : Out :=
  if !queueOn s q then .next s else
  match nextEntry s q with
  | .error _ => .next s
  | .ok (s1, bs) =>
    if decide (cType bs = ty) && entryOk bs && fenceOk s q bs then .next ((f bs s1).getD s) else .next s

/-- NOP (R349). -/
def execNop (q : Nat) (s : State) : Out :=
  takeEntry q 0 s fun bs s =>
    some (dispatchCmd q bs { HCmd.start s.nextId with finished := true } { s with nextId := s.nextId + 1 })

/-- The kernel's entry for a queue's context (R349). DESIGN CHOICE (log 51): where it has made none, the context with the terms of reset. -/
def queueTerms (s : State) (x : Queue) : CtxTerms :=
  (Tab.look s.out.terms x.qctx).getD ⟨w64 x.qctx, w64 (x.who s).owner, Sys.reset.prio, Sys.reset.quant, Sys.reset.pw⟩

/-- The thread that THREAD starts from: the terms of the kernel's entry for the queue's context (R349). A partition word that breaks R77 leaves
that of reset (log 84). -/
def queueThread (s : State) (x : Queue) (pc : W) : Thread :=
  let e := queueTerms s x
  { Thread.reset with
    modul := modulAt s pc 0,
    sys := Sys.masked { Sys.reset with
      ctx := e.ctx, owner := e.owner, prio := e.prio, quant := e.quant, pw := if pwOk e.pw then e.pw else Sys.reset.pw } }

/-- THREAD (R349), at the entry that bits 63:3 of its address name (log 75): the command waits while the control core has no HALTED thread. -/
def execThread (q : Nat) (s : State) : Out :=
  takeEntry q 1 s fun bs s =>
    let c := leAt bs 40 1
    match haltedThread s (c / 32 * 32 + c % 32) with
    | none => none
    | some tid =>
      let pc := alignPc (w64 (leAt bs 16 8))
      let run := s.nextId
      let s1 := startThread s tid (queueThread s (s.queue q) pc) pc (w64 (leAt bs 24 8)) (w64 (leAt bs 32 8)) 0
      some (dispatchCmd q bs { HCmd.start s1.nextId with tid := some tid, run := run } { s1 with nextId := s1.nextId + 1 })

/-- The message of a DELTA to a hard core. -/
def deltaMsg (s : State) (x : Queue) (id cls : Nat) (opnd : List W) (a : W) : Msg :=
  let w := x.who s
  { op := 0xc8, fn := 0, cls := cls, imm := 0, scope := 0, acq := false, rel := false, tid := hostTid, owner := w.owner, ctxid := x.qctx,
    prv := false, modul := 0, pc := 0, no := id, opnd := opnd, reply := 0, hv := false, hidx := 0, hreg := 0, a := a, b := 0, d := 0 }

/-- A launch by DELTA (R349): the image is in the placement cache, and no channel of it has QB set. -/
def deltaLaunch (bs : List Byte) (x : Queue) (id : Nat) (s : State) : State :=
  let refuse := finishHost id (w64 (5 * 2 ^ 56)) s
  let image := (bs.drop 16).take 16
  let o := leAt bs 43 3
  if !s.fab.placed.any (fun p => decide (p.image = image)) then refuse else
  match sectionById s image with
  | none => refuse
  | some (md, kind, sec) =>
    if boundIn (some sec) ≠ [] ∨ kind = 3 then refuse else
    let idx := ((Tab.look s.fab.modules md).map fun m => m.sections.findIdx fun e => decide (imageId e.2 = image)).getD 0
    let xy := if o % 65536 = 0xffff then 0xffff else o % 65536
    let y := queueTerms s x
    let m := { deltaMsg s x id 0 [w64 (o / 65536 + xy * 256), 0, 0, 0, y.prio, y.quant, y.pw] (w64 (leAt bs 32 8)) with modul := md, imm := idx }
    deliver (srcHard (o / 65536)) m s

/-- A delta of DELTA to a running invocation, which must run the base image (R243, R349). -/
def deltaApply (bs : List Byte) (x : Queue) (id iid : Nat) (s : State) : State :=
  let image := (bs.drop 16).take 16
  let va := leAt bs 32 8
  match s.inv iid with
  | none => finishHost id (w64 (6 * 2 ^ 56)) s
  | some i =>
    if i.owner ≠ (x.who s).owner then finishHost id (w64 (6 * 2 ^ 56)) s
    else if i.image ≠ image ∨ s.fab.placed.any (fun p => decide (p.image = image)) = false then finishHost id (w64 (5 * 2 ^ 56)) s
    else if va = 0 then finishHost id (w64 iid) s
    else deliver (srcHard (iid / 65536)) (deltaMsg s x id 1 [0, w64 iid, w64 va, 0] 0) s

/-- DELTA (R349). -/
def execDelta (q : Nat) (s : State) : Out :=
  takeEntry q 2 s fun bs s =>
    let id := s.nextId
    let iid := leAt bs 40 3
    let s1 := dispatchCmd q bs (HCmd.start id) { s with nextId := id + 1 }
    some (if iid = 0 then deltaLaunch bs (s.queue q) id s1 else deltaApply bs (s.queue q) id iid s1)

/-- A queue halts (R217, R348): its read index stays, its status holds the code and the nesting level. VALUE of the record is not
stated (log 2). -/
def haltQueue (code q : Nat) (s : State) : State :=
  let x := s.queue q
  recBench code q (Config.freeValue s.fresh) (({ s with fresh := s.fresh + 1 }.putQueue q { x with status := code + x.bufs.length * 256 }).served q)

/-- INDIRECT (R217, R349): a fifth level raises IB_DEPTH, an address that is open in the chain IB_LOOP. -/
def execIndirect (q : Nat) (s : State) : Out :=
  takeEntry q 3 s fun bs s =>
    let x := s.queue q
    let va := w64 (leAt bs 16 8)
    if 4 ≤ x.bufs.length then some (haltQueue cIBDEPTH q s)
    else if x.bufs.any (fun b => decide (b.va = va)) then some (haltQueue cIBLOOP q s)
    else
      let id := s.nextId
      let (bufs, last) := passEntry x.bufs
      let c := { HCmd.start id with q := q, bytes := bs, lastOf := last }
      let s1 := { s with nextId := id + 1, out := { s.out with cmds := s.out.cmds ++ [c] } }
      some ((s1.putQueue q { x with bufs := ⟨va, leAt bs 24 3, 0, id⟩ :: bufs }).served q)

/-- WAITSIG (R349): the queue is held until the signal is at least the value. -/
def execWaitsig (q : Nat) (s : State) : Out :=
  takeEntry q 4 s fun bs s =>
    match readVa s ((s.queue q).who s) (leAt bs 16 8) 8 with
    | .error _ => none
    | .ok (s1, v) =>
      if ofBytes v < leAt bs 24 8 then none
      else some (dispatchCmd q bs { HCmd.start s1.nextId with finished := true } { s1 with nextId := s1.nextId + 1 })

/-- WRITE (R349). -/
def execWrite (q : Nat) (s : State) : Out :=
  takeEntry q 5 s fun bs s =>
    let s1 := match writeVa s ((s.queue q).who s) none (leAt bs 16 8) ((bs.drop 24).take 8) with
      | .ok s1 => s1
      | .error (k, va) => recBench cPAGE q (pageValue k .write va) s
    some (dispatchCmd q bs { HCmd.start s1.nextId with finished := true } { s1 with nextId := s1.nextId + 1 })

/-- ILLEGAL_COMMAND_ENTRY (R348): an entry that breaks its layout halts the queue with ILLEGAL; one that cannot be read halts it with the
code of the failure. -/
def execIllegalCommandEntry (q : Nat) (s : State) : Out :=
  if !queueOn s q then .next s else
  match nextEntry s q with
  | .error e => .next (haltQueue e.report.1 q s)
  | .ok (s1, bs) => if entryOk bs then .next s else .next (haltQueue cILLEGAL q s1)

/-! ### Completion (R348) -/

/-- Has a command done what it completes on? THREAD completes when that run of its thread has halted. -/
def hostDone (s : State) (c : HCmd) : Bool :=
  match c.tid with
  | some tid => decide ((s.th tid).st = .halted) || decide ((s.th tid).born ≠ c.run)
  | none => c.finished

/-- Write for a command of a queue, or the record of the failure. -/
def benchWrite (q : Nat) (va : Nat) (f : State → Nat → Nat) (s : State) : State :=
  let who := (s.queue q).who s
  match translates s who .write va 8 with
  | .error (k, a) => recBench cPAGE q (pageValue k .write a) s
  | .ok (s1, pas) => writeRuns s1 none pas (toBytes 8 (f s1 (ofBytes (pas.map (s1.refresh pas).mem.rd))))

/-- COMMAND_COMPLETE (R348): the signal, the result word, the vector, in this order. -/
def execCommandComplete (id : Nat) (s : State) : Out :=
  match s.out.cmds.find? fun c => decide (c.id = id) with
  | none => .next s
  | some c =>
    if !hostDone s c then .next s else
    let sig := leAt c.bytes 8 8
    let s1 := if sig = 0 then s else benchWrite c.q sig (fun _ v => v + 1) s
    let res := if cType c.bytes = 2 then leAt c.bytes 48 8 else 0
    let s2 := if res = 0 then s1 else benchWrite c.q res (fun _ _ => c.result.toNat) s1
    let s3 := if cIrq c.bytes then
      { s2 with out := { s2.out with msix := ((s2.queue c.q).fnc * 64 + cVec c.bytes) :: s2.out.msix } } else s2
    .next { s3 with out := { s3.out with
      cmds := (s3.out.cmds.filter fun d => decide (d.id ≠ id)).map fun d => if c.lastOf = some d.id then { d with finished := true } else d } }

/-! ### The aperture (R351) -/

/-- The answer to a request from outside. -/
def State.answer (s : State) (r : Reply) : State := { s with out := { s.out with reply := r } }

/-- Who an aperture access acts for: ACTX, at U level. -/
def apertureWho (s : State) (fnc : Nat) : Who :=
  let x := (s.page fnc).actx
  ⟨0, x, ((Tab.look s.mem.ctx x).map CtxDesc.owner).getD 0, false, none⟩

/-- The VA of an offset. -/
def apertureVa (s : State) (fnc off : Nat) : Nat := ((s.page fnc).abase.toNat + off) % 2 ^ 64

/-- An access fails: ERRCNT, and the Wellhead event log. -/
def apertureFail (fnc : Nat) (v : W) (s : State) : State :=
  let p := s.page fnc
  (s.putPage fnc { p with errcnt := min (p.errcnt + 1) 0xffffffff }).logRec ⟨s.gtsc, 0x0482, cPAGE, 0, 0, 0, v.toNat⟩

/-- HOST_APERTURE_READ (R351): a poisoned line sets EP. -/
def execHostApertureRead (fnc off len : Nat) (s : State) : Out :=
  let va := apertureVa s fnc off
  if 17 ≤ fnc ∨ 64 * gib < off + len then .next (s.answer .unsupported) else
  match reachVa s (apertureWho s fnc) va len with
  | .error (k, a) => .next ((apertureFail fnc (pageValue k .read a) s).answer .unsupported)
  | .ok (s1, pas) => .next (s1.answer (.data (pas.map s1.mem.rd) (pas.any s1.mem.bad)))

/-- HOST_APERTURE_WRITE (R351): one that fails is dropped. -/
def execHostApertureWrite (fnc off : Nat) (data : List Byte) (s : State) : Out :=
  if 17 ≤ fnc ∨ 64 * gib < off + data.length then .next s else
  match writeVa s (apertureWho s fnc) none (apertureVa s fnc off) data with
  | .error (k, a) => .next (apertureFail fnc (pageValue k .write a) s)
  | .ok s1 => .next s1

/-- HOST_ATOMICOP (R351). -/
def execHostAtomicop (_fnc _off : Nat) (s : State) : Out := .next (s.answer .unsupported)

/-! ### Host-window reads, and peers (R352, R353) -/

/-- What the log keeps of a store that an unreachable peer drops: the spec states no field of the record but its thread (log 2). -/
def logDropped (tid : Nat) (s : State) : State :=
  let f := fun (i : Nat) => (Config.freeValue (s.fresh + i)).toNat
  ({ s with fresh := s.fresh + 3 }).logRec ⟨s.gtsc, tid, f 0 % 256, 0, 0, f 1, f 2⟩

/-- HOST_READ_TIMEOUT (R352): a read of the host window, or of a peer that is unreachable (R353), comes back poisoned; a store to such a
peer is dropped and logged. -/
def execHostReadTimeout (tid i : Nat) (s : State) : Out :=
  match (s.th tid).pend[i]? with
  | none => .next s
  | some e =>
    let peer := fun (p : Nat) => decide (s.mem.kind p = .peer)
    let away := fun (p : Nat) => decide (s.mem.kind p = .host) || peer p
    if e.kind.isL && !e.done && e.pas.any away then .next (retire tid (setPend s tid i { e with done := true, poison := true }))
    else if e.kind.isS && !e.done && e.pas.any peer then .next (retire tid (setPend (logDropped tid s) tid i { e with done := true }))
    else .next s

/-- A read-modify-write of a peer at one address: the old bytes, or EP for poison. -/
def peerRmw (s : State) (pa n : Nat) (f : Nat → State) : State :=
  let s := s.refresh (upto pa n)
  if s.mem.bad pa then s.answer (.data [] true) else (f (s.mem.word pa n)).answer (.data (s.mem.rds pa n) false)

/-- The address that a peer names. -/
def peerPa : PeerReq → Nat
  | .read pa _ => pa
  | .write pa _ => pa
  | .atom _ pa _ => pa
  | .cas pa _ _ _ => pa
  | .arrive pa => pa

/-- A peer's access is performed at its home (R353). -/
def peerAct (r : PeerReq) (s : State) : State :=
  match r with
  | .read pa n =>
    let s := s.refresh (upto pa n)
    s.answer (.data (s.mem.rds pa n) (s.mem.bads pa n))
  | .write pa bs => homeWrite s none pa bs
  | .atom fn pa x => peerRmw s pa (atomN fn) fun old => homeWrite s none pa (toBytes (atomN fn) (atomOp fn old x).1)
  | .cas pa n ex new => peerRmw s pa n fun old => if old = ex % 2 ^ (8 * n) then homeWrite s none pa (toBytes n new) else s
  | .arrive pa => peerRmw s (pa + 16) 4 fun _ => arrive s none pa

/-- PEER_REQUEST (R353): at LP6 or pool memory of this package. -/
def execPeerRequest (r : PeerReq) (s : State) : Out :=
  if s.mem.kind (peerPa r) = .lp6 ∨ s.mem.kind (peerPa r) = .pool then .next (peerAct r s) else .fault (.reservedAddress (peerPa r))

end Sys2Proof.Machine
end

