-- ==== Sys2Proof/Machine/Links.lean ====
section
/-! DEFINITION. The scale-up ports, the storage bridges and the patrol scrub (spec 18_outside R354, R355, R359, 08_memories R161, R162). -/
namespace Sys2Proof.Machine

/-! ### Flits (R354) -/

/-- One bit of CRC-64 under the ECMA-182 polynomial, most significant bit first. -/
def crc64Bit (c : BitVec 64) : BitVec 64 := if c.msb then (c <<< 1) ^^^ 0x42f0e1eba9ea3693#64 else c <<< 1

/-- n steps of a function. -/
def times {α : Type} (f : α → α) : Nat → α → α
  | 0, x => x
  | n + 1, x => times f n (f x)

/-- CRC-64 of bytes, from 0. -/
def crc64 (bs : List Byte) : BitVec 64 := bs.foldl (fun c b => times crc64Bit 8 (c ^^^ ((BitVec.setWidth 64 b) <<< (56 : Nat)))) 0

/-- A little-endian field of a flit. -/
def flitAt (f : List Byte) (i n : Nat) : Nat := ofBytes ((f.drop i).take n)

def flitDst (f : List Byte) : Nat := bits (flitAt f 0 8) 63 54
def flitSrc (f : List Byte) : Nat := bits (flitAt f 0 8) 53 44
def flitCls (f : List Byte) : Nat := bits (flitAt f 0 8) 43 42
def flitSeq (f : List Byte) : Nat := bits (flitAt f 0 8) 41 32
def flitKind (f : List Byte) : Nat := bits (flitAt f 0 8) 31 24

/-- The credits that a flit returns to a class. -/
def flitCrd (f : List Byte) (cls : Nat) : Nat := bits (flitAt f 0 8) (11 + 4 * cls) (8 + 4 * cls)

/-- Does a flit check? -/
def flitGood (f : List Byte) : Bool :=
  decide (f.length = 256) && decide (crc64 (f.take 248) = BitVec.ofNat 64 (flitAt f 248 8))

/-- A port; credits of a class, 15 where none are listed (log 3). -/
def State.port (s : State) (p : Nat) : Port := Tab.getD s.out.ports p .reset
def State.putPort (s : State) (p : Nat) (x : Port) : State := { s with out := { s.out with ports := Tab.put s.out.ports p x } }
def Port.crd (x : Port) (cls : Nat) : Nat := Tab.getD x.credit cls 15

/-- The bytes of a flit: its fields, its payload, its CHK. -/
def flitBytes (dst src cls seq kind crd : Nat) (payload : List Byte) : List Byte :=
  let body := toBytes 8 (dst % 1024 * 2 ^ 54 + src % 1024 * 2 ^ 44 + cls % 4 * 2 ^ 42 + seq % 1024 * 2 ^ 32 + kind % 256 * 2 ^ 24 + crd) ++
    (payload ++ List.replicate 240 0).take 240
  body ++ toBytes 8 (crc64 body).toNat

/-- A port takes the flit that it expects. -/
def Port.accept (x : Port) (f : List Byte) : Port :=
  let credit := (upto 0 4).foldl (fun c cls => Tab.set c 15 cls (Tab.getD c cls 15 + flitCrd f cls)) x.credit
  { x with
    expect := (x.expect + 1) % 1024, credit := credit,
    inq := if flitKind f = 0 ∨ flitKind f = 4 then x.inq else x.inq ++ [f] }

/-- A package has 12 ports (R5): a port beyond them is none, and never up. -/
def State.portUp (s : State) (p : Nat) : Bool := decide (p < 12) && (s.port p).up

/-- FLIT_RECEIVE (R354): a flit that does not check, or is not the one expected, is dropped. -/
def execFlitReceive (port : Nat) (flit : List Byte) (s : State) : Out :=
  let x := s.port port
  .next (if s.portUp port && flitGood flit && decide (flitSeq flit = x.expect) then s.putPort port (x.accept flit) else s)

/-- FLIT_REPLAY (R354): the oldest flit kept is resent and counted. -/
def execFlitReplay (port : Nat) (s : State) : Out :=
  let x := s.port port
  .next (match x.replay with
    | (f, n) :: rest => if s.portUp port then s.putPort port { x with replay := (f, n + 1) :: rest } else s
    | [] => s)

/-- The ports of a mask, in ascending order. -/
def portsOf (mask : Nat) : List Nat := (upto 0 12).filter fun p => bit mask p

/-- The port that a flow uses (R355) among the ports of its route that are up, but for one. -/
def flowOf (s : State) (src dst cls but : Nat) : Option Nat :=
  let ps := (portsOf (Tab.getD s.out.route dst 0)).filter fun p => s.portUp p && decide (p ≠ but)
  ps[(hash64 (w64 (src * 1024 + dst)) (w64 cls)).toNat % ps.length]?
def flowPort (s : State) (f : List Byte) (but : Nat) : Option Nat := flowOf s (flitSrc f) (flitDst f) (flitCls f) but

/-- Move one flit in front of the replay buffer of its flow's other port; one without another port stays. -/
def moveFlit (but : Nat) (s : State) (f : List Byte) : State :=
  match flowPort s f but with
  | none => s.putPort but { s.port but with replay := (f, 0) :: (s.port but).replay }
  | some p => s.putPort p { s.port p with replay := (f, 0) :: (s.port p).replay }

/-- A flit waits to leave by its flow's other port; one without another port stays. -/
def moveOffer (but : Nat) (s : State) (f : Flit) : State :=
  let p := (flowOf s s.cid f.dst f.cls but).getD but
  s.putPort p { s.port p with outq := (s.port p).outq ++ [f] }

/-- PORT_DOWN (R354): a flit replayed 8 times takes its port down; what it keeps for replay is sent again first by the other ports. -/
def execPortDown (port : Nat) (s : State) : Out :=
  let x := s.port port
  if s.portUp port && x.replay.any (fun e => decide (8 ≤ e.2)) then
    let s1 := s.putPort port { x with up := false, replay := [], outq := [] }
    let s2 := (x.replay.map Prod.fst).reverse.foldl (moveFlit port) s1
    .next ((x.outq.foldl (moveOffer port) s2).logEvent 0x05 port)
  else .next s

/-! ### Sending (R354, R355)

What a flit's payload asks for the spec does not lay out: what a received one does comes as an event of its own, PEER_REQUEST,
REDUCE_CONTRIBUTION, NVME_COMPLETION (log 93). -/

/-- An agent offers a flit: it waits at the port of its flow. KIND 0 and 4 are the port's own. -/
def offerFlit (f : Flit) (s : State) : State :=
  if f.cls < 4 ∧ f.dst < 1024 ∧ 1 ≤ f.kind ∧ f.kind ≤ 3 then
    match flowOf s s.cid f.dst f.cls 12 with
    | some p => s.putPort p { s.port p with outq := (s.port p).outq ++ [f] }
    | none => s
  else s

/-- The oldest received flit is taken: a credit of its class is due to the sender. -/
def takeFlit (p : Nat) (s : State) : State :=
  let x := s.port p
  match x.inq with
  | [] => s
  | f :: rest => s.putPort p { x with inq := rest, owed := Tab.set x.owed 0 (flitCls f) (Tab.getD x.owed (flitCls f) 0 + 1) }

/-- Flits that a sender keeps for replay. -/
def keptFlits : Nat := 128

/-- The credits that one flit returns to a class: a 4-bit count. -/
def Port.give (x : Port) (cls : Nat) : Nat := min 15 (Tab.getD x.owed cls 0)

/-- A port sends a flit: SEQ, the credits that are due, CHK; it keeps the newest 128. -/
def Port.emit (x : Port) (src : Nat) (f : Flit) : Port :=
  let crd := (upto 0 4).foldl (fun a c => a + x.give c * 2 ^ (8 + 4 * c)) 0
  let kept := x.replay ++ [(flitBytes f.dst src f.cls x.send f.kind crd f.payload, 0)]
  { x with
    send := (x.send + 1) % 1024, replay := kept.drop (kept.length - keptFlits),
    owed := (upto 0 4).foldl (fun o c => Tab.set o 0 c (Tab.getD o c 0 - x.give c)) x.owed }

/-- The weights of the deficit round-robin. -/
def weightOf (cls : Nat) : Nat := if cls = 2 then 1 else 4
def Port.shareOf (x : Port) (cls : Nat) : Nat := Tab.getD x.share cls (weightOf cls)

/-- Is the storage class granted 1 flit in 2 on a port: an XCKPT runs, and the port is of its bridge's route (R355)? -/
def storageRun (s : State) (p : Nat) : Bool :=
  s.eng.cmds.any fun c => decide (c.msg.op = 0x76) && c.keep && bit (Tab.getD s.out.route ((c.msg.opnd.getD 0 0).toNat % 65536) 0) p

/-- May a flit of a class leave: one waits, and the class has a credit (R354)? -/
def Port.canSend (x : Port) (cls : Nat) : Bool := (x.outq.any fun f => decide (f.cls = cls)) && decide (0 < x.crd cls)

/-- The class of a port's next flit (R355): management once in 64 before all, and where nothing else may leave; during an XCKPT storage at least
every other flit; else the classes with shares left in their round. -/
def nextClass (s : State) (p : Nat) : Option Nat :=
  let x := s.port p
  let others := [0, 1, 2].filter x.canSend
  if x.canSend 3 && (decide (63 ≤ x.since) || decide (others = [])) then some 3
  else if x.canSend 2 && storageRun s p && !x.stored then some 2
  else (others.find? fun c => decide (0 < x.shareOf c)).orElse fun _ => others.head?

/-- What a port counts of a flit of a class: its credit, its share, in a round that begins afresh when no share is left. -/
def Port.charge (x : Port) (cls : Nat) : Port :=
  let fresh := decide (x.shareOf cls = 0)
  let share := if cls = 3 then x.share else Tab.put (if fresh then [] else x.share) cls ((if fresh then weightOf cls else x.shareOf cls) - 1)
  { x with credit := Tab.set x.credit 15 cls (x.crd cls - 1), share := share, since := if cls = 3 then 0 else x.since + 1, stored := decide (cls = 2) }

/-- A port sends its next flit; with none to send and credits due, one that carries credits alone. -/
def sendFlit (p : Nat) (s : State) : State :=
  let x := s.port p
  if !s.portUp p then s else
  match nextClass s p with
  | some c =>
    match x.outq.find? fun f => decide (f.cls = c) with
    | some f => s.putPort p ({ x with outq := x.outq.erase f }.charge c |>.emit s.cid f)
    | none => s
  | none => if (upto 0 4).all fun c => decide (x.give c = 0) then s else s.putPort p (x.emit s.cid ⟨0, 0, 4, []⟩)

/-! ### Storage bridges (R359) -/

/-- A queue pair of a bridge. -/
def State.nvmeQ (s : State) (k : Nat) : NvmeQ := Tab.getD s.out.nvme k .reset
def State.putNvme (s : State) (k : Nat) (x : NvmeQ) : State := { s with out := { s.out with nvme := Tab.put s.out.nvme k x } }

/-- A queue pair is created: its queues lie in device memory, of at most 65,536 entries. -/
def createQueue (bridge qp : Nat) (x : NvmeQ) (s : State) : State :=
  let device := fun (pa : Nat) => decide (s.mem.kind pa = .lp6) || decide (s.mem.kind pa = .pool)
  if qp < 64 ∧ x.sqSize ≤ 65536 ∧ x.cqSize ≤ 65536 ∧ device x.sq = true ∧ device x.cq = true then s.putNvme (bridge * 64 + qp) x else s

/-- The doorbell register of a queue pair: a word of the bridge's peer window (R359). -/
def doorbellPa (bridge qp : Nat) : Nat := 0xc000000000000 + bridge * 2 ^ 40 + 0x1000 + 8 * qp

/-- NVME_DOORBELL (R359): a store like any other to the register's address. -/
def execNvmeDoorbell (bridge qp v : Nat) (s : State) : Out :=
  .next (if qp < 64 ∧ bridge < 1024 then homeWrite s none (doorbellPa bridge qp) (toBytes 8 v) else s)

/-- NVME_COMPLETION (R359): the bridge posts a 16-byte entry of NVMe 2.0 at the tail of the completion queue, in device memory; the posting sets
the intpend bit of the thread that the queue names. -/
def execNvmeCompletion (bridge qp : Nat) (data : List Byte) (s : State) : Out :=
  let x := s.nvmeQ (bridge * 64 + qp)
  if 64 ≤ qp ∨ x.cqSize = 0 then .next s else
  let s1 := homeWrite (s.putNvme (bridge * 64 + qp) { x with tail := x.tail + 1 }) none (x.cq + x.tail % x.cqSize * 16)
    ((data ++ List.replicate 16 0).take 16)
  .next (match x.tid with
    | some tid => s1.post tid (x.vec % 64)
    | none => s1)

/-! ### Errors of memory (R161, R162) -/

/-- The source number of a core's M-cell (R33). -/
def srcMCell (core : Nat) : Nat := 0x8000 + core / 384 * 4096 + core % 384 * 8 + 4

/-- Where a line of device memory stands: SRAM of an M-cell, of a cache slice that holds the line, or a channel; a line from 2^46 up stands for
the Wellhead's own SRAM (R161, R369; log 90). -/
inductive Corrector where
  | mcell (core : Nat)
  | slice (n : Nat)
  | channel (n : Nat)
  | wellhead
  deriving DecidableEq, Repr

/-- What corrects an error in a line at an address, if memory of this package stands there. -/
def correctorOf (m : Mem) (line : Nat) : Option Corrector :=
  if 2 ^ 46 ≤ line then some .wellhead else
  match m.kind (line * 64) with
  | .pool => some (.mcell (poolAt (line * 64)).1)
  | .lp6 =>
    let sl := homeSlice (line * 64)
    some (if line ∈ Tab.getD m.slices (sliceSet sl line) [] then .slice sl else .channel (lp6At m (line * 64)).1)
  | .host | .peer | .reserved => none

/-- The counter of a corrector: by its source number, or 65,536 + channel, 131,072 + slice. The Wellhead's SRAM has no counter. -/
def Corrector.counter : Corrector → Option Nat
  | .mcell core => some (srcMCell core)
  | .channel n => some (65536 + n)
  | .slice n => some (131072 + n)
  | .wellhead => none

/-- The source number that the event log names: a slice and a channel have none that the spec states (log 2). -/
def Corrector.source (c : Corrector) (s : State) : State × Nat := match c with
  | .mcell core => (s, srcMCell core)
  | .wellhead => (s, 0x0483)
  | .slice _ | .channel _ => ({ s with fresh := s.fresh + 1 }, (Config.freeValue s.fresh).toNat)

/-- A corrected error counts at its corrector and enters the event log (R161); performance counter 7 counts those of pools (R323). -/
def correct (c : Corrector) (s : State) : State :=
  let s1 := match c.counter with
    | some k => { s with mem := { s.mem with corrected := Tab.put s.mem.corrected k (Tab.getD s.mem.corrected k 0 + 1) } }
    | none => s
  let (s2, src) := c.source s1
  let s3 := s2.logEvent 0x03 src
  match c with
  | .mcell core => bump s3 core 7 1
  | _ => s3

/-- PATROL_SCRUB (R161, R162) of a line in which `errs` bits of one word are wrong: none, a correctable one, or more. Poison waits for an
issued atomic on the line (log 72); a poisoned line of the Wellhead's SRAM holds its poison like any other. -/
def execPatrolScrub (line errs : Nat) (s : State) : Out :=
  .next (match correctorOf s.mem line with
    | none => s
    | some c =>
      if errs = 0 then s
      else if errs = 1 then correct c s
      else if atomicOn s (line * 64) then s
      else { s with mem := s.mem.setBad (line * 64) true })

end Sys2Proof.Machine
end

