-- ==== Sys2Proof/Machine/Lms.lean ====
section
/-! DEFINITION. LMS and HSS signatures with SHA-256, as the firmware slots, the resident kernel and debug tokens carry them (R8, R361, R363,
R367, R370): RFC 8554 gives them (log 87). -/
namespace Sys2Proof.Machine

/-- The big-endian number of n bytes from an offset. -/
def beAt (bs : List Byte) (i n : Nat) : Nat := beNat ((bs.drop i).take n)

/-- n bytes from an offset. -/
def sub (bs : List Byte) (i n : Nat) : List Byte := (bs.drop i).take n

/-! ### One-time signatures -/

/-- A one-time parameter set: bits w of a digit, digits p, left shift of the checksum. -/
structure Ots where
  w : Nat
  p : Nat
  shift : Nat
  deriving DecidableEq, Repr

/-- The parameter set of a type code, LMOTS_SHA256_N32_W1 to W8. -/
def otsOf : Nat → Option Ots
  | 1 => some ⟨1, 265, 7⟩
  | 2 => some ⟨2, 133, 6⟩
  | 3 => some ⟨4, 67, 4⟩
  | 4 => some ⟨8, 34, 0⟩
  | _ => none

/-- The i-th digit of w bits of some bytes, from the most significant end. -/
def digit (bs : List Byte) (w i : Nat) : Nat :=
  let per := 8 / w
  (bs.getD (i / per) 0).toNat / 2 ^ (8 - w * (i % per + 1)) % 2 ^ w

/-- The digits of a digest and of its checksum: what each lacks to 2^w − 1, summed. -/
def digits (o : Ots) (q : List Byte) : List Nat :=
  let sum := (upto 0 (256 / o.w)).foldl (fun n i => n + (2 ^ o.w - 1 - digit q o.w i)) 0
  (upto 0 o.p).map fun i => digit (q ++ beBytes 2 (sum * 2 ^ o.shift % 65536)) o.w i

/-- Steps of a hash chain: the number of the step runs on from j. -/
def chain (pre : List Byte) : Nat → Nat → List Byte → List Byte
  | 0, _, x => x
  | n + 1, j, x => chain pre n (j + 1) (sha256 (pre ++ beBytes 1 j ++ x))

/-- The one-time public key to which a signature of a message leads: C, then p chain values, for leaf q of a key with identifier id. -/
def otsKey (o : Ots) (id : List Byte) (q : Nat) (c : List Byte) (y : List Byte) (msg : List Byte) : List Byte :=
  let pre := id ++ beBytes 4 q
  let ds := digits o (sha256 (pre ++ beBytes 2 0x8181 ++ c ++ msg))
  let ends := ((upto 0 o.p).zip ds).flatMap fun e =>
    chain (pre ++ beBytes 2 e.1) (2 ^ o.w - 1 - e.2) e.2 (sub y (32 * e.1) 32)
  sha256 (pre ++ beBytes 2 0x8080 ++ ends)

/-! ### Trees -/

/-- The height of a type code, LMS_SHA256_M32_H5 to H25. -/
def treeHeight (ty : Nat) : Option Nat := if 5 ≤ ty ∧ ty ≤ 9 then some (5 * (ty - 4)) else none

/-- From a node up a path of siblings to the root. -/
def climb (id : List Byte) : List (List Byte) → Nat → List Byte → List Byte
  | [], _, x => x
  | sib :: rest, node, x =>
    let pair := if node % 2 = 1 then sib ++ x else x ++ sib
    climb id rest (node / 2) (sha256 (id ++ beBytes 4 (node / 2) ++ beBytes 2 0x8383 ++ pair))

/-- The bytes of a public key. -/
def lmsKeySize : Nat := 56

/-- An LMS signature read off the front of some bytes: leaf, one-time set, C, chain values, tree type, path; and the bytes after it. -/
structure LmsSig where
  q : Nat
  otsTy : Nat
  ots : Ots
  c : List Byte
  y : List Byte
  ty : Nat
  height : Nat
  path : List (List Byte)
  size : Nat
  deriving DecidableEq, Repr

/-- Read it. -/
def lmsSig (bs : List Byte) : Option LmsSig :=
  match otsOf (beAt bs 4 4) with
  | none => none
  | some o =>
    let t := 40 + 32 * o.p
    match treeHeight (beAt bs t 4) with
    | none => none
    | some h =>
      let size := t + 4 + 32 * h
      if bs.length < size then none
      else some ⟨beAt bs 0 4, beAt bs 4 4, o, sub bs 8 32, sub bs 40 (32 * o.p), beAt bs t 4, h, (upto 0 h).map fun i => sub bs (t + 4 + 32 * i) 32, size⟩

/-- Does a signature of a message check under a public key: tree type, one-time type, identifier, root? -/
def lmsOk (key msg : List Byte) (x : LmsSig) : Bool :=
  let id := sub key 8 16
  let node := 2 ^ x.height + x.q
  decide (key.length = lmsKeySize) && decide (beAt key 0 4 = x.ty) && decide (beAt key 4 4 = x.otsTy) && decide (x.q < 2 ^ x.height) &&
  decide (climb id x.path node (sha256 (id ++ beBytes 4 node ++ beBytes 2 0x8282 ++ otsKey x.ots id x.q x.c x.y msg)) = sub key 24 32)

/-- LMS: the signature is all of the bytes. -/
def lmsVerify (key msg sig : List Byte) : Bool :=
  match lmsSig sig with
  | some x => decide (x.size = sig.length) && lmsOk key msg x
  | none => false

/-! ### Hierarchies -/

/-- Follow n signed public keys and then the signature of the message: the bytes left over, if all check. -/
def hssLevels (msg : List Byte) : Nat → List Byte → List Byte → Option (List Byte)
  | 0, key, bs =>
    match lmsSig bs with
    | some x => if lmsOk key msg x then some (bs.drop x.size) else none
    | none => none
  | n + 1, key, bs =>
    match lmsSig bs with
    | some x =>
      let next := sub bs x.size lmsKeySize
      if lmsOk key next x then hssLevels msg n next (bs.drop (x.size + lmsKeySize)) else none
    | none => none

/-- HSS: the key is the number of levels, 1 to 8, and the top tree's key; the signature begins with one less than the levels. What follows a
signature that checks. -/
def hssVerify (key msg sig : List Byte) : Option (List Byte) :=
  let levels := beAt key 0 4
  if key.length = 4 + lmsKeySize ∧ 1 ≤ levels ∧ levels ≤ 8 ∧ beAt sig 0 4 + 1 = levels ∧ 4 ≤ sig.length then
    hssLevels msg (levels - 1) (key.drop 4) (sig.drop 4)
  else none

end Sys2Proof.Machine
end

