-- ==== Sys2Proof/Machine/Wellhead.lean ====
section
/-! DEFINITION. The Wellhead: boot and firmware slots, sensors, event log, measurements and attestation, key slots, the debug port; reset
and power (spec 19_wellhead R361 to R370). -/
namespace Sys2Proof.Machine

/-- Update the Wellhead. -/
def State.onWell (s : State) (f : Wellhead → Wellhead) : State := { s with well := f s.well }

/-- A Wellhead event whose VALUE holds two figures (R366): the spec does not say how (log 44). -/
def logOpen (code a b : Nat) (s : State) : State := s.logEvent code (Config.pair a b).toNat

/-! ### Package flash (R361, R362) -/

/-- 64 MiB. -/
def slotSize : Nat := 0x4000000

/-- The reserved area, the event log's area, and the end of the flash (R361). -/
def flashReserved : Nat := 0x8004000
def flashLog : Nat := 0xc000000
def flashEnd : Nat := 0x10000000

/-- The 32 bytes of a log record. -/
def logBytes (r : LogRec) : List Byte :=
  toBytes 8 r.gtsc ++ toBytes 2 r.src ++ toBytes 1 r.code ++ toBytes 1 r.kind ++ toBytes 3 0 ++ toBytes 1 r.log ++ toBytes 8 r.loc ++
  toBytes 8 r.value

/-- The record of 32 bytes. -/
def LogRec.ofBytes (bs : List Byte) : LogRec := ⟨leAt bs 0 8, leAt bs 8 2, leAt bs 10 1, leAt bs 11 1, leAt bs 15 1, leAt bs 16 8, leAt bs 24 8⟩

/-- The place in the list of records of the one in a slot of the ring, if it holds one. DESIGN CHOICE (log 44): the n-th record ever written stands
in slot n modulo the ring's size. -/
def logPlace (w : Wellhead) (slot : Nat) : Option Nat :=
  let k := (slot + logSize - w.logged % logSize) % logSize
  if k < w.log.length then some k else none

/-- A byte of flash: of the event log's area as its records stand there, 0xff in the reserved area and where nothing is written (R361, R366). -/
def flashByte (w : Wellhead) (off : Nat) : Byte :=
  if flashReserved ≤ off ∧ off < flashLog then 0xff
  else match (if flashLog ≤ off then logPlace w ((off - flashLog) / 32) else none) with
    | some k => (((w.log[k]?).map logBytes).getD []).getD (off % 32) 0xff
    | none => Tab.getD w.flash off 0xff

/-- Bytes of flash. -/
def flashRd (w : Wellhead) (off n : Nat) : List Byte := (upto off n).map (flashByte w)

/-- Write bytes of flash. -/
def flashWr (off : Nat) : List Byte → Wellhead → Wellhead
  | [], w => w
  | b :: bs, w => flashWr (off + 1) bs { w with flash := Tab.set w.flash 0xff#8 off b }

/-- Write one byte of flash anywhere but in the reserved area: in a record of the event log it changes the record. -/
def flashPut (off : Nat) (v : Byte) (w : Wellhead) : Wellhead :=
  match (if flashLog ≤ off then logPlace w ((off - flashLog) / 32) else none) with
  | some k =>
    { w with log := match w.log[k]? with
      | some r => setAt w.log k (LogRec.ofBytes (setAt (logBytes r) (off % 32) v))
      | none => w.log }
  | none => flashWr off [v] w

/-- One bit of CRC-32 of IEEE 802.3, least significant bit first. -/
def crc32Bit (c : BitVec 32) : BitVec 32 := if c.getLsbD 0 then (c >>> 1) ^^^ 0xedb88320#32 else c >>> 1

/-- n bits of it. -/
def crc32Bits : Nat → BitVec 32 → BitVec 32
  | 0, c => c
  | n + 1, c => crc32Bits n (crc32Bit c)

/-- CRC-32 of bytes. -/
def crc32 (bs : List Byte) : BitVec 32 := ~~~(bs.foldl (fun (c : BitVec 32) b => crc32Bits 8 (c ^^^ b.setWidth 32)) 0xffffffff#32)

/-- Offsets of the copies of the marker and of the index reservation. -/
def markerOff (copy : Nat) : Nat := 0x8000000 + copy * 4096
def indexOff (copy : Nat) : Nat := 0x8002000 + copy * 4096

/-- The body of a copy whose CRC matches. -/
def copyBody (w : Wellhead) (off : Nat) : Option Nat :=
  let bs := flashRd w off 8
  if ofBytes (flashRd w (off + 8) 4) = (crc32 bs).toNat then some (ofBytes bs) else none

/-- A valid marker copy: SEQ and SLOT. -/
def marker (w : Wellhead) (copy : Nat) : Option (Nat × Nat) :=
  match copyBody w (markerOff copy) with
  | some b => if bits b 39 32 ≤ 1 ∧ bits b 63 40 = 0 then some (bits b 31 0, bits b 39 32) else none
  | none => none

/-- A valid index-reservation copy: NEXT, at most 2^40 (log 44). -/
def reserved (w : Wellhead) (copy : Nat) : Option Nat :=
  match copyBody w (indexOff copy) with
  | some b => if b ≤ 2 ^ 40 then some b else none
  | none => none

/-- Write a copy: body, CRC, and 0xff in every other byte of its 4 KiB. -/
def writeCopy (off body : Nat) (w : Wellhead) : Wellhead :=
  let bs := toBytes 8 body
  flashWr off (bs ++ toBytes 4 (crc32 bs).toNat) { w with flash := w.flash.filter fun e => !(decide (off ≤ e.1) && decide (e.1 < off + 4096)) }

/-- The copy to write, by what the two hold: an invalid one, copy 0 when both are, else the lower, copy 1 when equal (R362). -/
def copyToWrite : Option Nat → Option Nat → Nat
  | none, _ => 0
  | some _, none => 1
  | some a, some b => if a < b then 0 else 1

/-- A flip of the marker to a slot. -/
def flipMarker (slot : Nat) (w : Wellhead) : Wellhead :=
  let a := (marker w 0).map Prod.fst
  let b := (marker w 1).map Prod.fst
  let seq := match a, b with
    | none, none => 1
    | _, _ => (max (a.getD 0) (b.getD 0) + 1) % 2 ^ 32
  writeCopy (markerOff (copyToWrite a b)) (seq + slot * 2 ^ 32) w

/-! ### Choosing a slot and booting (R361, R363, R364) -/

/-- The header of a slot. -/
def slotHeader (w : Wellhead) (slot : Nat) : Nat × Nat × List Byte := Config.header (flashRd w (slot * slotSize) 64)
def slotRbi (w : Wellhead) (slot : Nat) : Nat := (slotHeader w slot).2.1
def slotKey (w : Wellhead) (slot : Nat) : List Byte := (slotHeader w slot).2.2

/-- Does a slot verify (R361)? Its signature block follows header and images, and begins with the public key (log 87). -/
def slotVerifies (w : Wellhead) (slot : Nat) : Bool :=
  let at_ := slot * slotSize
  let blk := 64 + (slotHeader w slot).1
  let key := flashRd w (at_ + blk) (4 + lmsKeySize)
  decide (blk + 4 + lmsKeySize ≤ slotSize) && decide (slotRbi w slot ≤ 64) && decide (sha256 key = w.fwRoot) &&
  (hssVerify key (flashRd w at_ blk) (flashRd w (at_ + blk + 4 + lmsKeySize) (slotSize - (blk + 4 + lmsKeySize)))).isSome

/-- Do bytes carry an LMS signature under a public key of a given hash (R363, R370)? -/
def signedBy (bs hash : List Byte) : Bool :=
  let (msg, key, sig) := Config.signed bs
  decide (sha256 key = hash) && lmsVerify key msg sig

/-- The slot that the marker names, slot A when no copy is valid. -/
def firstSlot (w : Wellhead) : Nat :=
  match marker w 0, marker w 1 with
  | some a, some b => if a.1 < b.1 then b.2 else a.2
  | some a, none => a.2
  | none, some b => b.2
  | none, none => 0

/-- The slot that boots, or none. -/
def chooseSlot (w : Wellhead) : Option Nat :=
  [firstSlot w, 1 - firstSlot w].find? fun x => slotVerifies w x && decide (w.fuses ≤ slotRbi w x)

/-- A measurement register. -/
def mxOf (w : Wellhead) (n : Nat) : List Byte := Tab.getD w.mx n (List.replicate 32 0)

/-- Extend a measurement register (R368). -/
def extendMx (n : Nat) (d : List Byte) (w : Wellhead) : Wellhead := { w with mx := Tab.put w.mx n (sha256 (mxOf w n ++ d)) }

/-- Extend a register with the measurement of a stage, whose bytes the spec does not state (log 2). -/
def measure (n : Nat) (s : State) : State :=
  let f := fun (i : Nat) => toBytes 8 (Config.freeValue (s.fresh + i)).toNat
  ({ s with fresh := s.fresh + 4 }).onWell (extendMx n (f 0 ++ f 1 ++ f 2 ++ f 3))

/-- Channels that failed training are logged (R151). -/
def logChannels (s : State) : State :=
  (upto 0 192).foldl (fun s c => if bit (Tab.getD s.mem.channels (c / 6) 63) (c % 6) then s else s.logEvent 0x04 c) s

/-- The Wellhead resumes at the highest valid NEXT (R367). -/
def resumeIndex (w : Wellhead) : Wellhead :=
  let n := max ((reserved w 0).getD 0) ((reserved w 1).getD 0)
  { w with nextSig := n, endSig := n }

/-- Does an address of the model's memory lie outside the package: in the host's memory or a peer's? -/
def outsideAt (m : Mem) (pa : Nat) : Bool := decide (m.kind pa = .host) || decide (m.kind pa = .peer) || decide (2 ^ 64 ≤ pa)

/-- A package's memory cleared: what lies outside it stays, and its channels as they were trained. -/
def clearMem (m : Mem) : Mem :=
  { Mem.reset with
    channels := m.channels, unreach := m.unreach, bytes := m.bytes.filter fun e => outsideAt m e.1,
    poison := m.poison.filter fun e => decide (m.kind (e.1 * 64) = .host) }

/-- The dies at their reset values. What outlives a reset: flash, fuses and the event log, the clock of nanoseconds, the package's cid and
routes, its trained channels; what lies outside the package; and the model's own fields (log 3). -/
def resetDies (s : State) : State :=
  { State.reset with
    agenda := s.agenda, fresh := s.fresh, nextId := s.nextId, cid := s.cid, gtsc := s.gtsc, cycle := s.cycle,
    mem := clearMem s.mem,
    out := { Outside.reset with route := s.out.route },
    well := s.well }

/-- The Wellhead at its reset values: measurements and key slots zero, clock 3,000 MHz, debug port closed. -/
def resetWell (boot : Boot) (w : Wellhead) : Wellhead :=
  { Wellhead.reset with
    flash := w.flash, device := w.device, fwRoot := w.fwRoot, dbgRoot := w.dbgRoot, lifecycle := w.lifecycle, fuses := w.fuses,
    log := w.log, logged := w.logged, groups := w.groups, slot := w.slot, nextSig := w.nextSig, endSig := w.endSig, boot := boot }

/-- The first line of the Wellhead's own SRAM, which holds two key slots in each line (R161, R369; log 90). -/
def wellLine : Nat := 2 ^ 46

/-- What LP6 memory holds, its channels as they were trained, and the poison of the Wellhead's SRAM: the rest of a package's memory cleared. -/
def lp6Only (m : Mem) : Mem :=
  { clearMem m with
    bytes := m.bytes.filter fun e => outsideAt m e.1 || decide (m.kind e.1 = .lp6),
    poison := m.poison.filter fun e =>
      decide (m.kind (e.1 * 64) = .host) || decide (m.kind (e.1 * 64) = .lp6) || decide (wellLine ≤ e.1) }

/-- Every key slot is written whole: its SRAM holds no poison (R162, R369). -/
def clearWellLines (s : State) : State := { s with mem := { s.mem with poison := s.mem.poison.filter fun e => decide (e.1 < wellLine) } }

/-- The dies at their reset values, LP6 memory as it stands: VMEM feeds it (R10, log 82). -/
def clearDies (s : State) : State := { resetDies s with mem := lp6Only s.mem }

/-- The working channels of every group, reported to the resident kernel (R151). -/
def reportGroups (s : State) : State := s.onWell fun w => { w with groups := (upto 0 32).map s.mem.trained }

/-- The stages that the Wellhead's firmware starts, up to the wait for a resident kernel. -/
def startDies (s : State) : State :=
  let s1 := (clearDies s).onWell fun w => { w with boot := .waiting }
  measure 3 (measure 2 (reportGroups (logChannels (measure 1 s1))))

/-- The boot order up to the wait for a resident kernel. -/
def bootFrom (s : State) : State :=
  match chooseSlot s.well with
  | none => s.onWell fun w => { w with boot := .recovery }
  | some k => startDies (measure 0 ((logOpen 0x06 k (slotRbi s.well k) (s.onWell fun w => { w with slot := k })).onWell resumeIndex))


/-- RESET (R247 and the reset columns of every chapter): a package that has booted, or waits for its kernel, stays at that stage (log 3); the hold
of a trip lasts until VCORE is removed (R365). -/
def execReset (s : State) : Out :=
  .next ((resetDies s).onWell fun w => { resetWell w.boot w with tripped := w.tripped })

/-- POWER_ON_BOOT (R363, R364): of the whole package, or of its dies when VCORE returns to a running Wellhead (log 82); not while the hold of a
trip lasts (R365). -/
def execPowerOnBoot (s : State) : Out := .next (match s.well.boot with
  | .off => if s.well.tripped then s else bootFrom s
  | .dark => startDies s
  | .recovery | .waiting | .running => s)

/-- What the hard core of die 0 logs of an image that fails its check: the spec states no field of the record (log 2). -/
def logBadImage (s : State) : State :=
  let f := fun (i : Nat) => (Config.freeValue (s.fresh + i)).toNat
  ({ s with fresh := s.fresh + 3 }).logRec ⟨s.gtsc, srcHard 0, f 0 % 256, 0, 0, f 1, f 2⟩

/-- KERNEL_IMAGE_LOAD (R363): one that fails its check is not started. -/
def execKernelImageLoad (image : List Byte) (s : State) : Out :=
  if s.well.boot ≠ .waiting ∨ s.well.tripped = true then .next s
  else if !signedBy image (slotKey s.well s.well.slot) then .next (logBadImage s)
  else
    let rbi := slotRbi s.well s.well.slot
    let s1 := (measure 4 s).onWell fun w => { w with boot := .running }
    .next (if s1.well.fuses < rbi then (s1.onWell fun w => { w with fuses := rbi }).logEvent 0x08 rbi else s1)

/-- The slot that an image goes to in ROM recovery (R364). -/
def recoverySlot (w : Wellhead) : Nat :=
  match slotVerifies w 0, slotVerifies w 1 with
  | false, true => 0
  | true, false => 1
  | _, _ => 1 - firstSlot w

/-- PLDM_FIRMWARE_UPDATE (R364): into the inactive slot, or in recovery into a refused one, after which the package boots again. -/
def execPldmFirmwareUpdate (image : List Byte) (s : State) : Out :=
  if s.well.boot = .off ∨ slotSize < image.length then .next (s.answer .refused) else
  let k := if s.well.boot = .recovery then recoverySlot s.well else 1 - s.well.slot
  let s1 := s.onWell fun w => flipMarker k (flashWr (k * slotSize) image w)
  .next (if s.well.boot = .recovery then bootFrom s1 else s1)

/-! ### Power and sensors (R10, R12, R365) -/

/-- Where the loss of VCORE leaves the boot: dies that had booted are dark; where it ends the hold of a trip, the package boots from its ROM. -/
def Wellhead.bootDark (w : Wellhead) : Boot := if w.tripped then .off else match w.boot with
  | .waiting | .running | .dark => .dark
  | b => b

/-- VCORE_REMOVED (R10, R365): cells, routers, control cores and the hub lose their state, and the hold of a trip ends. LP6 memory, fed by
VMEM, and the Wellhead and package flash, fed by VAUX, keep what they hold (log 82). -/
def execVcoreRemoved (s : State) : Out :=
  .next ((clearDies s).onWell fun w => { w with boot := w.bootDark, tripped := false, halted := [], stepping := none })

/-- VAUX_REMOVED (R10, R12): the Wellhead loses its state, but for flash and fuses. The other rails still feed the dies, pools and LP6 memory:
they keep what they hold, stand still while the Wellhead is off, and are cleared when it boots them (R363); the spec does not say so
(DESIGN CHOICE, log 82). The hold of a trip outlasts it (R365). -/
def execVauxRemoved (s : State) : Out := .next ((clearWellLines s).onWell fun w => { resetWell .off w with tripped := w.tripped })

/-- The sensors in a sample (log 44): 0 to 271 thermal, in 0.1 °C; then VCORE, VMEM, VSER and VAUX in mV, and their currents in mA, to which R365
gives no bound. -/
def rails : List Nat := [750, 1050, 900, 3300]

/-- Is a reading outside ±10 % of nominal? -/
def railBad (nominal v : Nat) : Bool := decide (10 * v < 9 * nominal) || decide (11 * nominal < 10 * v)

/-- The sensor that trips, and its reading: the hottest, else the first rail out of its range (log 44). -/
def tripCause (samples : List Nat) (hot : Nat) : Nat × Nat :=
  if 1100 ≤ hot then (samples.findIdx fun v => decide (v = hot), hot)
  else
    let bad := (rails.zip (samples.drop 272)).findIdx fun e => railBad e.1 e.2
    (272 + bad, samples.getD (272 + bad) 0)

/-- SENSOR_SAMPLE (R365), of a package that has VCORE (log 82). -/
def execSensorSample (samples : List Nat) (s : State) : Out :=
  if s.well.boot = .off ∨ s.well.boot = .dark ∨ s.well.tripped = true then .next s else
  let hot := (samples.take 272).foldl max 0
  if decide (1100 ≤ hot) || (rails.zip (samples.drop 272)).any (fun e => railBad e.1 e.2) then
    let c := tripCause samples hot
    .next ((logOpen 0x02 c.1 c.2 (resetDies s)).onWell fun w => { resetWell w.boot w with tripped := true })
  else if 950 ≤ hot then
    let mhz := max 750 (s.well.mhz - 250)
    .next (if mhz = s.well.mhz then s else (s.onWell fun w => { w with mhz := mhz }).logEvent 0x01 mhz)
  else if 900 ≤ hot then .next s
  else .next (s.onWell fun w => { w with mhz := min 3000 (w.mhz + 250) })

/-! ### The event log (R366) -/

/-- The firmware runs. -/
def State.firmware (s : State) : Bool := decide (s.well.boot ∈ [.waiting, .running, .dark])

/-- The resident kernel runs and reaches the mailbox. -/
def State.mailbox (s : State) : Bool := s.powered

/-- EVENT_LOG_READ (R366): from the management port or the kernel's mailbox. -/
def execEventLogRead (fromKernel : Bool) (s : State) : Out :=
  .next (s.answer (if s.firmware && (!fromKernel || s.mailbox) then .data (s.well.log.flatMap logBytes) false else .refused))

/-! ### Measurements and attestation (R367, R368) -/

/-- What a report holds before its signature; the widths of its small fields are the model's (log 44). -/
def reportBytes (w : Wellhead) (nonce : List Byte) : List Byte :=
  w.device ++ toBytes 1 w.lifecycle ++ toBytes 1 w.fuses ++ ((upto 0 8).flatMap fun n => mxOf w n) ++ nonce

/-- The Wellhead reserves the next block of indices when the present one is used up. -/
def reserveIndex (w : Wellhead) : Wellhead :=
  if w.nextSig < w.endSig then w else
  let next := w.nextSig + 1024
  { writeCopy (indexOff (copyToWrite (reserved w 0) (reserved w 1))) next w with endSig := next }

/-- ATTESTATION_REPORT (R367, R368). -/
def execAttestationReport (nonce : List Byte) (s : State) : Out :=
  if !s.firmware || decide (nonce.length ≠ 32) || decide (2 ^ 40 ≤ s.well.nextSig) then .next (s.answer .refused) else
  let w := reserveIndex s.well
  let body := reportBytes w nonce
  .next ((s.onWell fun _ => { w with nextSig := w.nextSig + 1 }).answer (.data (body ++ Config.sign w.nextSig body) false))

/-- MEASUREMENT_EXTEND (R368): mx5 and mx6, at the kernel's request. -/
def execMeasurementExtend (reg : Nat) (digest : List Byte) (s : State) : Out :=
  .next (if s.mailbox && (decide (reg = 5) || decide (reg = 6)) && decide (digest.length = 32) then s.onWell (extendMx reg digest)
    else s.answer .refused)

/-! ### Key slots (R369) -/

/-- KEY_SLOT_WRITE (R369). -/
def execKeySlotWrite (slot owner : Nat) (key : List Byte) (s : State) : Out :=
  .next (if s.mailbox && decide (slot < 64) && decide (key.length = 32) then
      s.onWell fun w => { w with keys := Tab.put w.keys slot ⟨owner, key⟩ }
    else s.answer .refused)

/-- Is the line of a key slot poisoned (R162)? Writing one slot of the two in a line leaves its poison. -/
def slotBad (s : State) (slot : Nat) : Bool := Tab.getD s.mem.poison (wellLine + slot / 2) false

/-- KEY_SLOT_READ (R369): only for the slot's owner; of a poisoned line, with its poison. -/
def execKeySlotRead (slot owner : Nat) (s : State) : Out :=
  .next (match Tab.look s.well.keys slot with
    | some k => if s.mailbox && decide (k.owner = owner) then s.answer (.data k.key (slotBad s slot)) else s.answer .refused
    | none => s.answer .refused)

/-- KEY_SLOT_CLEAR (R369). -/
def execKeySlotClear (slot : Nat) (s : State) : Out :=
  .next (if s.mailbox then s.onWell fun w => { w with keys := Tab.del w.keys slot } else s.answer .refused)

/-! ### Debug unlock (R370) -/

/-- DEBUG_NONCE_REQUEST (R370): the nonce is the device's, an input of the model. -/
def execDebugNonceRequest (nonce : List Byte) (s : State) : Out :=
  .next (if s.firmware && decide (nonce.length = 32) then (s.onWell fun w => { w with nonce := some nonce }).answer (.data nonce false)
    else s.answer .refused)

/-- Step 2: what the token must be. -/
def tokenOk (s : State) (token : List Byte) : Option (Nat × Nat) :=
  match Config.token token with
  | none => none
  | some (device, life, nonce, level, expiry) =>
    if signedBy token s.well.dbgRoot && decide (device = s.well.device) && decide (life = s.well.lifecycle) &&
        decide (s.well.nonce = some nonce) && decide (s.gtsc < expiry) && decide (1 ≤ level) && decide (level ≤ 3) then
      some (level, expiry)
    else none

/-- Every handle-table entry of every context closes (R252). -/
def closeAll (s : State) : State := s.tab.handles.foldl (fun s e => closeHandle s (e.1 / 4096) (e.1 % 4096)) s

/-- DEBUG_UNLOCK (R370): the steps in their order. -/
def execDebugUnlock (token : List Byte) (s : State) : Out :=
  if !s.firmware then .next (s.answer .refused) else
  let spent := s.onWell fun w => { w with nonce := none }
  match tokenOk s token with
  | none => .next (spent.answer .refused)
  | some (level, expiry) =>
    let s1 := closeAll ((clearWellLines spent).onWell fun w => { w with keys := [] })
    .next (logOpen 0x07 level expiry (s1.onWell fun w => { extendMx 7 (sha256 token) w with debug := some (level, expiry) }))

/-- DEBUG_EXPIRY (R370): GTSC has passed the expiry; the cores that the port held go on (log 44). -/
def execDebugExpiry (s : State) : Out :=
  .next (match s.well.debug with
    | some (_, e) => if e < s.gtsc then s.onWell fun w => { w with debug := none, halted := [], stepping := none, breaks := [] } else s
    | none => s)

/-- The level at which the port is open. -/
def debugLevel (s : State) : Nat := match s.well.debug with
  | some (l, e) => if s.gtsc ≤ e then l else 0
  | none => 0

/-- Is a physical address memory of this package? -/
def ownMem (s : State) (pa : Nat) : Bool := decide (s.mem.kind pa = .lp6) || decide (s.mem.kind pa = .pool)

/-- One word of a thread of a halted core, at the next turn. -/
def stepThread (tid : Nat) (s : State) : State :=
  { s with agenda := .thread tid :: s.agenda, well := { s.well with stepping := some tid } }

/-- What a request that only reads finds: nothing where there is no such thing. -/
def debugRead (s : State) : DebugReq → Option (List Byte × Bool)
  | .readThread tid => if tid < 1024 then some (ctxBytes s tid 0, false) else none
  | .readMem pa n => if ownMem s pa then some ((s.refresh (upto pa n)).mem.rds pa n, s.mem.bads pa n) else none
  | .readTile key => if key < 1536 * 256 then some (toBytes 8 (s.tile key).low.toNat ++ toBytes 8 (s.tile key).bitmap.toNat, false) else none
  | .readRing ring => if ring < 1536 * 16 then some (toBytes 8 (Tab.getD s.tab.orings ring .reset).word.toNat, false) else none
  | .readHandle ctxid idx => (s.handle ctxid idx).map fun h => (h.desc.toBytes64 true, false)
  | .readFlash off n => if off + n ≤ flashEnd then some (flashRd s.well off n, false) else none
  | .readWell => some (reportBytes s.well [] ++ toBytes 8 s.well.mhz, false)
  | _ => none

/-- The level that a request needs (R370): 1 reads state, 2 halts and steps cores, 3 is full access, including the Wellhead. -/
def debugNeeds : DebugReq → Nat
  | .readThread _ | .readMem .. | .readTile _ | .readRing _ | .readHandle .. => 1
  | .halt _ | .release _ | .step _ | .resume .. => 2
  | .writeThread .. | .writeMem .. | .writeTile .. | .writeRing .. | .readFlash .. | .writeFlash .. | .readWell | .writeClock _ => 3

/-- What a request that acts does; none where it is refused. -/
def debugAct (s : State) : DebugReq → Option State
  | .halt shard => if shard < 128 then some (s.onWell fun w => { w with halted := shard :: w.halted.filter fun x => decide (x ≠ shard) }) else none
  | .release shard => some (s.onWell fun w => { w with halted := w.halted.filter fun x => decide (x ≠ shard) })
  | .step tid => if shardOf tid ∈ s.well.halted then some (stepThread tid s) else none
  | .resume tid past =>
    if portHolds s tid = true ∧ (s.th tid).st = .trapped then
      some ((s.onTh tid fun t => { t with st := .runnable, pc := alignPc t.sys.xpc + if past then 8 else 0 }).onWell fun w =>
        { w with breaks := w.breaks.filter fun x => decide (x ≠ tid) })
    else none
  | .writeThread tid block => if tid < 1024 ∧ block.length = 1024 then some (s.putTh tid (blockThread s block tid)) else none
  | .writeMem pa bs => if ownMem s pa then some (homeWrite s none pa bs) else none
  | .writeTile key low bitmap => if key < 1536 * 256 then some (s.putTile key (TileEnt.ofWords (w64 low) (w64 bitmap))) else none
  | .writeRing ring v =>
    if ring < 1536 * 16 then some { s with tab := { s.tab with orings := Tab.put s.tab.orings ring (ORing.ofWord (w64 v)) } } else none
  | .writeFlash off v => if off < flashEnd ∧ ¬(flashReserved ≤ off ∧ off < flashLog) then some (s.onWell (flashPut off v)) else none
  | .writeClock mhz => some (s.onWell fun w => { w with mhz := mhz })
  | _ => none

/-- The physical address of a request. -/
def debugPa : DebugReq → Option Nat
  | .readMem pa _ | .writeMem pa _ => some pa
  | _ => none

/-- DEBUG_PORT_ACCESS (R370), within the unlocked level. No memory stands at an address that is not of this package's LP6 memory or pools. -/
def execDebugPortAccess (r : DebugReq) (s : State) : Out :=
  if debugLevel s < debugNeeds r then .next (s.answer .refused)
  else match debugRead s r, debugAct s r, debugPa r with
    | some (bs, ep), _, _ => .next (s.answer (.data bs ep))
    | none, some s1, _ => .next s1
    | none, none, some pa => .fault (.reservedAddress pa)
    | none, none, none => .next (s.answer .refused)

end Sys2Proof.Machine
end

