-- ==== Sys2Proof/Machine/Inputs.lean ====
section
/-! DEFINITION. What comes from outside beside the events of the opcode table: host accesses of BAR0, the kernel's entries, the links, the bridges,
outcomes of boot and of a loss of power, streams of other regions (spec 02_machine R42, R44, 13_tables R262, 18_outside R345 to R359, 19_wellhead
R363, R364). -/
namespace Sys2Proof.Machine

/-- Power is lost (R10): the dies, their memories and the Wellhead, but for flash and fuses. -/
def losePower (s : State) : State := (resetDies s).onWell (resetWell .off)

/-- The power fails while a kernel that has passed its check has the fuses raised (R363): some count from the old one to the slot's RBI stands. -/
def fuseLoss (image : List Byte) (count : Nat) (s : State) : State :=
  let w := s.well
  let rbi := slotRbi w w.slot
  if w.boot = .waiting ∧ w.tripped = false ∧ signedBy image (slotKey w w.slot) = true ∧ w.fuses ≤ count ∧ count ≤ rbi then
    losePower (s.onWell fun w => { w with fuses := count })
  else s

/-- The slot that a firmware update writes (R364). -/
def updateSlot (w : Wellhead) : Nat := if w.boot = .recovery then recoverySlot w else 1 - w.slot

/-- The marker copy that a flip writes (R362). -/
def flipCopy (w : Wellhead) : Nat := copyToWrite ((marker w 0).map Prod.fst) ((marker w 1).map Prod.fst)

/-- A copy is torn: its bytes are some that its CRC does not match (R364). -/
def tearCopy (copy : Nat) (bs : List Byte) (w : Wellhead) : Wellhead :=
  let w1 := flashWr (markerOff copy) (bs.take 4096) w
  if (marker w1 copy).isNone then w1 else w

/-- The power fails during a firmware update (R364): after some bytes of the slot, or, the slot being whole, while the marker copy is written. -/
def updateLoss (image : List Byte) (written : Nat) (torn : Option (List Byte)) (s : State) : State :=
  if s.well.boot = .off ∨ slotSize < image.length then s else
  let at_ := updateSlot s.well * slotSize
  losePower (s.onWell fun w => match torn with
    | none => flashWr at_ (image.take written) w
    | some bs => tearCopy (flipCopy w) bs (flashWr at_ image w))

/-- A token of another region's stream comes to stand at a weir's L (R42, R44), where it has room and no node of the weir's own region feeds it; its
sender's owner stands beside it. -/
def streamToken (iid node : Nat) (tok : Tok) (owner : Nat) (s : State) : State :=
  match s.inv iid with
  | none => s
  | some i =>
    match Tab.look i.nodes node with
    | none => s
    | some nd =>
      let ct := i.ct node
      if nd.op = 0x97 ∧ i.phase = .run ∧ (feeder i.nodes node 0).isNone = true ∧ (i.slot node tok.tag).hasL = false ∧ ct.blocked = false ∧
          ct.saved = false ∧ tok.flg.mrk = false ∧ tok.flg.frs = false then
        let i1 := i.putSlot node tok.tag ((i.slot node tok.tag).set 0 tok)
        s.putInv iid ((i1.onSt node fun x => { x with senders := Tab.put x.senders tok.tag owner }).activity s)
      else s

/-- Another member of a collective has ended it (R358): with FAULT, REFUSED or CANCELLED it ends here too. -/
def memberStops (cmd status code : Nat) (s : State) : State :=
  if 1 ≤ status ∧ status ≤ 3 then
    onCmd cmd (fun c => if c.msg.op = 0x73 ∧ c.stop = none ∧ c.over.isNone = true then { c with stop := some (status, code) } else c) s
  else s

/-- Boot reserves the placement cache's region, and the entries come to stand there (R262). -/
def reserveCache (pa : Nat) (s : State) : State :=
  if s.fab.cacheAt = none ∧ s.mem.kind pa = .lp6 ∧ s.mem.kind (pa + 1024 * placedStep - 1) = .lp6 then
    let s1 := { s with fab := { s.fab with cacheAt := some pa } }
    ((upto 0 1024).zip s.fab.placed).foldl (fun s e => homeWrite s none (pa + e.1 * placedStep) e.2.bytes) s1
  else s

/-- What an input does while the package runs. -/
def liveInput (e : Input) (s : State) : State :=
  match e with
  | .barRead fnc off => s.answer (barRead fnc off s)
  | .barWrite fnc off v => barWrite fnc off v s
  | .terms ctxid t => if s.powered then { s with out := { s.out with terms := Tab.put s.out.terms ctxid t } } else s
  | .offer f => offerFlit f s
  | .send p => sendFlit p s
  | .take p => takeFlit p s
  | .queuePair bridge qp q => createQueue bridge qp q s
  | .member cmd status code => memberStops cmd status code s
  | .cacheRegion pa => reserveCache pa s
  | .stream iid node tok owner => streamToken iid node tok owner s
  | _ => s

/-- One input. What stands outside the package changes whether or not the package runs; the Wellhead writes routes while its firmware runs (R355);
channels are trained while the dies are down (R151, R363). -/
def takeInput (e : Input) (s : State) : State :=
  match e with
  | .hostLine line fails => if s.mem.kind (line * 64) = .host then { s with mem := s.mem.setBad (line * 64) fails } else s
  | .reach cid reachable =>
    let rest := s.mem.unreach.filter fun c => decide (c ≠ cid)
    { s with mem := { s.mem with unreach := if reachable then rest else cid :: rest } }
  | .route cid mask =>
    if s.firmware ∧ cid < 1024 then { s with out := { s.out with route := Tab.set s.out.route 0 cid (mask % 4096) } } else s
  | .training group mask =>
    if (s.well.boot = .off ∨ s.well.boot = .dark) ∧ group < 32 then
      { s with mem := { s.mem with channels := Tab.set s.mem.channels 63 group (mask % 64) } }
    else s
  | .fuseLoss image count => fuseLoss image count s
  | .updateLoss image written torn => updateLoss image written torn s
  | _ => if s.dead then s else liveInput e s

end Sys2Proof.Machine
end

