-- ==== Sys2Proof/Machine/Load.lean ====
section
/-! DEFINITION. Loading a `.cxo` file (spec 03_encoding R65 to R69, 01_notation R15). -/
namespace Sys2Proof.Machine

/-- An entry of the section table: KIND, INDEX, the section's bytes (R66). -/
structure Section where
  kind : Nat
  index : Nat
  bytes : List Byte
  deriving DecidableEq, Repr

/-- The k-th entry of a section table; none where it breaks the layout or the file ends before the section. -/
def sectionAt (file : List Byte) (tab k : Nat) : Option Section :=
  let at_ := tab + 32 * k
  let kind := leAt file at_ 4
  let index := leAt file (at_ + 4) 4
  let off := leAt file (at_ + 8) 8
  let size := leAt file (at_ + 16) 8
  if at_ + 32 ≤ file.length ∧ 1 ≤ kind ∧ kind ≤ 4 ∧ (kind = 2 ∨ kind = 3 ∨ index = 0) ∧ off % 64 = 0 ∧ off + size ≤ file.length ∧
    leAt file (at_ + 24) 8 = 0 then some ⟨kind, index, (file.drop off).take size⟩
  else none

/-- Every entry of a section table. -/
def sectionsOf (file : List Byte) (tab : Nat) : Nat → Option (List Section)
  | 0 => some []
  | n + 1 => match sectionsOf file tab n, sectionAt file tab n with
    | some xs, some x => some (xs ++ [x])
    | _, _ => none

/-- Does a header keep to R65: MAGIC, CSET, reserved bytes, the number of sections? -/
def cxoHeaderOk (file : List Byte) : Bool :=
  decide (64 ≤ file.length) && decide (leAt file 0 4 = 0x004f5843) && decide (leAt file 4 2 = 1) && decide (leAt file 6 2 = 0) &&
  decide (leAt file 20 4 = 0) && decide (1 ≤ leAt file 16 4) && decide (leAt file 16 4 ≤ 4096)

/-- The sections of a kind. -/
def ofKind (xs : List Section) (k : Nat) : List Section := xs.filter fun x => decide (x.kind = k)

/-- The graph and rules sections of a file. -/
def graphsIn (xs : List Section) : List Section := ofKind xs 2 ++ ofKind xs 3

/-- A file as the loader accepts it: ENTRY and the sections, with at most one of thread code and one of data, and no graph or rules index
twice (R65, R66). DESIGN CHOICE (log 91): an index of 2^24 or more, which no IMM24 of GLAUNCH can name, refuses the file. -/
def cxoOf (file : List Byte) : Option (Nat × List Section) :=
  if !cxoHeaderOk file then none else
  match sectionsOf file (leAt file 56 8) (leAt file 16 4) with
  | none => none
  | some xs =>
    let ix := (graphsIn xs).map Section.index
    if (ofKind xs 1).length ≤ 1 ∧ (ofKind xs 4).length ≤ 1 ∧ ix.eraseDups.length = ix.length ∧ ix.all (fun k => decide (k < 2 ^ 24)) = true then
      some (leAt file 8 8, xs)
    else none

/-- Graph and rules sections by index: kind 0, which names no section, where the file has none. -/
def byIndex (xs : List Section) : List (Nat × List Byte) :=
  let gs := graphsIn xs
  (upto 0 (gs.foldl (fun a x => max a (x.index + 1)) 0)).map fun k => match gs.find? fun x => decide (x.index = k) with
    | some x => (x.kind, x.bytes)
    | none => (0, [])

/-- Place a graph or rules section that the loader accepts, under a partition word: looked up in the cache, or placed and stored; one that the
placer cannot fit is refused, and has no entry (R69). DEDUCED (log 86): the size limit at load is that of the larger dies. -/
def placeSection (pw : Nat) (s : State) (x : Section) : State :=
  match parseImage x.bytes with
  | none => s
  | some im =>
    if !loaderOk x.kind im then s else
    match planOf s im 1 pw x.bytes with
    | some (s1, _) => s1
    | none => s

/-- Write the bytes of the sections of a kind at a VA: none where they cannot be written. -/
def putSection (s : State) (who : Who) (va : W) (xs : List Section) : Option State :=
  match xs with
  | [] => some s
  | x :: _ => match writeVa s who none va.toNat x.bytes with
    | .ok s1 => some s1
    | .error _ => none

/-- The 64 KiB boundary on which a data section starts, at or below a VA (R16). -/
def dataStart (va : W) : W := va - w64 (va.toNat % 65536)

/-- The loader: the thread code and the data of a file in the context of a HALTED thread, the code at an 8-byte-aligned VA, the data on a 64 KiB
boundary; its graphs and rules by index; and the thread at the entry with g1 at the data (R15, R16, R49, R65 to R69). A file that it refuses, or
that it cannot write, loads nothing. -/
def loadModule (tid modul : Nat) (code data : W) (file : List Byte) (s : State) : State :=
  match cxoOf file with
  | none => s
  | some (entry, xs) =>
    let t := s.th tid
    let who : Who := ⟨dieOf tid, t.ctxid, t.sys.owner.toNat, true, none⟩
    let code := alignPc code
    let data := dataStart data
    if t.st ≠ .halted then s else
    match (putSection s who code (ofKind xs 1)).bind fun s1 => putSection s1 who data (ofKind xs 4) with
    | none => s
    | some s2 =>
      let m : Modul := ⟨code, data, byIndex xs⟩
      let s3 := (graphsIn xs).foldl (placeSection t.sys.pw.toNat) { s2 with fab := { s2.fab with modules := Tab.put s2.fab.modules modul m } }
      if ofKind xs 1 = [] then s3
      else startThread s3 tid { t with modul := modul } (alignPc (code + w64 entry)) data 0 0

end Sys2Proof.Machine
end

