-- ==== Sys2Proof/Machine/Dispatch.lean ====
section
/-! DEFINITION. The meaning of every instruction: one arm for each row of the opcode table. -/
namespace Sys2Proof.Machine

/-- What an instruction does. -/
def exec (i : Instr) (s : State) : Host.Outcome State Fault Refusal :=
  match i with
  | .add x => Sys2Proof.Machine.execAdd x s
  | .sub x => Sys2Proof.Machine.execSub x s
  | .mul x => Sys2Proof.Machine.execMul x s
  | .mulh x => Sys2Proof.Machine.execMulh x s
  | .div x => Sys2Proof.Machine.execDiv x s
  | .rem x => Sys2Proof.Machine.execRem x s
  | .min x => Sys2Proof.Machine.execMin x s
  | .max x => Sys2Proof.Machine.execMax x s
  | .abs x => Sys2Proof.Machine.execAbs x s
  | .neg x => Sys2Proof.Machine.execNeg x s
  | .and x => Sys2Proof.Machine.execAnd x s
  | .or x => Sys2Proof.Machine.execOr x s
  | .xor x => Sys2Proof.Machine.execXor x s
  | .andn x => Sys2Proof.Machine.execAndn x s
  | .shl x => Sys2Proof.Machine.execShl x s
  | .shr x => Sys2Proof.Machine.execShr x s
  | .sar x => Sys2Proof.Machine.execSar x s
  | .rol x => Sys2Proof.Machine.execRol x s
  | .popc x => Sys2Proof.Machine.execPopc x s
  | .clz x => Sys2Proof.Machine.execClz x s
  | .ctz x => Sys2Proof.Machine.execCtz x s
  | .bfx x => Sys2Proof.Machine.execBfx x s
  | .bfi x => Sys2Proof.Machine.execBfi x s
  | .cmp x => Sys2Proof.Machine.execCmp x s
  | .sel x => Sys2Proof.Machine.execSel x s
  | .addi x => Sys2Proof.Machine.execAddi x s
  | .madd x => Sys2Proof.Machine.execMadd x s
  | .satn x => Sys2Proof.Machine.execSatn x s
  | .hash x => Sys2Proof.Machine.execHash x s
  | .mov x => Sys2Proof.Machine.execMov x s
  | .movi x => Sys2Proof.Machine.execMovi x s
  | .movhi x => Sys2Proof.Machine.execMovhi x s
  | .lea x => Sys2Proof.Machine.execLea x s
  | .leaIndexed x => Sys2Proof.Machine.execLeaIndexed x s
  | .plog x => Sys2Proof.Machine.execPlog x s
  | .csrr x => Sys2Proof.Machine.execCsrr x s
  | .csrw x => Sys2Proof.Machine.execCsrw x s
  | .tsc x => Sys2Proof.Machine.execTsc x s
  | .qpeek x => Sys2Proof.Machine.execQpeek x s
  | .qstat x => Sys2Proof.Machine.execQstat x s
  | .fadd x => Sys2Proof.Machine.execFadd x s
  | .fsub x => Sys2Proof.Machine.execFsub x s
  | .fmul x => Sys2Proof.Machine.execFmul x s
  | .fma x => Sys2Proof.Machine.execFma x s
  | .fmin x => Sys2Proof.Machine.execFmin x s
  | .fmax x => Sys2Proof.Machine.execFmax x s
  | .fcmp x => Sys2Proof.Machine.execFcmp x s
  | .frcp x => Sys2Proof.Machine.execFrcp x s
  | .frsq x => Sys2Proof.Machine.execFrsq x s
  | .fexp2 x => Sys2Proof.Machine.execFexp2 x s
  | .flog2 x => Sys2Proof.Machine.execFlog2 x s
  | .ftanh x => Sys2Proof.Machine.execFtanh x s
  | .fsigm x => Sys2Proof.Machine.execFsigm x s
  | .fclass x => Sys2Proof.Machine.execFclass x s
  | .fscale x => Sys2Proof.Machine.execFscale x s
  | .fcvt x => Sys2Proof.Machine.execFcvt x s
  | .icvt x => Sys2Proof.Machine.execIcvt x s
  | .bxpack x => Sys2Proof.Machine.execBxpack x s
  | .bxunpk x => Sys2Proof.Machine.execBxunpk x s
  | .mxpack x => Sys2Proof.Machine.execMxpack x s
  | .mxunpk x => Sys2Proof.Machine.execMxunpk x s
  | .scale x => Sys2Proof.Machine.execScale x s
  | .unscale x => Sys2Proof.Machine.execUnscale x s
  | .br x => Sys2Proof.Machine.execBr x s
  | .bri x => Sys2Proof.Machine.execBri x s
  | .call x => Sys2Proof.Machine.execCall x s
  | .ret x => Sys2Proof.Machine.execRet x s
  | .halt x => Sys2Proof.Machine.execHalt x s
  | .waita x => Sys2Proof.Machine.execWaita x s
  | .yield x => Sys2Proof.Machine.execYield x s
  | .spawn x => Sys2Proof.Machine.execSpawn x s
  | .ld x => Sys2Proof.Machine.execLd x s
  | .ldIndexed x => Sys2Proof.Machine.execLdIndexed x s
  | .st x => Sys2Proof.Machine.execSt x s
  | .stIndexed x => Sys2Proof.Machine.execStIndexed x s
  | .atom x => Sys2Proof.Machine.execAtom x s
  | .cas x => Sys2Proof.Machine.execCas x s
  | .stb x => Sys2Proof.Machine.execStb x s
  | .stm x => Sys2Proof.Machine.execStm x s
  | .stred x => Sys2Proof.Machine.execStred x s
  | .pref x => Sys2Proof.Machine.execPref x s
  | .fence x => Sys2Proof.Machine.execFence x s
  | .tspawn x => Sys2Proof.Machine.execTspawn x s
  | .tend x => Sys2Proof.Machine.execTend x s
  | .tabort x => Sys2Proof.Machine.execTabort x s
  | .tstamp x => Sys2Proof.Machine.execTstamp x s
  | .tbarrier x => Sys2Proof.Machine.execTbarrier x s
  | .tdirect x => Sys2Proof.Machine.execTdirect x s
  | .gvt x => Sys2Proof.Machine.execGvt x s
  | .wait x => Sys2Proof.Machine.execWait x s
  | .waitm x => Sys2Proof.Machine.execWaitm x s
  | .waitt x => Sys2Proof.Machine.execWaitt x s
  | .binit x => Sys2Proof.Machine.execBinit x s
  | .barr x => Sys2Proof.Machine.execBarr x s
  | .bwait x => Sys2Proof.Machine.execBwait x s
  | .cntrd x => Sys2Proof.Machine.execCntrd x s
  | .xcopy x => Sys2Proof.Machine.execXcopy x s
  | .xgath x => Sys2Proof.Machine.execXgath x s
  | .xscat x => Sys2Proof.Machine.execXscat x s
  | .xcoll x => Sys2Proof.Machine.execXcoll x s
  | .xtask x => Sys2Proof.Machine.execXtask x s
  | .xsend x => Sys2Proof.Machine.execXsend x s
  | .xckpt x => Sys2Proof.Machine.execXckpt x s
  | .xcancel x => Sys2Proof.Machine.execXcancel x s
  | .wmassert x => Sys2Proof.Machine.execWmassert x s
  | .wmretract x => Sys2Proof.Machine.execWmretract x s
  | .wmmodify x => Sys2Proof.Machine.execWmmodify x s
  | .cssel x => Sys2Proof.Machine.execCssel x s
  | .csinfoSummary x => Sys2Proof.Machine.execCsinfoSummary x s
  | .csinfoEntry x => Sys2Proof.Machine.execCsinfoEntry x s
  | .csclrAll x => Sys2Proof.Machine.execCsclrAll x s
  | .csclrRule x => Sys2Proof.Machine.execCsclrRule x s
  | .rload x => Sys2Proof.Machine.execRload x s
  | .dopen x => Sys2Proof.Machine.execDopen x s
  | .dopenWait x => Sys2Proof.Machine.execDopenWait x s
  | .dclose x => Sys2Proof.Machine.execDclose x s
  | .dbind x => Sys2Proof.Machine.execDbind x s
  | .dbindSet x => Sys2Proof.Machine.execDbindSet x s
  | .dunbind x => Sys2Proof.Machine.execDunbind x s
  | .dstat x => Sys2Proof.Machine.execDstat x s
  | .ddesc x => Sys2Proof.Machine.execDdesc x s
  | .glaunch x => Sys2Proof.Machine.execGlaunch x s
  | .glaunchDelta x => Sys2Proof.Machine.execGlaunchDelta x s
  | .gstop x => Sys2Proof.Machine.execGstop x s
  | .gsnap x => Sys2Proof.Machine.execGsnap x s
  | .grest x => Sys2Proof.Machine.execGrest x s
  | .gbank x => Sys2Proof.Machine.execGbank x s
  | .gpart x => Sys2Proof.Machine.execGpart x s
  | .gqueryStatus x => Sys2Proof.Machine.execGqueryStatus x s
  | .gquerySize x => Sys2Proof.Machine.execGquerySize x s
  | .gquerySpoil x => Sys2Proof.Machine.execGquerySpoil x s
  | .gqueryDump x => Sys2Proof.Machine.execGqueryDump x s
  | .freshet x => Sys2Proof.Machine.execFreshet x s
  | .trap x => Sys2Proof.Machine.execTrap x s
  | .eret x => Sys2Proof.Machine.execEret x s
  | .brk x => Sys2Proof.Machine.execBrk x s
  | .msgi x => Sys2Proof.Machine.execMsgi x s
  | .ctxsave x => Sys2Proof.Machine.execCtxsave x s
  | .ctxrest x => Sys2Proof.Machine.execCtxrest x s
  | .tlbinv x => Sys2Proof.Machine.execTlbinv x s
  | .idle x => Sys2Proof.Machine.execIdle x s
  | .signal x => Sys2Proof.Machine.execSignal x s
  | .ptsync x => Sys2Proof.Machine.execPtsync x s
  | .nodeArithFire op w => Sys2Proof.Machine.execNodeArithFire op w s
  | .steer x => Sys2Proof.Machine.execSteer x s
  | .merge x => Sys2Proof.Machine.execMerge x s
  | .gate x => Sys2Proof.Machine.execGate x s
  | .fcomp x => Sys2Proof.Machine.execFcomp x s
  | .repeat x => Sys2Proof.Machine.execRepeat x s
  | .delay x => Sys2Proof.Machine.execDelay x s
  | .accum x => Sys2Proof.Machine.execAccum x s
  | .gen x => Sys2Proof.Machine.execGen x s
  | .genTrig x => Sys2Proof.Machine.execGenTrig x s
  | .sink x => Sys2Proof.Machine.execSink x s
  | .src x => Sys2Proof.Machine.execSrc x s
  | .tagset x => Sys2Proof.Machine.execTagset x s
  | .tagget x => Sys2Proof.Machine.execTagget x s
  | .route x => Sys2Proof.Machine.execRoute x s
  | .bound x => Sys2Proof.Machine.execBound x s
  | .agen x => Sys2Proof.Machine.execAgen x s
  | .mload x => Sys2Proof.Machine.execMload x s
  | .mstore x => Sys2Proof.Machine.execMstore x s
  | .rmw x => Sys2Proof.Machine.execRmw x s
  | .merge2 x => Sys2Proof.Machine.execMerge2 x s
  | .lut6 x => Sys2Proof.Machine.execLut6 x s
  | .fsm x => Sys2Proof.Machine.execFsm x s
  | .falloc x => Sys2Proof.Machine.execFalloc x s
  | .ffree x => Sys2Proof.Machine.execFfree x s
  | .chan x => Sys2Proof.Machine.execChan x s
  | .weir x => Sys2Proof.Machine.execWeir x s
  | .expert x => Sys2Proof.Machine.execExpert x s
  | .topk x => Sys2Proof.Machine.execTopk x s
  | .spill x => Sys2Proof.Machine.execSpill x s
  | .alpha x => Sys2Proof.Machine.execAlpha x s
  | .joinb x => Sys2Proof.Machine.execJoinb x s
  | .negj x => Sys2Proof.Machine.execNegj x s
  | .memb x => Sys2Proof.Machine.execMemb x s
  | .term x => Sys2Proof.Machine.execTerm x s
  | .score x => Sys2Proof.Machine.execScore x s
  | .tileNodeFire op w => Sys2Proof.Machine.execTileNodeFire op w s
  | .illegalInstructionWord w => Sys2Proof.Machine.execIllegalInstructionWord w s
  | .expertDrain iid node => Sys2Proof.Machine.execExpertDrain iid node s
  | .scoreReply iid node tag => Sys2Proof.Machine.execScoreReply iid node tag s
  | .tmma eng => Sys2Proof.Machine.execTmma eng s
  | .tmms eng => Sys2Proof.Machine.execTmms eng s
  | .tdecompDense eng => Sys2Proof.Machine.execTdecompDense eng s
  | .tdecompPacked eng => Sys2Proof.Machine.execTdecompPacked eng s
  | .tresid eng => Sys2Proof.Machine.execTresid eng s
  | .tzero eng => Sys2Proof.Machine.execTzero eng s
  | .tcvt eng => Sys2Proof.Machine.execTcvt eng s
  | .tscale eng => Sys2Proof.Machine.execTscale eng s
  | .tred eng => Sys2Proof.Machine.execTred eng s
  | .ttrans eng => Sys2Proof.Machine.execTtrans eng s
  | .ttopk eng => Sys2Proof.Machine.execTtopk eng s
  | .ringdefTiles shard => Sys2Proof.Machine.execRingdefTiles shard s
  | .ringdefRing shard => Sys2Proof.Machine.execRingdefRing shard s
  | .ringdefTasks shard => Sys2Proof.Machine.execRingdefTasks shard s
  | .tact eng => Sys2Proof.Machine.execTact eng s
  | .tokenArrival iid idx => Sys2Proof.Machine.execTokenArrival iid idx s
  | .tokenAccept iid idx second => Sys2Proof.Machine.execTokenAccept iid idx second s
  | .creditReturn iid idx => Sys2Proof.Machine.execCreditReturn iid idx s
  | .loadComplete tid idx => Sys2Proof.Machine.execLoadComplete tid idx s
  | .storeRetire tid idx => Sys2Proof.Machine.execStoreRetire tid idx s
  | .pageWalk slice => Sys2Proof.Machine.execPageWalk slice s
  | .requesterResume iid node => Sys2Proof.Machine.execRequesterResume iid node s
  | .activeMessage src => Sys2Proof.Machine.execActiveMessage src s
  | .chunkWritten cmd chunk => Sys2Proof.Machine.execChunkWritten cmd chunk s
  | .engineReply cmd => Sys2Proof.Machine.execEngineReply cmd s
  | .tileTaskCheck shard => Sys2Proof.Machine.execTileTaskCheck shard s
  | .tileTaskIssue shard eng => Sys2Proof.Machine.execTileTaskIssue shard eng s
  | .tileTaskRetire eng => Sys2Proof.Machine.execTileTaskRetire eng s
  | .dotEngineFaultStop eng => Sys2Proof.Machine.execDotEngineFaultStop eng s
  | .taskCommit => Sys2Proof.Machine.execTaskCommit s
  | .taskIrrevocable => Sys2Proof.Machine.execTaskIrrevocable s
  | .firingStart die => Sys2Proof.Machine.execFiringStart die s
  | .deltaApply net => Sys2Proof.Machine.execDeltaApply net s
  | .deltaInject net => Sys2Proof.Machine.execDeltaInject net s
  | .bankPass bank => Sys2Proof.Machine.execBankPass bank s
  | .bankTokenArrival bank => Sys2Proof.Machine.execBankTokenArrival bank s
  | .deltaDrainComplete iid => Sys2Proof.Machine.execDeltaDrainComplete iid s
  | .freshetNodeReconfig iid node => Sys2Proof.Machine.execFreshetNodeReconfig iid node s
  | .snapNodeSave iid node => Sys2Proof.Machine.execSnapNodeSave iid node s
  | .linkTokenRecord iid idx => Sys2Proof.Machine.execLinkTokenRecord iid idx s
  | .snapForcedSave iid => Sys2Proof.Machine.execSnapForcedSave iid s
  | .drainComplete iid => Sys2Proof.Machine.execDrainComplete iid s
  | .stallNoeos iid => Sys2Proof.Machine.execStallNoeos iid s
  | .quantumExpiry iid => Sys2Proof.Machine.execQuantumExpiry iid s
  | .requestAging die idx => Sys2Proof.Machine.execRequestAging die idx s
  | .regionGrant die => Sys2Proof.Machine.execRegionGrant die s
  | .preempt die => Sys2Proof.Machine.execPreempt die s
  | .schedulerRestore iid => Sys2Proof.Machine.execSchedulerRestore iid s
  | .trapResume tid => Sys2Proof.Machine.execTrapResume tid s
  | .trapSkip tid => Sys2Proof.Machine.execTrapSkip tid s
  | .trapHandler tid => Sys2Proof.Machine.execTrapHandler tid s
  | .trapEnd tid => Sys2Proof.Machine.execTrapEnd tid s
  | .threadWake tid => Sys2Proof.Machine.execThreadWake tid s
  | .parkTimeout tid => Sys2Proof.Machine.execParkTimeout tid s
  | .dopenTimeout tid => Sys2Proof.Machine.execDopenTimeout tid s
  | .stallResume tid => Sys2Proof.Machine.execStallResume tid s
  | .barrierArrival idx => Sys2Proof.Machine.execBarrierArrival idx s
  | .doorbell q wr => Sys2Proof.Machine.execDoorbell q wr s
  | .queueConfigWrite q reg v => Sys2Proof.Machine.execQueueConfigWrite q reg v s
  | .queueStatusClear q => Sys2Proof.Machine.execQueueStatusClear q s
  | .errcntClear fnc v => Sys2Proof.Machine.execErrcntClear fnc v s
  | .registerWrite kernel fnc off v => Sys2Proof.Machine.execRegisterWrite kernel fnc off v s
  | .nop q => Sys2Proof.Machine.execNop q s
  | .thread q => Sys2Proof.Machine.execThread q s
  | .delta q => Sys2Proof.Machine.execDelta q s
  | .indirect q => Sys2Proof.Machine.execIndirect q s
  | .waitsig q => Sys2Proof.Machine.execWaitsig q s
  | .write q => Sys2Proof.Machine.execWrite q s
  | .commandComplete id => Sys2Proof.Machine.execCommandComplete id s
  | .hostApertureRead fnc off len => Sys2Proof.Machine.execHostApertureRead fnc off len s
  | .hostApertureWrite fnc off data => Sys2Proof.Machine.execHostApertureWrite fnc off data s
  | .hostReadTimeout tid idx => Sys2Proof.Machine.execHostReadTimeout tid idx s
  | .peerRequest r => Sys2Proof.Machine.execPeerRequest r s
  | .flitReceive port flit => Sys2Proof.Machine.execFlitReceive port flit s
  | .portDown port => Sys2Proof.Machine.execPortDown port s
  | .reduceContribution cmd ranks data => Sys2Proof.Machine.execReduceContribution cmd ranks data s
  | .nvmeDoorbell bridge qp v => Sys2Proof.Machine.execNvmeDoorbell bridge qp v s
  | .nvmeCompletion bridge qp data => Sys2Proof.Machine.execNvmeCompletion bridge qp data s
  | .patrolScrub line errs => Sys2Proof.Machine.execPatrolScrub line errs s
  | .reset => Sys2Proof.Machine.execReset s
  | .powerOnBoot => Sys2Proof.Machine.execPowerOnBoot s
  | .kernelImageLoad image => Sys2Proof.Machine.execKernelImageLoad image s
  | .pldmFirmwareUpdate image => Sys2Proof.Machine.execPldmFirmwareUpdate image s
  | .sensorSample samples => Sys2Proof.Machine.execSensorSample samples s
  | .vcoreRemoved => Sys2Proof.Machine.execVcoreRemoved s
  | .vauxRemoved => Sys2Proof.Machine.execVauxRemoved s
  | .eventLogRead fromKernel => Sys2Proof.Machine.execEventLogRead fromKernel s
  | .attestationReport nonce => Sys2Proof.Machine.execAttestationReport nonce s
  | .measurementExtend reg digest => Sys2Proof.Machine.execMeasurementExtend reg digest s
  | .keySlotWrite slot owner key => Sys2Proof.Machine.execKeySlotWrite slot owner key s
  | .keySlotRead slot owner => Sys2Proof.Machine.execKeySlotRead slot owner s
  | .keySlotClear slot => Sys2Proof.Machine.execKeySlotClear slot s
  | .debugNonceRequest nonce => Sys2Proof.Machine.execDebugNonceRequest nonce s
  | .debugUnlock token => Sys2Proof.Machine.execDebugUnlock token s
  | .debugExpiry => Sys2Proof.Machine.execDebugExpiry s
  | .illegalCommandEntry q => Sys2Proof.Machine.execIllegalCommandEntry q s
  | .flitReplay port => Sys2Proof.Machine.execFlitReplay port s
  | .hostAtomicop fnc off => Sys2Proof.Machine.execHostAtomicop fnc off s
  | .debugPortAccess r => Sys2Proof.Machine.execDebugPortAccess r s

end Sys2Proof.Machine
end

