-- ==== Sys2Proof/Machine/Arbiter.lean ====
section
/-! DEFINITION. Which node an element fires in a cycle (spec 02_machine R39, R40), and what a cycle's end does. -/
namespace Sys2Proof.Machine

/-- An invocation whose token buffers are empty: a full one keeps a cell from firing and no slot from being ready (R39, R40). -/
def eased (s : State) : State :=
  { s with
    fab := { s.fab with invs := s.fab.invs.map fun e => if e.1 = s.site.1 then (e.1, { e.2 with tbuf := [] }) else e },
    shot := s.shot.filter fun u => match u with
      | .freed _ _ => false
      | _ => true }

/-- Is the slot ready (R39): does its word, or its event, act on the fabric or on a dot engine? `s` has the node in `site`. -/
def nodeReady (e : Instr) (s : State) : Bool := match exec e (eased s) with
  | .next t => decide (t.fab ≠ (eased s).fab) || decide (t.eng ≠ s.eng)
  | _ => true

/-- The firings of nodes that are no word's: a queued token of EXPERT leaves, a scorer's result fills its entry (R233, R275). The node, and
the tag of what is sent. -/
def eventSlot (s : State) : Instr → Option (Nat × Nat × Nat)
  | .scoreReply iid n tag => some (iid, n, tag)
  | .expertDrain iid n =>
    match (s.inv iid).bind fun i => (Tab.look i.nodes n).map fun nd => (i, nd) with
    | none => none
    | some (i, nd) => (exNext s iid n nd (i.st n)).map fun d => (iid, n, (((exQ (i.st n) d).head?).map Tok.tag).getD 0)
  | _ => none

/-- Those of a node for a tag. -/
def eventsAt (s : State) (iid n tag : Nat) : List Instr :=
  [Instr.expertDrain iid n, .scoreReply iid n tag].filter fun e => decide (eventSlot s e = some (iid, n, tag))

/-- A slot is ready for a tag: its word, or an event of its node, would fire. -/
def readyAt (s : State) (iid n tag : Nat) : Bool :=
  (match fetchNode iid n tag s with
   | (s1, some e) => nodeReady e s1
   | (_, none) => false) ||
  (eventsAt s iid n tag).any fun e => nodeReady e { s with site := (iid, n, tag) }

/-- What a node fires in: weirs and Basin ports have no order of their own. -/
def Node.issuer (nd : Node) : Option Issuer :=
  let p := nd.place
  if p.elem < 4 then some (if 0xa0 ≤ nd.op ∧ nd.op ≤ 0xab then .dot p.core p.elem else .cell p.core p.elem)
  else if p.elem = 4 then some (.cell p.core 4)
  else if p.elem = 6 then some (.ag (p.core / 384) p.slot)
  else none

/-- The number of a node's slot; an AG cell's nodes stand in the order of their indices. -/
def slotNo (i : Inv) (n : Nat) (nd : Node) : Nat :=
  if nd.place.elem = 6 then (i.nodes.filter fun e => decide (e.2.issuer = nd.issuer) && decide (e.1 < n)).length else nd.place.slot

/-- How old a tag is in its invocation's block (R38): 0 is the oldest. -/
def tagAge (iid t : Nat) : Nat := (t + 65536 - baseTag iid) % 65536

/-- The tags for which a node may have something to do, oldest first: those of its tokens, of tokens that it queued or spilled, and the base
tag. -/
def tagsOf (i : Inv) (iid n : Nat) : List Nat :=
  let x := i.st n
  let ts := ((i.frames.filter fun e => decide (e.1 / 65536 = n)).map fun e => e.1 % 65536) ++ (x.line.map Tok.tag) ++
    (x.queues.filterMap fun e => (e.2.head?).map Tok.tag) ++ (x.spill.map fun e => laneTag (baseTag iid) i.k e.1) ++ [baseTag iid]
  sortBy (fun a b => decide (tagAge iid a < tagAge iid b)) ts.eraseDups

/-- A ready slot: its node, number, URG, and oldest ready tag (R40). -/
structure Slotted where
  node : Nat
  no : Nat
  urg : Bool
  tag : Nat
  deriving DecidableEq, Repr

/-- The ready slots of an issuer; `turn` is a node and a tag to look at beside the tags of tokens. -/
def readySlots (s : State) (iid : Nat) (i : Inv) (u : Issuer) (turn : Nat × Nat) : List Slotted :=
  (i.nodes.filter fun e => decide (e.2.issuer = some u)).filterMap fun e =>
    let ts := tagsOf i iid e.1
    let ts := if e.1 = turn.1 ∧ turn.2 ∉ ts then insertBy (fun a b => decide (tagAge iid a < tagAge iid b)) turn.2 ts else ts
    (ts.find? fun t => readyAt s iid e.1 t).map fun t => ⟨e.1, slotNo i e.1 e.2, decide (e.2.w.urg = 1), t⟩

/-- Is a slot before another: an older ready tag, or one of the same age and a lower number? -/
def slotBefore (iid : Nat) (x y : Slotted) : Bool :=
  decide (tagAge iid x.tag < tagAge iid y.tag) || (decide (tagAge iid x.tag = tagAge iid y.tag) && decide (x.no < y.no))

/-- The first of a slot and others. -/
def oldestFrom (iid : Nat) : Slotted → List Slotted → Slotted
  | x, [] => x
  | x, r :: rs => oldestFrom iid (if slotBefore iid r x then r else x) rs

/-- The slot with the oldest ready tag; of several, the lowest number. -/
def oldestSlot (iid : Nat) : List Slotted → Option Slotted
  | [] => none
  | r :: rs => some (oldestFrom iid r rs)

/-- The choice of R40: the guard slot, else the oldest urgent slot, else the oldest other slot. -/
def chooseSlotOf (s : State) (iid : Nat) (rs : List Slotted) : Option Slotted :=
  match rs.find? fun r => decide (r.no = s.cycle % 64) && !r.urg && decide ((iid, r.node) ∈ s.elder) with
  | some r => some r
  | none =>
    match oldestSlot iid (rs.filter Slotted.urg) with
    | some r => some r
    | none => oldestSlot iid rs

/-- May a ready node fire for a tag now: its element has not fired in this cycle, and chooses it? -/
def mayFire (s : State) (iid n tag : Nat) : Bool :=
  match (s.inv iid).bind fun i => (Tab.look i.nodes n).map fun nd => (i, nd) with
  | none => true
  | some (i, nd) =>
    match nd.issuer with
    | none => true
    | some u => !decide (u ∈ s.shot) && (chooseSlotOf s iid (readySlots s iid i u (n, tag))).any fun r => decide (r.node = n) && decide (r.tag = tag)

/-- The element of a node has fired in this cycle. -/
def takeShot (s : State) (iid n : Nat) : State :=
  match ((s.inv iid).bind fun i => Tab.look i.nodes n).bind Node.issuer with
  | none => s
  | some u => { s with shot := u :: s.shot }

/-- A node's turn: its word, unless it is ready and its element may not fire it now; one that is not ready does nothing by itself. -/
def fireTurn (iid n tag : Nat) (s : State) : State × Option Instr :=
  match fetchNode iid n tag s with
  | (s1, some e) =>
    if !nodeReady e s1 then (s1, some e)
    else if mayFire s iid n tag then (takeShot s1 iid n, some e) else (s, none)
  | r => r

/-- The turn of an event that is a firing of a node: it happens unless it is ready and the node's element may not fire it now. -/
def eventTurn (e : Instr) (s : State) : Option State :=
  match eventSlot s e with
  | none => some s
  | some (iid, n, tag) =>
    if !nodeReady e { s with site := (iid, n, tag) } then some s
    else if mayFire s iid n tag then some (takeShot s iid n) else none

/-- What a node, an engine or another agent does whose miss finds a full queue: it is held, and nothing has happened (R155, R206; log 11). -/
def heldBack (s : State) (o : Out) : Out := match o with
  | .next t => if t.overMissed && !s.overMissed then .next s else .next t
  | o => o

/-- Every slot that is ready as a cycle ends. -/
def readyNow (s : State) : List (Nat × Nat) :=
  s.fab.invs.flatMap fun e => (e.2.nodes.filter fun n => (tagsOf e.2 e.1 n.1).any fun t => readyAt s e.1 n.1 t).map fun n => (e.1, n.1)

/-- The addresses that parked threads watch (R100, R320). -/
def watched (s : State) : List Nat :=
  s.threads.flatMap fun e => match e.2.why with
    | .watch pa _ _ _ _ _ => upto pa 8
    | .barrier pa _ _ _ _ _ => upto pa 24
    | _ => []

/-- A cycle ends, but for a package held in reset: watchers see what frames and queues have put in pools, and every issuer may issue
again. -/
def endCycle (cycles : Nat) (s : State) : State :=
  if cycles = 0 ∨ s.dead = true then s else
  let s1 := markWoken (s.refresh (watched s))
  { s1 with shot := [], elder := readyNow s1 }

end Sys2Proof.Machine
end

