-- ==== Sys2Proof/Machine/Schedule.lean ====
section
/-! DEFINITION. Whose turn it is (log 1): the agenda's head, and the turns of one cycle when the agenda is empty, in the order in which the
spec decides what meets in one cycle (R79, R186, R189, R249, R254, R291). -/
namespace Sys2Proof.Machine

/-- One turn for each index of a list, the last first, so that an entry that leaves moves no entry whose turn is to come. -/
def turnsFor {α : Type} (l : List α) (f : Nat → Instr) : List Turn := ((upto 0 l.length).reverse).map fun k => .happen (f k)

/-- Turns in ascending source number. -/
def bySource (xs : List (Nat × List Turn)) : List Turn := (sortBy (fun a b => decide (a.1 < b.1)) xs).flatMap Prod.snd

/-! ### Engines and tiles start (R214, R249, R296) -/

/-- A node that takes a tile as it fires: a tile node, an MSTORE into a tile. -/
def Node.startsTile (nd : Node) : Bool :=
  (decide (0xa0 ≤ nd.op) && decide (nd.op ≤ 0xab)) || (decide (nd.op = 0x8c) && bit nd.w.lit.toNat 0)

/-- A node's word for each of its tags. -/
def wordTurns (iid : Nat) (i : Inv) (n : Nat) : List Turn := (tagsOf i iid n).map fun t => .fire iid n t

/-- Engines start messages, the schedulers look at their records; then what takes tiles, the lowest source number first. -/
def startTurns (s : State) : List Turn :=
  (s.eng.inbox.map fun e => .happen (.activeMessage e.1)) ++ (s.eng.rings.map fun e => .happen (.tileTaskCheck e.1)) ++
  bySource ((s.eng.rings.flatMap fun e => (enginesOf e.1).map fun g =>
      ((⟨g / 4, g % 4, 0, 0, 0⟩ : Place).src, [Turn.happen (.tileTaskIssue e.1 g)])) ++
    s.fab.invs.flatMap fun e => (e.2.nodes.filter fun n => n.2.startsTile).map fun n => (n.2.place.src, wordTurns e.1 e.2 n.1))

/-! ### Threads (R41, R214) -/

/-- A thread stands at a command whose message or record has found no room (R214). -/
def Why.sends : Why → Bool
  | .inbox _ _ | .ring _ => true
  | _ => false

/-- The threads that may send: a core's next thread issues, one whose command waits for room tries again; in ascending number. -/
def issueTurns (s : State) : List Turn :=
  s.threads.filterMap fun e =>
    if e.2.st = .stalled ∧ e.2.why.sends = true then some (.happen (.stallResume e.1))
    else if nextThread s (shardOf e.1) = some e.1 then some (.thread e.1) else none

/-- What an access does when it is performed: 0 it only writes, 1 it reads and writes, 2 it only reads. -/
def PKind.phase : PKind → Nat
  | .store | .stb | .stm | .convw => 0
  | .atom | .cas | .stred | .binit | .barr | .signal => 1
  | .load | .conv | .convr | .fence | .acqCmd => 2

/-- The outstanding accesses of every thread that are of one phase. -/
def accessTurns (phase : Nat) (s : State) : List Turn :=
  s.threads.flatMap fun e =>
    (((upto 0 e.2.pend.length).zip e.2.pend).reverse.filter fun p => decide (p.2.kind.phase = phase)).map fun p =>
      .happen (if p.2.kind.isL then .loadComplete e.1 p.1 else .storeRetire e.1 p.1)

/-- What a thread waits for: a timeout comes last (R254). -/
def waitTurns (tid : Nat) : List Turn :=
  [Instr.stallResume tid, .threadWake tid, .parkTimeout tid, .dopenTimeout tid].map Turn.happen

/-! ### Engines go on (R185, R197, R299) -/

/-- The first chunk of a command that is not yet written. -/
def chunkTurns (id chunks total : Nat) : List Turn :=
  if total ≤ prefixOf chunks total 0 ∧ total ≠ 0 then [] else [.happen (.chunkWritten id (prefixOf chunks total 0))]

/-- The next chunk of every command and run. -/
def writeTurns (s : State) : List Turn :=
  (s.eng.cmds.flatMap fun c => chunkTurns c.id c.chunks c.total) ++
  s.eng.dots.flatMap fun e => (e.2.out.take 1).map fun o => .happen (.chunkWritten e.2.id o.1)

/-- A dot engine: the operation of its record, its end. -/
def dotTurns (eng : Nat) : List Turn :=
  [Instr.dotEngineFaultStop eng, .tmma eng, .tmms eng, .tdecompDense eng, .tdecompPacked eng, .tresid eng, .tzero eng, .tcvt eng, .tscale eng,
    .tred eng, .ttrans eng, .ttopk eng, .tact eng, .tileTaskRetire eng].map Turn.happen

/-- Data that follow their replies, replies, what the dot engines do. -/
def engineTurns (s : State) : List Turn :=
  (s.eng.late.map fun e => .happen (.chunkWritten e.1 e.2.1)) ++ (s.eng.cmds.map fun c => .happen (.engineReply c.id)) ++
  (s.eng.rings.flatMap fun e => [Instr.ringdefTiles e.1, .ringdefRing e.1, .ringdefTasks e.1].map Turn.happen) ++
  s.eng.dots.flatMap fun e => dotTurns e.1

/-! ### The fabric (R39, R40, R213, R291) -/

/-- A node's other turns: its save in a snapshot, after which it fires no more (R335), its events that are firings, its words but for a starter's,
its change of words in a freshet. That the resident kernel resumes a stopped requester (R159) comes from outside. -/
def nodeTurns (iid : Nat) (i : Inv) (n : Nat) (nd : Node) : List Turn :=
  .happen (.snapNodeSave iid n) :: (if nd.op = 0x99 then [.happen (.expertDrain iid n)] else []) ++
  (if nd.op = 0xb8 then (tagsOf i iid n).map fun t => .happen (.scoreReply iid n t) else []) ++
  (if nd.startsTile then [] else wordTurns iid i n) ++ [.happen (.freshetNodeReconfig iid n)]

/-- Every node by its source number; those that write memory before the rest (R189). -/
def fireTurns (s : State) : List Turn :=
  bySource (s.fab.invs.flatMap fun e => e.2.nodes.map fun n =>
    ((if n.2.op = 0x8c ∨ n.2.op = 0x8d then 0 else 65536) + n.2.place.src, nodeTurns e.1 e.2 n.1 n.2))

/-- An invocation's tokens and credits on their way, and its protocols. -/
def invTurns (iid : Nat) (i : Inv) : List Turn :=
  turnsFor i.tbuf (fun k => .tokenAccept iid k true) ++ turnsFor i.tbuf (fun k => .tokenAccept iid k false) ++
  turnsFor i.links (.tokenArrival iid) ++ turnsFor i.credits (.creditReturn iid) ++ turnsFor i.links (.linkTokenRecord iid) ++
  ([Instr.deltaDrainComplete iid, .snapForcedSave iid, .drainComplete iid, .stallNoeos iid, .quantumExpiry iid, .schedulerRestore iid].map
    Turn.happen)

/-- Deltas are applied, and their tokens injected before a field or a channel of this cycle frees (R208). -/
def netTurns (s : State) : List Turn := s.fab.nets.flatMap fun n => [.happen (.deltaApply n.1), .happen (.deltaInject n.1)]

/-- Firings, banks and regions. -/
def fabricTurns (s : State) : List Turn :=
  (s.fab.firings.map fun f => .happen (.firingStart (f.ts % 4))) ++
  (s.mem.banks.flatMap fun b => [.happen (.bankPass b.1), .happen (.bankTokenArrival b.1)]) ++
  (if s.fab.reqs = [] then [] else (upto 0 4).flatMap fun d =>
    [.happen (.regionGrant d), .happen (.preempt d)] ++ turnsFor (s.fab.reqs.filter fun r => decide (r.die = d)) (.requestAging d))

/-! ### The host (R216) -/

/-- What the Bench strip does with the next entry of a queue, by its type. -/
def queueEvent (s : State) (q : Nat) : Instr := match nextEntry s q with
  | .error _ => .illegalCommandEntry q
  | .ok (_, bs) => if !entryOk bs then .illegalCommandEntry q else match cType bs with
    | 0 => .nop q
    | 1 => .thread q
    | 2 => .delta q
    | 3 => .indirect q
    | 4 => .waitsig q
    | _ => .write q

/-- Would it take the entry now? -/
def queueActs (s : State) (q : Nat) : Bool := queueOn s q && match exec (queueEvent s q) s with
  | .next t => decide (t.out ≠ s.out)
  | _ => true

/-- One command of one queue in a cycle, round-robin over the queues whose next entry it can take. -/
def queueTurn (s : State) : List Turn :=
  match ((upto (s.out.last + 1) 64).map fun q => q % 64).find? (queueActs s) with
  | some q => [.happen (queueEvent s q)]
  | none => []

/-! ### One cycle -/

/-- The turns of one cycle: everything in the machine that may be able to act, each once, then the passing of the cycle. Commits come first,
then what writes memory, then what reads and writes it, then what reads it (R189, R195). A turn of something that cannot act changes nothing. What
comes from outside the package is not here. -/
def cycleTurns (s : State) : List Turn :=
  (if s.tasks = [] then [] else [.happen .taskCommit, .happen .taskIrrevocable]) ++
  accessTurns 0 s ++ turnsFor s.eng.arrivals (fun _ => .barrierArrival 0) ++ writeTurns s ++ engineTurns s ++ netTurns s ++ queueTurn s ++
  (s.out.cmds.map fun c => .happen (.commandComplete c.id)) ++
  startTurns s ++ issueTurns s ++ accessTurns 1 s ++ fireTurns s ++ accessTurns 2 s ++ (s.fab.invs.flatMap fun e => invTurns e.1 e.2) ++
  fabricTurns s ++ (s.mem.misses.flatMap fun e => (e.2.take 32).map fun _ => .happen (.pageWalk e.1)) ++
  (if s.well.debug = none then [] else [.happen .debugExpiry]) ++
  (s.threads.flatMap fun e => waitTurns e.1) ++ [.tick (cycleNs s) 1]

/-- The turn that is taken: the head of the agenda. An empty agenda is first given the turns of one cycle; a package held in reset or
without power has none but the passing of time. -/
def nextTurn (s : State) : Turn × State :=
  match s.agenda with
  | t :: rest => (t, { s with agenda := rest })
  | [] =>
    match if s.dead || !s.powered then [] else cycleTurns s with
    | t :: rest => (t, { s with agenda := rest })
    | [] => (.tick (cycleNs s) 1, s)

end Sys2Proof.Machine
end

