-- ==== Sys2Proof/Machine/Step.lean ====
section
/-! DEFINITION. One step: the next turn of the agenda. -/
namespace Sys2Proof.Machine

/-- One step of the machine: a thread issues one word, a node fires once, one event happens, the resident kernel loads a module or tears a
context down, something comes from outside, or time passes. Around a thread's word it ends the invocations that have finished; an event that is a node's firing happens
only where its element may fire (R40). -/
def step (s : State) : Host.Outcome State Fault Refusal :=
  match nextTurn s with
  | (.thread tid, s1) =>
    match fetchThread tid s1 with
    | (s2, some w) => afterWord (exec (threadInstr w) s2)
    | (s2, none) => .next s2
  | (.fire iid node tag, s1) =>
    match fireTurn iid node tag s1 with
    | (s2, some e) => heldBack s1 (exec e s2)
    | (s2, none) => .next s2
  | (.happen e, s1) =>
    if s1.dead && !isWell e then .next s1 else
    match eventTurn e s1 with
    | some s2 => heldBack s1 (exec e s2)
    | none => .next s1
  | (.load tid modul code data file, s1) => .next (if s1.powered then loadModule tid modul code data file s1 else s1)
  | (.input e, s1) => .next (takeInput e s1)
  | (.teardown ctxid, s1) => .next (if s1.powered then closeCtx s1 ctxid else s1)
  | (.tick ns c, s1) => .next (passTime ns c (endCycle c s1))

/-- The state in which the next step fetches and runs a word (log 4). A thread-form word is stored little-endian at PA 0, which
the loaded context maps, as one 64 KiB page, at VA 0; thread 0 is RUNNABLE there and has the turn. A node-form word is the one
node of an invocation that has the turn. The table's bits above nbits are zero. -/
def State.withFetchWord (s : State) (nbits w : Nat) : State := loadWord s (w % 2 ^ nbits)

end Sys2Proof.Machine
end

