-- ==== Sys2Proof/Safety.lean ====
section
/-! DEFINITION. The terms that claims use: what a safe state is, when a word issues, what a step leaves alone. -/
namespace Sys2Proof.Machine

/-- A safe state: memory stands in its canonical form. -/
def State.Inv (s : State) : Prop := s.mem.wf = true

/-- A word issues (R55, R72, R316): its predicate reads true, no source is under-waited in strict mode, no destination is still to be
written by a load. -/
def Issues (pg : BitVec 4) (srcs dsts : List Spec) (s : State) : Prop :=
  predTrue pg s.me = true ∧ underWait s.me srcs = none ∧ heldDest s.me dsts = none

/-- Nothing outside the threads, the fabric and the event log differs, and neither does any thread but the one that issued. -/
def OnlyThread (s t : State) : Prop :=
  t.mem = s.mem ∧ t.tab = s.tab ∧ t.eng = s.eng ∧ t.out = s.out ∧ t.tasks = s.tasks ∧ t.bts = s.bts ∧ t.cid = s.cid ∧ t.gtsc = s.gtsc ∧
  t.cycle = s.cycle ∧ t.agenda = s.agenda ∧ t.cur = s.cur ∧ (∀ tid, tid ≠ s.cur → t.th tid = s.th tid) ∧
  { t.well with log := s.well.log, logged := s.well.logged } = s.well

/-- No register of a thread differs but the g and p registers listed and fflags; the registers a trap saves into differ only when the
thread is TRAPPED after. -/
def KeepsRegs (gs ps : List Nat) (a b : Thread) : Prop :=
  (∀ n, n ∉ gs → b.rg n = a.rg n) ∧ (∀ n, n ∉ ps → b.rp n = a.rp n) ∧ (∀ n, b.rh n = a.rh n) ∧
  (b.st ≠ .trapped → b.sys = { a.sys with fflags := b.sys.fflags }) ∧
  b.sys = { a.sys with fflags := b.sys.fflags, xpc := b.sys.xpc, xcause := b.sys.xcause, xval := b.sys.xval } ∧
  b.hnd = a.hnd ∧ b.c = a.c ∧ b.k = a.k ∧ b.pend = a.pend

/-- Does a core hold frames or queues of an invocation? A store into its pool may change how the rest of an entry that it meets reads. -/
def State.holdsEntries (s : State) (core : Nat) : Bool :=
  s.fab.invs.any fun e => decide (e.2.phase ≠ .out) && decide (e.2.nodesOn core ≠ [])

/-- Every byte of memory reads as before but those at the addresses listed. Of pool bytes this is said only where no token enters or leaves
a queue meanwhile, and of a core that holds frames or queues only where no address listed lies in a pool. -/
def KeepsBytes (quiet : Bool) (pas : List Nat) (s t : State) : Prop :=
  ∀ pa, (∀ q ∈ pas, s.mem.key pa ≠ s.mem.key q) →
    (s.mem.kind pa = .pool → quiet = true ∧ ((∀ q ∈ pas, s.mem.kind q ≠ .pool) ∨ s.holdsEntries (poolAt pa).1 = false)) →
    t.byteAt pa = s.byteAt pa

/-- No access of a list goes into a q register. -/
def noQueue (p : List Pend) : Bool := p.all fun e => !isQ (BitVec.ofNat 7 e.d)

/-- A thread runs at most one task. -/
def OneTask (s : State) (tid : Nat) : Prop := ∀ k ∈ s.tasks, k.tid = some tid → some k.id = (s.taskOf tid).map Task.id

end Sys2Proof.Machine
end

