-- ==== Sys2Proof/Certificates/Slice0/Obligations.lean ====
section
/-! DEFINITION. The statements for the provers. Each instruction has a statement whose conclusion is the next state of its own effect. -/
open Sys2Proof Sys2Proof.Machine

namespace Sys2Proof.Machine

/-- Value and flags of each integer instruction of two operands, as R87, R88, R94 and R95 give them: types by FN, modifiers by MD. -/
def integerResults (fn md : Nat) (a b : W) : List ((T3 → Instr) × (W × Nat)) :=
  let w := iw fn
  let sat := mdSAT md
  let va := valOf fn a.toNat
  let vb := valOf fn b.toNat
  let p := a.toNat % 2 ^ w
  let q := b.toNat % 2 ^ w
  let n := b.toNat % 128
  let pattern := fun (k : Nat) => (wInt (valOf fn k), 0)
  [(.add, finInt fn sat (opA fn md a + opB fn md b)),
   (.sub, finInt fn sat (opA fn md a - opB fn md b)),
   (.mul, finInt fn sat (opA fn md a * opB fn md b)),
   (.mulh, finInt fn false (va * vb / (2 ^ w : Nat))),
   (.div, if vb = 0 then (wInt (valOf fn (2 ^ w - 1)), fNV) else finInt fn sat (va.tdiv vb)),
   (.rem, if vb = 0 then (wInt va, fNV) else finInt fn sat (va.tmod vb)),
   (.min, finInt fn false (if va ≤ vb then va else vb)),
   (.max, finInt fn false (if va ≤ vb then vb else va)),
   (.abs, finInt fn sat (va.natAbs : Int)),
   (.neg, finInt fn sat (-va)),
   (.and, pattern (p &&& q)),
   (.or, pattern (p ||| q)),
   (.xor, pattern (p ^^^ q)),
   (.andn, pattern (p &&& (2 ^ w - 1 - q))),
   (.shl, pattern ((p <<< n) % 2 ^ w)),
   (.shr, pattern (p >>> n)),
   (.sar, pattern (lowBits fn (sext p w >>> n))),
   (.rol, pattern ((p <<< (n % w)) % 2 ^ w ||| p >>> (w - n % w))),
   (.popc, pattern (popc w p)),
   (.clz, pattern (w - bitLen p)),
   (.ctz, pattern (ctz w p)),
   (.satn, finInt fn true (sext a.toNat 64)),
   (.hash, (hash64 a b, 0))]

/-- Value and flags of each floating instruction of at most two operands: the exact operation, then Round, SAT and Enc (R125 to R135). -/
def floatResults (fn md cimm : Nat) (a b : W) : List ((T3 → Instr) × (W × Nat)) :=
  let x := fA fn md a
  let y := fB fn md b
  let sg := sigFlag [x, y]
  let unary := fun (g : FV → XV × Nat) => finFloat fn md (g x).1 ((g x).2 ||| sigFlag [x])
  let sum := xadd (mdRM md) x y
  let difference := xadd (mdRM md) x (y.negIf true)
  let product := xmul x y
  let X := b.toNat % 256
  let scaled := fun (k : Int) => if X = 255 then finFloat fn md .nan fNV else finFloat fn md (x.scale k).exact (sigFlag [x])
  let source := ((scalarVal cimm a.toNat).absIf (mdABSA md)).negIf (mdNEGA md)
  [(.fadd, finFloat fn md sum.1 (sum.2 ||| sg)),
   (.fsub, finFloat fn md difference.1 (difference.2 ||| sg)),
   (.fmul, finFloat fn md product.1.exact (product.2 ||| sg)),
   (.fmin, (enc (fmtOf fn) (if x.isNan then y else if y.isNan then x else if fvLt true y x then y else x), sg)),
   (.fmax, (enc (fmtOf fn) (if x.isNan then y else if y.isNan then x else if fvLt true x y then y else x), sg)),
   (.frcp, unary rcpOf), (.frsq, unary rsqOf), (.fexp2, unary exp2Of), (.flog2, unary log2Of), (.ftanh, unary tanhOf), (.fsigm, unary sigmOf),
   (.fclass, fltClass fn md a 0 0),
   (.fscale, finFloat fn md (x.scale (sext b.toNat 64)).exact (sigFlag [x])),
   (.fcvt, finFloat fn md source.exact (sigFlag [source])),
   (.icvt, if cimm < 8 then finFloat fn md (scalarVal cimm a.toNat).exact 0 else toInt fn (mdRM md) (scalarVal cimm a.toNat)),
   (.scale, scaled ((X : Int) - 127)),
   (.unscale, scaled (127 - (X : Int)))]

/-- A command that has been sent (R182, R214): C is raised and the message stands last in the inbox, the pc past the word; a full inbox
holds the thread STALLED with C raised. -/
def sentTo (eng : Nat) (m : Msg) (s : State) : State :=
  let raised := ({ s with nextId := s.nextId + 1 } : State).onMe fun t => { t with c := t.c + 1 }
  if inboxRoom s eng then advance (raised.putInbox eng (raised.inbox eng ++ [m]))
  else raised.onMe fun t => { t with st := .stalled, why := .inbox eng m }

/-- The invocation of a firing with some fields of its node consumed; the same with a change of node state. -/
def taken (c : Ctx) (fs : List Nat) : Inv := c.i.clearFields c.n c.tag fs
def takenSt (c : Ctx) (fs : List Nat) (f : NodeSt → NodeSt) : Inv := (taken c fs).onSt c.n f

/-- The state after a firing (R39, R80, R318, R323): the invocation `i` holds the firing's effect, the tokens `outs` stand in the token
buffer of the element with the slots of their targets taken, and the element's performance counter has risen. -/
def sentFrom (c : Ctx) (s : State) (i : Inv) (outs : List Emit) : State :=
  let s1 := s.putInv c.iid { outs.foldl (sendOne c.n c.nd) i with active := s.cycle, raised := false, fired := s.gtsc }
  if c.nd.place.elem < 4 then bump s1 c.nd.place.core 0 1 else if c.nd.place.elem = 4 then bump s1 c.nd.place.core 1 1 else s1

/-- A node's word completes: with no token that it takes poisoned and space at its targets, the next state is that of its own effect. -/
def Fires (e : Instr) (s : State) (c : Ctx) (s1 : State) (i : Inv) (outs : List Emit) : Prop :=
  tokPoisoned s c.iid c.i c.n c.tag c.nd = false → canSend s1 i c.n c.nd c.tag outs = true →
  exec e s = .next (endIfDone (sentFrom c s1 i outs) c.iid)

/-- Each tile instruction with its TOP, its FN where that chooses it, and what its record computes. -/
def tileInstrs : List ((Nat → Instr) × Nat × Option Nat × (Tab Desc → Msg → State → Option (State × Comp))) :=
  [(.tmma, 0xa0, none, compMma),
   (.tmms, 0xa1, none, fun ds m => compImage true m.tres ds m),
   (.tdecompDense, 0xa2, some 0, compDense),
   (.tdecompPacked, 0xa2, some 1, compPacked),
   (.tresid, 0xa3, none, compImage false true),
   (.tzero, 0xa4, none, compZero),
   (.tcvt, 0xa5, none, compMap id),
   (.tscale, 0xa6, none, fun ds m => compMap (fun x => x.scale ((m.arg % 256 : Nat) - 127 : Int)) ds m),
   (.tred, 0xa7, none, compRed),
   (.ttrans, 0xa8, none, compTrans),
   (.ttopk, 0xa9, none, compTopk),
   (.tact, 0xab, none, fun ds m => compMap (actOf m.tfn) ds m)]

/-- Integer words of format T3. -/
def integerWords : List (T3 → Instr) :=
  [.add, .sub, .mul, .mulh, .div, .rem, .min, .max, .abs, .neg, .and, .or, .xor, .andn, .shl, .shr, .sar, .rol, .popc, .clz, .ctz, .sel,
   .madd, .satn, .hash]

/-- Words of format T3 that write one value to D. -/
def valueWords : List (T3 → Instr) :=
  integerWords ++ [.mov, .csrr, .tsc, .fadd, .fsub, .fmul, .fma, .fmin, .fmax, .frcp, .frsq, .fexp2, .flog2, .ftanh, .fsigm, .fclass,
    .fscale, .fcvt, .icvt, .scale, .unscale]

/-- What the issue of an access at a VA leaves alone: every register, every other thread and every byte but what the walk of its own
translation marks and aborts; of pool bytes only where the word takes no token (`quiet`). -/
def IssueFrame (acc : Acc) (va : Nat) (quiet : Bool) (s t : State) : Prop :=
  (OneTask s s.cur → KeepsRegs [] [] { s.me with pend := (t.th s.cur).pend } (t.th s.cur)) ∧ t.tab = s.tab ∧ t.out = s.out ∧ t.eng = s.eng ∧
  ∃ s1, (s1 = s ∨ ∃ x, translate s (s.whoOf s.cur) acc va = .ok (s1, x)) ∧ (∀ tid, tid ≠ s.cur → t.th tid = s1.th tid) ∧
    ∀ q, (s.mem.kind q = .pool → quiet = true) → t.byteAt q = s1.byteAt q

/-- The flow, tag and state nodes with a word of their own, whatever its fields. -/
def isDataflow : Instr → Bool
  | .steer _ | .merge _ | .gate _ | .fcomp _ | .repeat _ | .delay _ | .accum _ | .gen _ | .genTrig _ | .sink _ | .src _ | .tagset _
  | .tagget _ | .route _ | .bound _ | .merge2 _ | .lut6 _ | .fsm _ | .topk _ => true
  | _ => false

end Sys2Proof.Machine

/-- Integer words of two operands write the exact result that R87 and R88 give (R85, R87, R88, R94, R95). -/
def Obligations.IntegerWordsCompute : Prop :=
  ∀ (x : T3) (s s1 : State) (a b : W),
    Issues x.pg [x.a, x.b] [x.d] s → needQ [x.d, x.a, x.b] s = .ok () → srcV s x.a = .ok a → srcV s x.b = .ok b →
    ∀ e ∈ integerResults x.fn.toNat x.md.toNat a b,
      putV x.d e.2.1 (deqAll [x.a, x.b] s) = .ok s1 →
      exec (e.1 x) s = .next (advance (s1.onMe fun t => t.orFlags e.2.2))

/-- MADD and SEL complete with their third operand (R87, R92). -/
def Obligations.MaddSelComplete : Prop :=
  (∀ (x : T3) (s s1 : State) (a b c : W),
      Issues x.pg [x.a, x.b, x.c] [x.d] s → needQ [x.d, x.a, x.b, x.c] s = .ok () → srcV s x.a = .ok a → srcV s x.b = .ok b → srcV s x.c = .ok c →
      let r := finInt x.fn.toNat (mdSAT x.md.toNat) (opA x.fn.toNat x.md.toNat a * opB x.fn.toNat x.md.toNat b + valOf x.fn.toNat c.toNat)
      putV x.d r.1 (deqAll [x.a, x.b, x.c] s) = .ok s1 → exec (.madd x) s = .next (advance (s1.onMe fun t => t.orFlags r.2))) ∧
    ∀ (x : T3) (s s1 : State) (a b : W),
      Issues x.pg [x.a, x.b] [x.d] s → needQ [x.d, x.a, x.b] s = .ok () → srcV s x.a = .ok a → srcV s x.b = .ok b →
      putV x.d (wInt (valOf x.fn.toNat (if s.me.rp (x.c.toNat - 64) then a else b).toNat)) (deqAll [x.a, x.b] s) = .ok s1 →
      exec (.sel x) s = .next (advance (s1.onMe fun t => t.orFlags 0))

/-- BFX, BFI and ADDI complete with the value their immediate gives (R90, R93). -/
def Obligations.ImmediateWordsCompute : Prop :=
  (∀ (x : TI) (s s1 : State) (a : W),
      Issues x.pg [x.a] [x.d] s → needQ [x.d, x.a] s = .ok () → srcV s x.a = .ok a →
      (let pos := bits x.imm.toNat 5 0;
       let len := bits x.imm.toNat 14 8
       pos + len ≤ iw x.fn.toNat → 1 ≤ len →
       putV x.d (if isSigned x.fn.toNat then wInt (sext (a.toNat >>> pos % 2 ^ len) len) else w64 (a.toNat >>> pos % 2 ^ len))
         (deqAll [x.a] s) = .ok s1 →
       exec (.bfx x) s = .next (advance (s1.onMe fun t => t.orFlags 0))) ∧
      (putV x.d (finInt x.fn.toNat false (valOf x.fn.toNat a.toNat + sext x.imm.toNat 32)).1 (deqAll [x.a] s) = .ok s1 →
        exec (.addi x) s = .next (advance (s1.onMe fun t => t.orFlags 0)))) ∧
    ∀ (x : TI) (s s1 : State) (a : W),
      Issues x.pg [x.a, x.d] [x.d] s → needQ [x.a] s = .ok () → srcV s x.a = .ok a →
      let w := iw x.fn.toNat
      let pos := bits x.imm.toNat 5 0
      let len := bits x.imm.toNat 14 8
      let mask := (2 ^ len - 1) <<< pos
      let base := (s.me.rg x.d.toNat).toNat % 2 ^ w
      pos + len ≤ w → 1 ≤ len →
      putV x.d (wInt (valOf x.fn.toNat ((base &&& (2 ^ w - 1 - mask)) ||| (a.toNat <<< pos &&& mask)))) (deqAll [x.a] s) = .ok s1 →
      exec (.bfi x) s = .next (advance s1)

/-- CMP, FCMP and PLOG write their predicate (R84, R91, R127). -/
def Obligations.CompareWordsWritePredicate : Prop :=
  (∀ (x : T3) (s : State) (a b : W),
      Issues x.pg [x.a, x.b] [] s → needQ [x.a, x.b] s = .ok () → srcV s x.a = .ok a → srcV s x.b = .ok b →
      let va := valOf x.fn.toNat a.toNat
      let vb := valOf x.fn.toNat b.toNat
      exec (.cmp x) s = .next (advance ((deqAll [x.a, x.b] s).onMe fun t =>
        (t.wp (x.d.toNat - 64) (ordCond x.c.toNat (decide (va < vb)) (decide (va = vb)))).orFlags 0)) ∧
      exec (.fcmp x) s = .next (advance ((deqAll [x.a, x.b] s).onMe fun t =>
        (t.wp (x.d.toNat - 64) (fltCmp x.fn.toNat x.md.toNat x.c.toNat a b).1).orFlags (fltCmp x.fn.toNat x.md.toNat x.c.toNat a b).2))) ∧
    ∀ (x : T3) (s : State), Issues x.pg [] [] s →
      let a := s.me.rp (x.a.toNat - 64)
      let b := s.me.rp (x.b.toNat - 64)
      exec (.plog x) s = .next (advance (s.onMe fun t => t.wp (x.d.toNat - 64)
        (match x.fn.toNat with | 0 => a && b | 1 => a || b | 2 => a != b | 3 => a && !b | _ => !a)))

/-- Floating and conversion words write the rounded result with its flags (R125, R126, R127, R128, R130, R131, R135). -/
def Obligations.FloatWordsCompute : Prop :=
  (∀ (x : T3) (s s1 : State) (a b : W),
      Issues x.pg [x.a, x.b] [x.d] s → needQ [x.d, x.a, x.b] s = .ok () → srcV s x.a = .ok a → srcV s x.b = .ok b →
      ∀ e ∈ floatResults x.fn.toNat x.md.toNat x.c.toNat a b,
        putV x.d e.2.1 (deqAll [x.a, x.b] s) = .ok s1 →
        exec (e.1 x) s = .next (advance (s1.onMe fun t => t.orFlags e.2.2))) ∧
    ∀ (x : T3) (s s1 : State) (a b c : W),
      Issues x.pg [x.a, x.b, x.c] [x.d] s → needQ [x.d, x.a, x.b, x.c] s = .ok () → srcV s x.a = .ok a → srcV s x.b = .ok b → srcV s x.c = .ok c →
      let fn := x.fn.toNat
      let md := x.md.toNat
      let p := xmul (fA fn md a) (fB fn md b)
      let r := xadd (mdRM md) p.1 (fC fn c)
      let y := roundSat (fmtOf fn) (mdRM md) (mdSAT md) r.1
      putV x.d (w64 y.1) (deqAll [x.a, x.b, x.c] s) = .ok s1 →
      exec (.fma x) s = .next (advance (s1.onMe fun t => t.orFlags (y.2 ||| (p.2 ||| r.2 ||| sigFlag [fA fn md a, fB fn md b, fC fn c]))))

/-- MOV, MOVI, MOVHI, LEA, CSRR, TSC, QPEEK and QSTAT write what R84 gives (R53, R73, R75, R84). -/
def Obligations.RegisterWordsMove : Prop :=
  (∀ (x : T3) (s s1 : State) (a : W),
      Issues x.pg [x.a] [x.d] s → needQ [x.d, x.a] s = .ok () →
      (if isH x.a then a = w64 ((s.me.rh (x.a.toNat - 88)).toNat % 4096) else srcV s x.a = .ok a) →
      putV x.d a (deqAll [x.a] s) = .ok s1 → exec (.mov x) s = .next (advance s1)) ∧
    (∀ (x : TI) (s s1 : State), Issues x.pg [] [x.d] s → needQ [x.d] s = .ok () →
      putV x.d (wInt (sext x.imm.toNat 32)) s = .ok s1 → exec (.movi x) s = .next (advance s1)) ∧
    (∀ (x : TI) (s s1 : State), Issues x.pg [x.d] [x.d] s →
      putV x.d (w64 (x.imm.toNat * 2 ^ 32 + (s.me.rg x.d.toNat).toNat % 2 ^ 32)) s = .ok s1 → exec (.movhi x) s = .next (advance s1)) ∧
    (∀ (x : TM) (s s1 : State), Issues x.pg [x.a] [x.d] s → needQ [x.d] s = .ok () →
      putV x.d (w64 (s.me.rg x.a.toNat + wInt (sext x.off.toNat 25)).toNat) s = .ok s1 → exec (.lea x) s = .next (advance s1)) ∧
    (∀ (x : T3) (s s1 : State), Issues x.pg [x.a, x.b] [x.d] s → needQ [x.d] s = .ok () →
      putV x.d (w64 (s.me.rg x.a.toNat + (s.me.rg x.b.toNat <<< x.c.toNat) + wInt (sext x.md.toNat 18)).toNat) s = .ok s1 →
      exec (.leaIndexed x) s = .next (advance s1)) ∧
    ∀ (x : T3) (s s1 : State), Issues x.pg [] [x.d] s →
      (needQ [x.d] s = .ok () → needFlags x.a.toNat s = .ok () → putV x.d (sysRead s s.cur x.a.toNat) s = .ok s1 → exec (.csrr x) s = .next (advance s1)) ∧
      (needQ [x.d] s = .ok () → s.me.l = 0 → s.me.s = 0 → putV x.d (w64 s.gtsc) s = .ok s1 → exec (.tsc x) s = .next (advance s1)) ∧
      (∀ h : Tok, needQ [x.a] s = .ok () → qHead s x.a = .ok h → putV x.d h.v s = .ok s1 → exec (.qpeek x) s = .next (advance s1)) ∧
      (putV x.d (qStatus s s.cur (qNo x.a)) s = .ok s1 → exec (.qstat x) s = .next (advance s1))

/-- CSRW writes the named system value alone, under its mask, and traps PRIV where R75 asks for privilege (R75, R76, R77, R78, R79, R84). -/
def Obligations.CsrwWritesOneSystemValue : Prop :=
  (∀ (x : T3) (s : State) (a : W), Issues x.pg [x.a] [] s → needQ [x.a] s = .ok () → srcV s x.a = .ok a → needFlags x.d.toNat s = .ok () →
      (sysPriv x.d.toNat = false ∨ s.me.prv = true) →
      exec (.csrw x) s = .next (advance ((deqAll [x.a] s).onMe fun t => { t with
        sys := sysWrite t.sys x.d.toNat (if x.d.toNat = 119 then a &&& ~~~(postedNow s s.cur) else a) }))) ∧
    (∀ (x : T3) (s : State), Issues x.pg [x.a] [] s → needQ [x.a] s = .ok () → sysPriv x.d.toNat = true → s.me.prv = false →
      exec (.csrw x) s = .next (takeTrap s.cur cPRIV s.me.pc (w64 x.d.toNat) s)) ∧
    ∀ (y : Sys) (v : W),
      sysWrite y 109 v = { y with fflags := v &&& 0x3f } ∧ sysWrite y 110 v = { y with xpc := v } ∧
      sysWrite y 111 v = { y with xcause := v &&& 0xff } ∧ sysWrite y 112 v = { y with xval := v } ∧
      sysWrite y 113 v = (if pwOk v then { y with pw := v } else y) ∧
      sysWrite y 114 v = (if fld v 62 16 = 0 then { y with ctx := v } else y) ∧
      sysWrite y 115 v = { y with owner := v &&& 0xffff } ∧ sysWrite y 116 v = { y with prio := v &&& 3 } ∧
      sysWrite y 117 v = { y with quant := v &&& 0xffffffff } ∧ sysWrite y 118 v = { y with intmask := v } ∧
      sysWrite y 119 v = { y with intpend := y.intpend &&& ~~~v }

/-- BR, CALL, BRI and RET set the pc; CALL writes its link; a misaligned target traps at the branch (R98). -/
def Obligations.BranchesSetThePc : Prop :=
  ∀ (x : TB) (s : State),
      (Issues x.pg [] [] s → exec (.br x) s = .next (s.onMe fun t => { t with pc := s.me.pc + wInt (sext x.disp.toNat 39 * 8) })) ∧
      (Issues x.pg [] [x.a] s → exec (.call x) s = .next ((s.onMe fun t => { t with pc := s.me.pc + wInt (sext x.disp.toNat 39 * 8) }).onMe
        fun t => t.wg x.a.toNat (s.me.pc + 8))) ∧
      (Issues x.pg [x.a] [] s →
        let target := s.me.rg x.a.toNat + wInt (sext x.disp.toNat 39 * 8)
        ∀ mk ∈ [Instr.bri, Instr.ret],
          (target.toNat % 8 = 0 → exec (mk x) s = .next (s.onMe fun t => { t with pc := target })) ∧
          (target.toNat % 8 ≠ 0 → exec (mk x) s = .next (takeTrap s.cur cALIGN s.me.pc target s)))

/-- HALT, YIELD, SPAWN and TDIRECT complete (R99, R101, R102, R181). -/
def Obligations.ThreadsStartYieldHalt : Prop :=
  (∀ (x : T3) (s : State), Issues x.pg [] [] s →
      (s.taskOf s.cur = none → s.me.l = 0 → s.me.s = 0 → exec (.halt x) s = .next (s.onMe fun t => { t with st := .halted, why := .none })) ∧
      exec (.yield x) s = .next (advance { s with rr := Tab.put s.rr (shardOf s.cur) s.cur }) ∧
      (s.specul s.cur = none → exec (.tdirect x) s = .next (advance s))) ∧
    ∀ (x : TB) (s : State), Issues x.pg [x.a] [x.a] s → s.specul s.cur = none →
      (haltedThread s (shardOf s.cur) = none → exec (.spawn x) s = .next (advance (s.onMe fun t => t.wg x.a.toNat allOnes))) ∧
      ∀ n, haltedThread s (shardOf s.cur) = some n →
        exec (.spawn x) s = .next (advance ((startThread s n s.me (s.me.pc + wInt (sext x.disp.toNat 39 * 8)) (s.me.rg 1) (s.me.rg x.a.toNat) 0).onMe
          fun t => t.wg x.a.toNat (w64 n)))

/-- WAITA, BWAIT and IDLE park the thread, or complete at once (R100, R320, R341). -/
def Obligations.ParkingWordsPark : Prop :=
  (∀ (x : TM) (s s0 : State) (t : Xl), Issues x.pg [x.a, x.d, x.d + 1] [x.d] s → addrTM x s % 8 = 0 → s.specul s.cur = none →
      xlate .read (addrTM x s) 8 s = .ok (s0, t) →
      let s1 := s0.reads t 8
      settled s.me (decide (x.rel = 1)) (upto t.pa 8) = true → s1.mem.bad t.pa = false →
      let v := w64 (s1.mem.word t.pa 8)
      let e := s.me.rg x.d.toNat
      let tmo := s.me.rg (x.d.toNat + 1)
      (v = e ∧ tmo ≠ 0 ∧ s.me.intReady = false →
        exec (.waita x) s = .next (s1.onMe fun th => { th with st := .parked, why := .watch t.pa e tmo (w64 s.gtsc) x.d.toNat false, stale := [] })) ∧
      (¬ (v = e ∧ tmo ≠ 0 ∧ s.me.intReady = false) → exec (.waita x) s = .next (advance (s1.onMe fun th => (th.wg x.d.toNat v).sync (decide (x.acq = 1)))))) ∧
    (∀ (x : TM) (s s0 : State) (t : Xl), Issues x.pg [x.a, x.d, x.d + 1] [x.d, x.d + 1] s → s.specul s.cur = none →
      xlate .read (addrTM x s) 32 s = .ok (s0, t) →
      let s1 := s0.reads t 32
      let m := (s1.refresh (upto t.pa 32)).mem
      settled s.me false (upto t.pa 32) = true → s1.mem.bad t.pa = false →
      let want := (s.me.rg x.d.toNat).toNat % 2 ^ 32
      let tmo := s.me.rg (x.d.toNat + 1)
      let early := tmo ≠ 0 ∧ s1.mem.word (t.pa + 16) 4 = want ∧ s1.mem.word t.pa 8 < s1.mem.word (t.pa + 8) 8
      (early → exec (.bwait x) s = .next (s1.onMe fun th => { th with st := .parked, why := .barrier t.pa want tmo (w64 s.gtsc) x.d.toNat false, stale := [] })) ∧
      (¬ early → exec (.bwait x) s = .next (advance ((s1.onTh s.cur fun th =>
        (th.wg x.d.toNat (w64 (m.word (t.pa + 16) 4))).wg (x.d.toNat + 1) (w64 (m.word t.pa 8))).onMe fun th => th.sync (decide (x.acq = 1)))))) ∧
    ∀ (x : T3) (s : State), Issues x.pg [] [] s →
      (s.me.intReady = true → exec (.idle x) s = .next (advance s)) ∧
      (s.me.intReady = false → exec (.idle x) s = .next (s.onMe fun t => { t with st := .parked, why := .idle, stale := [] }))

/-- LD and ST, plain and indexed, put one access in the thread's list and count on L or S (R72, R165, R174, R314). -/
def Obligations.LoadsAndStoresIssue : Prop :=
  (∀ (s s1 s2 : State) (t : Xl) (fn d va scope : Nat) (acq : Bool) (dsp : Spec),
      needQ [dsp] s = .ok () → xlate .read va (2 ^ (fn % 4)) s = .ok (s1, t) → needCached t.cached s = .ok () → s.me.l < 63 →
      (if isQ dsp then (qSpace s1 dsp).map (fun _ => qReserve s1 dsp) else .ok s1) = .ok s2 →
      let after := advance (pushPend { (Pend.mk0 .load fn d va (2 ^ (fn % 4)) [t.pa]).mapped t with scope := scope, acq := acq } s2)
      (∀ x : TM, Issues x.pg [x.a] [] s → fn = x.fn.toNat % 8 → d = x.d.toNat → dsp = x.d → va = addrTM x s → scope = x.scope.toNat →
        acq = decide (x.acq = 1) → exec (.ld x) s = .next after) ∧
      ∀ x : T3, Issues x.pg [x.a, x.b] [] s → fn = x.fn.toNat % 8 → d = x.d.toNat → dsp = x.d → va = addrT3 x s → scope = 0 → acq = false →
        exec (.ldIndexed x) s = .next after) ∧
    ∀ (s s1 s2 : State) (t : Xl) (fn va scope : Nat) (rel : Bool) (dsp : Spec) (v : W),
      needQ [dsp] s = .ok () → srcV s dsp = .ok v → xlate .write va (2 ^ (fn % 4)) s = .ok (s1, t) → needCached t.cached s = .ok () → s.me.s < 63 →
      takeLines [s1.mem.key t.pa / 64] s1 = .ok s2 →
      let after := advance (pushPend { (Pend.mk0 .store fn 0 va (2 ^ (fn % 4)) [t.pa]).mapped t with scope := scope, rel := rel, data := v } (deqAll [dsp] s2))
      (∀ x : TM, Issues x.pg [x.a, x.d] [] s → fn = x.fn.toNat % 8 → dsp = x.d → va = addrTM x s → scope = x.scope.toNat →
        rel = decide (x.rel = 1) → exec (.st x) s = .next after) ∧
      ∀ x : T3, Issues x.pg [x.a, x.b, x.d] [] s → fn = x.fn.toNat % 8 → dsp = x.d → va = addrT3 x s → scope = 0 → rel = false →
        exec (.stIndexed x) s = .next after

/-- ATOM, CAS, SIGNAL, BARR and BINIT put one read-modify-write or barrier access in the thread's list (R169, R319, R320, R341). -/
def Obligations.AtomicWordsIssue : Prop :=
  (∀ (s s1 : State) (t : Xl) (k : PKind) (fn d va n scope : Nat) (acq rel : Bool) (data data2 : W),
      s.specul s.cur = none → va % n = 0 → xlate .write va n s = .ok (s1, t) → (upto t.pa n).any s1.mem.bad = false → s.me.l < 63 → s.me.s < 63 →
      needHost (decide (k ≠ .atom) || decide (fn / 4 = 0) || decide (fn / 4 = 6)) t.pa va s = .ok () →
      let after := advance (pushPend { (Pend.mk0 k fn d va n [t.pa]).mapped t with scope := scope, acq := acq, rel := rel, data := data, data2 := data2 } s1)
      ∀ x : TM, d = x.d.toNat → va = addrTM x s → scope = x.scope.toNat → rel = decide (x.rel = 1) → data = s.me.rg x.d.toNat →
        (k = .atom → Issues x.pg [x.a, x.d] [] s → fn = x.fn.toNat → n = atomN fn → acq = decide (x.acq = 1) → data2 = 0 →
          exec (.atom x) s = .next after) ∧
        (k = .cas → Issues x.pg [x.a, x.d, x.d + 1] [] s → fn = x.fn.toNat → n = 2 ^ (fn % 4) → acq = decide (x.acq = 1) →
          data2 = s.me.rg (x.d.toNat + 1) → exec (.cas x) s = .next after) ∧
        (k = .signal → Issues x.pg [x.a, x.d, x.d + 1] [] s → fn = 2 → n = 8 → acq = false → data2 = s.me.rg (x.d.toNat + 1) →
          (bit data2.toNat 63 = true → needPost (fld data2 15 0) s = .ok ()) → exec (.signal x) s = .next after)) ∧
    ∀ (s s1 : State) (t : Xl) (x : TM), s.specul s.cur = none → xlate .write (addrTM x s) 32 s = .ok (s1, t) → s.me.s < 63 →
      (upto t.pa 32).any s1.mem.bad = false →
      (Issues x.pg [x.a, x.d, x.d + 1] [] s → needHost false t.pa (addrTM x s) s = .ok () →
        exec (.binit x) s = .next (advance (pushPend { (Pend.mk0 .binit 0 0 (addrTM x s) 32 [t.pa]).mapped t with
          scope := x.scope.toNat, acq := decide (x.acq = 1), rel := decide (x.rel = 1), data := s.me.rg x.d.toNat,
          data2 := s.me.rg (x.d.toNat + 1) } s1))) ∧
      (Issues x.pg [x.a] [] s → s.me.l < 63 →
        exec (.barr x) s = .next (advance (pushPend { (Pend.mk0 .barr 0 x.d.toNat (addrTM x s) 32 [t.pa]).mapped t with
          scope := x.scope.toNat, acq := decide (x.acq = 1), rel := decide (x.rel = 1) } s1)))

/-- STB, STM, STRED, FENCE and PREF complete (R166, R167, R171, R172, R173). -/
def Obligations.WideStoresFencesPrefetchIssue : Prop :=
  (∀ (x : TX) (s s1 s2 : State) (v : W) (p q : Xl), Issues x.pg [x.a, x.a + 1, x.b] [] s → s.specul s.cur = none → srcV s x.b = .ok v →
      let n := 2 ^ x.cls.toNat
      let va := (s.me.rg x.a.toNat).toNat
      let bar := (s.me.rg (x.a.toNat + 1)).toNat
      needAll [(.write, va, n, n), (.write, bar, 32, 32)] s = .ok () → xlate .write va n s = .ok (s1, p) → needHost false p.pa va s = .ok () →
      xlate .write bar 32 s1 = .ok (s2, q) → needHost false q.pa bar s = .ok () → s.me.s < 63 →
      exec (.stb x) s = .next (advance (pushPend { (Pend.mk0 .stb 0 0 va n [p.pa]).mapped p with
        pas2 := [q.pa], scope := x.scope.toNat, rel := decide (x.rel = 1), data := v } (deqAll [x.b] s2)))) ∧
    (∀ (x : TX) (s s1 s2 : State) (v : W) (dests : List Nat) (xs : List Xl), Issues x.pg [x.a, x.b] [] s → s.specul s.cur = none → srcV s x.b = .ok v →
      destList (s.me.rg x.a.toNat).toNat (bits x.imm.toNat 5 0 + 1) s = .ok (s1, dests) → s.me.s < 63 →
      let after := fun (k : PKind) (fn n : Nat) => advance (pushPend { Pend.mk0 k fn 0 (s.me.rg x.a.toNat).toNat n (xs.map Xl.pa) with
        unc := (xs.filter fun p => !p.cached).flatMap (fun p => upto p.pa n), scope := x.scope.toNat, rel := decide (x.rel = 1), data := v } (deqAll [x.b] s2))
      (xlateDests true (2 ^ x.cls.toNat) dests s1 = .ok (s2, xs) → exec (.stm x) s = .next (after .stm 0 (2 ^ x.cls.toNat))) ∧
      (xlateDests false (atomN x.fn.toNat) dests s1 = .ok (s2, xs) → (xs.flatMap fun p => upto p.pa (atomN x.fn.toNat)).any s2.mem.bad = false →
        exec (.stred x) s = .next (after .stred x.fn.toNat (atomN x.fn.toNat)))) ∧
    (∀ (x : TM) (s : State), Issues x.pg [] [] s →
      ((s.taskOf s.cur).isSome = true → exec (.fence x) s = .next (advance s)) ∧
      ((s.taskOf s.cur).isSome = false → x.acq = 1 → fenceMet s.me true (decide (x.rel = 1)) = true → exec (.fence x) s = .next (advance (s.onMe (Thread.sync true)))) ∧
      ((s.taskOf s.cur).isSome = false → x.acq ≠ 1 → exec (.fence x) s = .next (advance (if fenceMet s.me true true then s
        else pushPend { Pend.mk0 .fence 0 0 0 0 [] with scope := x.scope.toNat } s)))) ∧
    ∀ (x : TM) (s s1 : State) (t : Xl), Issues x.pg [x.a] [] s →
      missBlocked s (s.whoOf s.cur) (addrTM x s) = none →
      (translate s (s.whoOf s.cur) .read (addrTM x s) = .ok (s1, t) →
        exec (.pref x) s = .next (advance (if t.cached then s1.bring [t.pa] else s1))) ∧
      (∀ k, translate s (s.whoOf s.cur) .read (addrTM x s) = .error k → exec (.pref x) s = .next (advance s))

/-- BXPACK, BXUNPK, MXPACK and MXUNPK put one conversion of 32 elements in the thread's list (R132, R133). -/
def Obligations.BlockConversionsIssue : Prop :=
  ∀ (x : T3) (s s1 s2 s3 : State) (ps qs : List Xl) (srcN srcAl dstN dstAl : Nat), Issues x.pg [x.a, x.d] [] s →
      let src := (s.me.rg x.a.toNat).toNat
      let dst := (s.me.rg x.d.toNat).toNat
      needAll [(.read, src, srcN, srcAl), (.write, dst, dstN, dstAl)] s = .ok () → xlatesX .read src srcN s = .ok (s1, ps) →
      xlatesX .write dst dstN s1 = .ok (s2, qs) → needCached ((ps ++ qs).all Xl.cached) s = .ok () → s.me.l < 63 → s.me.s < 63 →
      takeLines (qs.map fun p => s2.mem.key p.pa / 64).eraseDups s2 = .ok s3 →
      let after := advance (pushPend { Pend.mk0 .conv x.fn.toNat 0 src srcN (ps.map Xl.pa) with
        pas2 := qs.map Xl.pa, unc := uncOf (ps ++ qs), md := x.md.toNat, cimm := x.c.toNat } s3)
      (srcN = 32 * unitBytes x.c.toNat → srcAl = unitBytes x.c.toNat → dstN = unitBytes x.fn.toNat → dstAl = 1 →
        exec (.bxpack x) s = .next after ∧ exec (.mxpack x) s = .next after) ∧
      (srcN = unitBytes x.c.toNat → srcAl = 1 → dstN = 32 * unitBytes x.fn.toNat → dstAl = unitBytes x.fn.toNat →
        exec (.bxunpk x) s = .next after ∧ exec (.mxunpk x) s = .next after)

/-- TSPAWN, TEND, TABORT, TSTAMP, TBARRIER and GVT complete (R34, R177, R179, R180, R181). -/
def Obligations.TaskWordsComplete : Prop :=
  (∀ (x : TB) (s : State), Issues x.pg [x.a, x.a + 1] [x.a] s → s.specul s.cur = none → needRel s = .ok () → tasksOfDie s (dieOf s.cur) < 4096 →
      (haltedThread s (shardOf s.cur) = none → exec (.tspawn x) s = .next (advance (s.onMe fun t => t.wg x.a.toNat allOnes))) ∧
      ∀ n, haltedThread s (shardOf s.cur) = some n →
        let ts := fld (s.me.rg x.a.toNat) 47 0 * 65536 + s.cur
        let arg := s.me.rg (x.a.toNat + 1)
        let pc := s.me.pc + wInt (sext x.disp.toNat 39 * 8)
        let k : Task := ⟨s.nextId, ts, some n, pc, s.me.rg 1, arg, 0, false, [], [], [], none, none, false, shardOf n, 0⟩
        let s1 := startThread { s with nextId := s.nextId + 1 } n s.me pc (s.me.rg 1) arg (w64 ts)
        exec (.tspawn x) s = .next (advance (({ s1 with tasks := insertTask k s1.tasks } : State).onMe fun t => t.wg x.a.toNat (w64 n)))) ∧
    (∀ (x : T3) (s : State), Issues x.pg [] [x.d] s →
      (s.taskOf s.cur = none → exec (.tend x) s = .next (advance (s.onMe fun t => t.wg x.d.toNat 0)) ∧
        exec (.tabort x) s = .next (advance (s.onMe fun t => t.wg x.d.toNat 0))) ∧
      ∀ k, s.taskOf s.cur = some k →
        exec (.tend x) s = .next (s.onMe fun t => { t with st := .stalled, why := .commit (some x.d.toNat) }) ∧
        (k.irrev = true → exec (.tabort x) s = .next (s.onMe fun t => { t with st := .stalled, why := .commit (some x.d.toNat) })) ∧
        (k.irrev = false → exec (.tabort x) s = .next (advance ((match k.firing with
          | some e => removeEntry (discardTask (s.onMe dropStores) k) e
          | none => discardTask (s.onMe dropStores) k).onMe fun t => t.wg x.d.toNat 1)))) ∧
    (∀ (x : T3) (s : State), Issues x.pg [x.a] [x.d] s →
      let a := s.me.rg x.a.toNat
      exec (.tstamp x) s = .next (advance (s.onMe fun t => t.wg x.d.toNat (w64 (fld a 47 0 * 65536 + s.cur)))) ∧
      (gvtMet s s.cur a = true → exec (.gvt x) s = .next (advance (s.onMe fun t => t.wg x.d.toNat s.gvt))) ∧
      (s.me.prv = true → ckptRuns s = false →
        exec (.tbarrier x) s = .next (if a ≠ allOnes ∧ s.tasks.any (fun t => decide (t.ts < a.toNat)) = true
          then ({ s with bts := a } : State).onMe fun t => { t with st := .stalled, why := .barrierTs x.d.toNat a s.bts }
          else advance (({ s with bts := a } : State).onMe fun t => t.wg x.d.toNat s.bts))))

/-- WAIT, WAITM, WAITT and CNTRD complete (R261, R315, R321, R322). -/
def Obligations.CounterWordsComplete : Prop :=
  (∀ (x : TW) (s : State), Issues x.pg [] [] s →
      (∀ e ∈ [(x.l, s.me.l), (x.s, s.me.s), (x.c, s.me.c), (x.k, s.me.k)], e.1.toNat = 15 ∨ e.2 ≤ e.1.toNat) →
      exec (.wait x) s = .next (advance s)) ∧
    (∀ (x : TX) (s : State) (k : Nat), trefKey s s.me.own (s.me.rg x.a.toNat) = some k →
      (Issues x.pg [x.a, x.b] [x.b] s → (s.tile k).poison = false → chunksMet (s.tile k) x.cls.toNat (s.me.rg x.b.toNat) = true →
        exec (.waitm x) s = .next (advance (s.onMe fun t => (t.wg x.b.toNat (s.tile k).bitmap).sync (decide (x.acq = 1))))) ∧
      (Issues x.pg [x.a] [x.b] s → ((s.tile k).st.code = x.cls.toNat ∨ (s.tile k).poison = true) →
        exec (.waitt x) s = .next (advance (s.onMe fun t => (t.wg x.b.toNat (s.tile k).low).sync (decide (x.acq = 1)))))) ∧
    ∀ (x : T3) (s s1 : State) (v : W), Issues x.pg [x.a] [x.d] s → needQ [x.d] s = .ok () → counterOf s x.c.toNat (s.me.rg x.a.toNat) = .ok v →
      putV x.d v s = .ok s1 → exec (.cntrd x) s = .next (advance s1)

/-- XCOPY, XGATH, XSCAT, XCOLL, XCKPT, XTASK, XSEND and XCANCEL take effect at issue (R32, R182, R184, R186, R214, R215, R296, R357, R360). -/
def Obligations.EngineCommandsAreSent : Prop :=
  (∀ (x : TX) (s s1 : State) (m : Msg) (op : Nat), s.specul s.cur = none → engineMsg op x s = .ok (s1, m) →
      (s.me.c < 63 →
        (op = 0x70 → Issues x.pg [x.a] [] s → exec (.xcopy x) s = .next (sentTo (srcBte s.cur) m s1)) ∧
        (op = 0x71 → Issues x.pg [x.a, x.b] [] s → exec (.xgath x) s = .next (sentTo (srcBte s.cur) (m.withH x s) s1)) ∧
        (op = 0x72 → Issues x.pg [x.a, x.b] [] s → exec (.xscat x) s = .next (sentTo (srcBte s.cur) (m.withH x s) s1)) ∧
        (op = 0x73 → Issues x.pg [x.a, x.b] [] s → exec (.xcoll x) s = .next (sentTo srcColl (m.withH x s) s1)) ∧
        (op = 0x76 → Issues x.pg [x.a] [] s → s.me.prv = true → exec (.xckpt x) s = .next (sentTo srcColl m s1)) ∧
        (op = 0x75 → Issues x.pg [x.a, x.b] [] s →
          exec (.xsend x) s = .next (if takesMsgs (s.me.rg x.b.toNat).toNat then sentTo (s.me.rg x.b.toNat).toNat m s1
            else advance (writeReply m (s.me.rg x.b.toNat).toNat 3 4 0 { s1 with nextId := s.nextId + 1 })))) ∧
      (op = 0x74 → Issues x.pg [x.a] [] s → s.me.k < 63 →
        let raised := ({ s1 with nextId := s.nextId + 1 } : State).onMe fun t => { t with k := t.k + 1 }
        exec (.xtask x) s = .next (match arriveTask (shardOf s.cur) m raised with
          | some s2 => advance s2
          | none => raised.onMe fun t => { t with st := .stalled, why := .ring m }))) ∧
    ∀ (x : TX) (s : State), Issues x.pg [x.a] [] s → s.specul s.cur = none → s.me.c < 63 →
      exec (.xcancel x) s = .next (advance (cancelOf (s.cur, s.nextId) (oldestNamed s s.cur (s.me.rg x.a.toNat)) { s with nextId := s.nextId + 1 }))

/-- WMASSERT, WMRETRACT, WMMODIFY, CSSEL, CSINFO, CSCLR and RLOAD take effect at issue (R267, R281, R283, R286, R287, R288, R289, R290). -/
def Obligations.RuleCommandsAreSent : Prop :=
  (∀ (x : TX) (s s1 : State) (img : List Byte) (op : Nat) (wid : W) (takes : Bool), needDelta s = .ok () → s.me.c < 63 →
      let m : Msg := { msgOf op x s with opnd := wordsOf img ++ [wid] }
      let after := match ownNet s1 m.owner m.net with
        | none => advance (s1.onMe fun t => { t with imp := t.imp ++ [(cPRIV, m.b)] })
        | some (_, n) =>
          if takes && decide (n.free = 0) then advance (s1.onMe fun t => { t with imp := t.imp ++ [(cBASIN, basinVal 1 0)] })
          else sendDelta m (if takes then reserve m.net s1 else s1)
      (op = 0xb0 → takes = true → wid = 0 → Issues x.pg [x.a, x.b] [] s → readImage (s.me.rg x.a.toNat).toNat s = .ok (s1, img) →
        exec (.wmassert x) s = .next after) ∧
      (op = 0xb1 → takes = false → wid = s.me.rg x.a.toNat → Issues x.pg [x.a, x.b] [] s → s1 = s → img = List.replicate 64 0 →
        exec (.wmretract x) s = .next after) ∧
      (op = 0xb2 → takes = true → wid = s.me.rg (x.a.toNat + 1) → Issues x.pg [x.a, x.a + 1, x.b] [] s →
        readImage (s.me.rg x.a.toNat).toNat s = .ok (s1, img) → exec (.wmmodify x) s = .next after)) ∧
    ∀ (x : TX) (s : State), s.specul s.cur = none → s.me.c < 63 →
      let basin := srcBasin (dieOfWord (s.me.rg x.b.toNat))
      let a := (s.me.rg x.a.toNat).toNat
      (Issues x.pg [x.a, x.b] [x.b] s → needAll [(.write, a, 64 * (x.imm.toNat % 64 + 1), 64)] s = .ok () →
        exec (.cssel x) s = .next (sentTo basin
          { msgOf 0xb9 x s with opnd := [s.me.sys.prio, s.me.sys.quant, s.me.sys.pw, s.me.sys.ctx] }
          (pushPend { Pend.mk0 .acqCmd 0 0 0 0 [] with acq := true } s))) ∧
      (Issues x.pg [x.a, x.b] [x.b] s → needAll [(.write, a, 64, 64)] s = .ok () →
        exec (.csinfoSummary x) s = .next (sentTo basin (msgOf 0xba x s) s) ∧ exec (.csinfoEntry x) s = .next (sentTo basin (msgOf 0xba x s) s)) ∧
      (Issues x.pg [x.b] [x.b] s →
        exec (.csclrAll x) s = .next (sentTo basin (msgOf 0xbb x s) s) ∧ exec (.csclrRule x) s = .next (sentTo basin (msgOf 0xbb x s) s) ∧
        exec (.rload x) s = .next (sentTo basin (msgOf 0xbc x s) s))

/-- DOPEN, DOPEN.wait, DCLOSE, DBIND, DBIND.set, DUNBIND, DSTAT and DDESC take effect at issue (R74, R254, R256, R257, R258, R259, R260). -/
def Obligations.DirectoryCommandsAreSent : Prop :=
  ∀ (x : TX) (s : State), s.specul s.cur = none → s.me.c < 63 →
      let a := (s.me.rg x.a.toNat).toNat
      let b := (s.me.rg x.b.toNat).toNat
      let sent := fun (m : Msg) => sentTo srcDir m (if m.acq then pushPend { Pend.mk0 .acqCmd 0 0 0 0 [] with acq := true } s else s)
      let wait := fun (st : State) => st.onMe fun t => { t with hpend := t.hpend ++ [x.b.toNat - 88] }
      (needAll [(.read, a, 32, 8)] s = .ok () →
        (Issues x.pg [x.a] [] s → exec (.dopen x) s = .next (wait (sent ((msgOf 0xc0 x s).withH x s)))) ∧
        (Issues x.pg [x.a, x.a + 1] [] s →
          let st := wait (sent { (msgOf 0xc0 x s).withH x s with b := s.me.rg (x.a.toNat + 1) })
          exec (.dopenWait x) s = .next (if inboxRoom s srcDir
            then st.onMe fun t => { t with pc := s.me.pc, st := .parked, why := .name s.nextId } else st)) ∧
        (Issues x.pg [x.a] [] s → exec (.dunbind x) s = .next (sent (msgOf 0xc3 x s))) ∧
        (Issues x.pg [x.a] [x.b] s → exec (.dstat x) s = .next (sent (msgOf 0xc4 x s)))) ∧
      (Issues x.pg [x.b] [] s → exec (.dclose x) s = .next (sent ((msgOf 0xc1 x s).withH x s))) ∧
      (needAll [(.read, a, 32, 8), (.read, b, 64, 8)] s = .ok () → Issues x.pg [x.a, x.b] [] s →
        exec (.dbind x) s = .next (sent (msgOf 0xc2 x s))) ∧
      (∀ (s1 : State) (xs : List Xl), needAll [(.read, a, 32 * (x.imm.toNat % 16 + 1), 8)] s = .ok () →
        xlatesX .read a (32 * (x.imm.toNat % 16 + 1)) s = .ok (s1, xs) → cmdSettled s.me (xs.map Xl.pa) = true →
        needAll (listChecks (listRecs ((xs.map Xl.pa).map (s1.refresh (xs.map Xl.pa)).mem.rd) (x.imm.toNat % 16 + 1))) s = .ok () → Issues x.pg [x.a] [] s →
        exec (.dbindSet x) s = .next (sent (msgOf 0xc2 x s))) ∧
      (needAll [(.write, a, 64, 64)] s = .ok () → Issues x.pg [x.a, x.b] [] s →
        exec (.ddesc x) s = .next (sent ((msgOf 0xc5 x s).withH x s)))

/-- GLAUNCH, GSTOP, GSNAP, GREST, GBANK, GPART, GQUERY and FRESHET take effect at issue (R21, R236, R238, R239, R240, R241, R244, R386). -/
def Obligations.GraphCommandsAreSent : Prop :=
  ∀ (x : TX) (s s1 : State) (bs : List Byte), s.specul s.cur = none → s.me.c < 63 →
      let m := fun (op : Nat) => msgOf op x s
      let a := (s.me.rg x.a.toNat).toNat
      let hard := srcHard (dieOfWord (s.me.rg x.b.toNat))
      let terms := [s.me.sys.prio, s.me.sys.quant, s.me.sys.pw]
      (Issues x.pg [x.a] [x.b] s →
        ((if x.a = 0 then s1 = s ∧ bs = toBytes 32 0xffffff else readAtIssue a 32 s = .ok (s1, bs)) →
          needRel s = .ok () →
          let bound := boundIn ((sectionOf s s.me.modul x.imm.toNat).map Prod.snd)
          let msg := { m 0xc8 with opnd := wordsOf bs ++ terms, hv := qTaken s.me bound, hreg := b2n (decide (x.a = 0)) }
          let die := fld ((wordsOf bs).headD 0) 7 0
          exec (.glaunch x) s = .next (sentTo (srcHard (if die < 4 then die else dieOf s.cur)) msg (bindImage msg bound s1))) ∧
        (readAtIssue a 32 s = .ok (s1, bs) → needRel s = .ok () →
          exec (.glaunchDelta x) s = .next (sentTo (srcHard (dieOfWord ((wordsOf bs).getD 1 0))) { m 0xc8 with opnd := wordsOf bs } s1))) ∧
      (Issues x.pg [x.a, x.b] [x.b] s →
        ((x.a = 0 ∧ s1 = s ∨ x.a ≠ 0 ∧ ∃ pas, xlates .write a 64 s = .ok (s1, pas)) →
          exec (.gstop x) s = .next (sentTo hard { m 0xc9 with fn := b2n (decide (x.a = 0)) } s1)) ∧
        (∀ pas, xlates .write a 64 s = .ok (s1, pas) →
          exec (.gsnap x) s = .next (sentTo hard { m 0xca with fn := 0 } s1) ∧
          exec (.gqueryStatus x) s = .next (sentTo hard (m 0xce) s1) ∧ exec (.gquerySize x) s = .next (sentTo hard (m 0xce) s1) ∧
          exec (.gquerySpoil x) s = .next (sentTo hard (m 0xce) s1) ∧ exec (.gqueryDump x) s = .next (sentTo hard (m 0xce) s1)) ∧
        (readAtIssue a 64 s = .ok (s1, bs) →
          let bound := match sectionById s ((bs.drop 8).take 16) with
            | some (_, kind, sec) => if kind = 3 then [] else boundIn (some sec)
            | none => []
          let msg := { m 0xcb with opnd := wordsOf bs ++ terms, hv := qTaken s.me bound }
          exec (.grest x) s = .next (sentTo hard msg (bindImage msg bound s1))) ∧
        exec (.gbank x) s = .next (sentTo hard (m 0xcc) s) ∧ exec (.gpart x) s = .next (sentTo hard (m 0xcd) s) ∧
        (readAtIssue a 16 s = .ok (s1, bs) → exec (.freshet x) s = .next (sentTo hard { m 0xcf with opnd := wordsOf bs } s1)))

/-- TRAP, BRK and an illegal word enter TRAPPED with the saved registers of R325; ERET and the four resolutions leave it (R62, R325, R328, R340). -/
def Obligations.ExceptionsAreTaken : Prop :=
  (∀ (x : TI) (s : State), Issues x.pg [] [] s →
      exec (.trap x) s = .next (takeTrap s.cur cTRAP s.me.pc (w64 x.imm.toNat) s) ∧
      exec (.brk x) s = .next (takeTrap s.cur cBRK s.me.pc (w64 x.imm.toNat)
        (if s.debugOpen = true then { s with well := { s.well with breaks := s.cur :: s.well.breaks } } else s))) ∧
    (∀ (w : W) (s : State), exec (.illegalInstructionWord w) s = .next (takeTrap s.cur cILLEGAL s.me.pc w s)) ∧
    (∀ (x : T3) (s : State), Issues x.pg [] [] s →
      ((s.me.hnd = true ∨ s.me.prv = true) → s.me.sys.xpc.toNat % 8 = 0 →
        exec (.eret x) s = .next (s.onMe fun t => { t with hnd := false, pc := t.sys.xpc })) ∧
      (s.me.hnd = false → s.me.prv = false →
        exec (.eret x) s = .next (takeTrap s.cur cPRIV s.me.pc (Config.freeValue s.fresh) { s with fresh := s.fresh + 1 })) ∧
      ((s.me.hnd = true ∨ s.me.prv = true) → s.me.sys.xpc.toNat % 8 ≠ 0 →
        exec (.eret x) s = .next (takeTrap s.cur cALIGN s.me.pc (Config.freeValue s.fresh) { s with fresh := s.fresh + 1 }))) ∧
    ∀ (tid : Nat) (s : State), (s.th tid).st = .trapped → portHolds s tid = false →
      exec (.trapResume tid) s = .next (s.onTh tid fun t => { t with st := .runnable, pc := alignPc t.sys.xpc }) ∧
      exec (.trapSkip tid) s = .next (s.onTh tid fun t => { t with st := .runnable, pc := alignPc t.sys.xpc + 8 }) ∧
      (hvecOf s tid ≠ 0 → (s.th tid).hnd = false →
        exec (.trapHandler tid) s = .next (s.onTh tid fun t => { t with st := .runnable, pc := alignPc (hvecOf s tid), hnd := true })) ∧
      (s.taskOf tid = none → exec (.trapEnd tid) s = .next (s.onTh tid fun t => { t with st := .halted, why := .none })) ∧
      ∀ k, s.taskOf tid = some k →
        (k.irrev = true → exec (.trapEnd tid) s = .next (s.onTh tid fun t => { t with st := .stalled, why := .commit none })) ∧
        (k.irrev = false → exec (.trapEnd tid) s = .next ((match k.firing with
          | some e => removeEntry (discardTask (s.onTh tid dropStores) k) e
          | none => discardTask (s.onTh tid dropStores) k).onTh tid fun t => { t with st := .halted, why := .none }))

/-- Taking a trap saves pc, code and value, stops the thread alone, and logs one record (R325, R326, R328, R366). -/
def Obligations.TrapEntrySavesWhatR325Says : Prop :=
  ∀ (tid code : Nat) (pc v : W) (s : State),
      let t := takeTrap tid code pc v s
      (t.th tid).sys = { (s.th tid).sys with xpc := pc, xcause := w64 code, xval := v } ∧ (t.th tid).st = .trapped ∧
      (t.th tid).pc = (s.th tid).pc ∧ (t.th tid).hnd = (s.th tid).hnd ∧ (∀ n, (t.th tid).rg n = (s.th tid).rg n) ∧
      (∀ n, (t.th tid).rp n = (s.th tid).rp n) ∧ (∀ n, (t.th tid).rh n = (s.th tid).rh n) ∧ (∀ u, u ≠ tid → t.th u = s.th u) ∧
      t.mem = s.mem ∧ t.tab = s.tab ∧ t.eng = s.eng ∧ t.fab = s.fab ∧ t.tasks = s.tasks ∧ t.out = s.out ∧
      { t.well with log := s.well.log, logged := s.well.logged } = s.well ∧
      (s.well.log.length < 2097152 → t.well.log.length = s.well.log.length + 1) ∧
      ⟨s.gtsc, tid, code, 0, 0, pc.toNat, v.toNat⟩ ∈ t.well.log

/-- MSGI, TLBINV, PTSYNC, CTXSAVE and CTXREST complete (R339, R341, R342, R343, R344). -/
def Obligations.SystemWordsComplete : Prop :=
  (∀ (x : TX) (s : State), Issues x.pg [x.a] [] s → s.specul s.cur = none →
      let t := (s.me.rg x.a.toNat).toNat % 65536
      needPost t s = .ok () → (x.rel = 1 → fenceMet s.me true true = true) →
      exec (.msgi x) s = .next (advance ((s.mark (.posted t (bits x.imm.toNat 5 0))).onTh t fun t =>
        { t with sys := { t.sys with intpend := t.sys.intpend ||| (1#64 <<< bits x.imm.toNat 5 0) } }))) ∧
    (∀ (x : TM) (s : State), s.me.prv = true →
      (Issues x.pg [x.a, x.d] [] s → fld (s.me.rg x.d.toNat) 63 18 = 0 → s.me.c < 63 →
        exec (.tlbinv x) s = .next (advance (startOwn (msgOfTM 0xd6 x s) s))) ∧
      (Issues x.pg [x.d] [] s → fenceMet s.me false true = true →
        exec (.ptsync x) s = .next (advance (if s.me.rg x.d.toNat = allOnes then s
          else { s with mem := { s.mem with ctx := Tab.put s.mem.ctx (fld (s.me.rg x.d.toNat) 15 0) (readCtx s.mem (fld (s.me.rg x.d.toNat) 15 0)) } }))) ∧
      (Issues x.pg [x.a, x.d] [] s → addrTM x s % 64 = 0 →
        let t := (s.me.rg x.d.toNat).toNat % 65536
        (∀ (s1 : State) (pas : List Nat), t < 1024 → (s.th t).st ≠ .halted → xlates .write (addrTM x s) 1024 s = .ok (s1, pas) → s.me.c < 63 →
          exec (.ctxsave x) s = .next (advance (startOwn { msgOfTM 0xd4 x s with opnd := [w64 (addrTM x s), w64 t] } (stopLanes t s1)))) ∧
        ∀ (s1 s2 : State) (bs recs : List Byte),
          let u := shardOf s.cur * 8 + (s.me.rg x.d.toNat).toNat % 8
          (s.th u).st = .halted → readAtIssue (addrTM x s) 1024 s = .ok (s1, bs) → wrongThread s bs u = false →
          inboxFits s (srcBte u) (leAt bs 816 1 % 64) = true →
          readAtIssue (addrTM x s + 1024) (64 * (leAt bs 816 1 % 64)) s1 = .ok (s2, recs) →
          let k := taskOfBlock s bs
          let s3 := holdRecords u false (s2.putTh u (blockThread s bs u))
          let s4 := match k with
            | some k => s3.onTask k.id fun t => { t with tid := some u, aborts := leAt bs 672 8, shard := shardOf u }
            | none => s3
          exec (.ctxrest x) s = .next (advance ((recordsOf recs).foldl (resumeOne u) s4)))) ∧
    ∀ (x : TM) (s : State), s.me.prv = false →
      let trapped := takeTrap s.cur cPRIV s.me.pc (Config.freeValue s.fresh) { s with fresh := s.fresh + 1 }
      (Issues x.pg [x.a, x.d] [] s → exec (.tlbinv x) s = .next trapped ∧ exec (.ctxsave x) s = .next trapped ∧ exec (.ctxrest x) s = .next trapped) ∧
      (Issues x.pg [x.d] [] s → exec (.ptsync x) s = .next trapped)

/-- An arithmetic, conversion or MOV node fires with the value of its opcode (R59, R87, R88, R94, R96, R124, R134, R219, R220). -/
def Obligations.ArithNodesFire : Prop :=
  (∀ (op : BitVec 8) (w : NW) (s : State) (c : Ctx), nodeCtx s = some c → (∀ f ∈ arithFields c.nd.op, c.has f = true) →
      let o := c.nd.op
      let v := ((if o < 0x30 then arithInt o (c.lit % 128) else arithFlt o (c.lit % 128)) c.fn (c.lit / 128 * 4096) (c.val 0) (c.val 1) (c.val 2)).1
      Fires (.nodeArithFire op w) s c s (taken c (arithFields o))
        [⟨none, ⟨v, c.outTag c.tag v, resFlg (arithScl o (c.flg 0)) ((arithFields o).map c.flg), 0⟩⟩]) ∧
    ∀ (op : BitVec 8) (w : NW) (s : State) (c : Ctx) (e : (T3 → Instr) × (W × Nat)), nodeCtx s = some c →
      (∀ f ∈ arithFields c.nd.op, c.has f = true) → c.nd.op ≤ 0x14 →
      (integerResults c.fn (c.lit / 128 * 4096) (c.val 0) (c.val 1))[c.nd.op]? = some e →
      Fires (.nodeArithFire op w) s c s (taken c (arithFields c.nd.op))
        [⟨none, ⟨e.2.1, c.outTag c.tag e.2.1, resFlg (c.flg 0).scl ((arithFields c.nd.op).map c.flg), 0⟩⟩]

/-- STEER, MERGE, GATE, FCOMP, REPEAT, ROUTE and SINK fire as R224 says (R221, R222, R223, R224). -/
def Obligations.FlowNodesFire : Prop :=
  ∀ (w : NW) (s : State) (c : Ctx), nodeCtx s = some c →
      (c.has 0 = true → c.has 2 = true →
        let t := passTok c 0 [0, 2]
        let on := bit (c.val 2).toNat 0
        let u := { t with tag := laneTag c.base c.i.k c.st.cnt }
        let ends := fun (x : Nat) => if t.flg.ends then [only x (endTok t)] else []
        Fires (.steer w) s c s (taken c [0, 2]) (if on then only 0 t :: ends 1 else only 1 t :: ends 0) ∧
        Fires (.gate w) s c s (taken c [0, 2]) (if on then [⟨none, t⟩] else if t.flg.ends then [⟨none, endTok t⟩] else []) ∧
        (on = true → Fires (.fcomp w) s c s (takenSt c [0, 2] fun x => { x with cnt := (x.cnt + 1) % 65536 }) [⟨none, u⟩]) ∧
        (on = false → Fires (.fcomp w) s c s (taken c [0, 2]) (if u.flg.ends then [⟨none, endTok u⟩] else []))) ∧
      (c.has 2 = true →
        let f := if bit (c.val 2).toNat 0 then 0 else 1
        c.has f = true → Fires (.merge w) s c s (taken c [f, 2]) [⟨none, passTok c f [f, 2]⟩]) ∧
      (c.has 0 = true → (w.lit = 0 → c.has 1 = true) →
        let fs := if w.lit = 0 then [0, 1] else [0]
        let t := passTok c 0 fs
        let left := if c.st.busy then c.st.cnt else if w.lit = 0 then (c.val 1).toNat % 65536 else w.lit.toNat
        (left = 0 → Fires (.repeat w) s c s (taken c fs) (if t.flg.ends then [⟨none, endTok t⟩] else [])) ∧
        (left = 1 → Fires (.repeat w) s c s (takenSt c fs fun x => { x with busy := false, cnt := 0 }) [⟨none, t⟩]) ∧
        (1 < left → Fires (.repeat w) s c s (takenSt c [] fun x => { x with busy := true, cnt := left - 1 })
            [⟨none, { t with flg := { t.flg with eos := false, eor := false } }⟩])) ∧
      (c.has 0 = true →
        let t := passTok c 0 [0]
        let x := if bit (c.val 0).toNat (w.lit.toNat % 64) then 1 else 0
        Fires (.route w) s c s (taken c [0]) (only x t :: if t.flg.ends then [only (1 - x) (endTok t)] else []) ∧
        Fires (.sink w) s c s (taken c [0]) [])

/-- TAGSET, TAGGET, BOUND, SRC and GEN fire as R219 and R224 say (R81, R219, R224). -/
def Obligations.TagAndSourceNodesFire : Prop :=
  ∀ (w : NW) (s : State) (c : Ctx), nodeCtx s = some c →
      (c.has 0 = true → c.has 1 = true →
        Fires (.tagset w) s c s (taken c [0, 1]) [⟨none, { passTok c 0 [0, 1] with tag := laneTag c.base c.i.k (c.val 1).toNat }⟩]) ∧
      (c.has 0 = true →
        let v := w64 ((c.tag + 65536 - c.base) % 65536)
        Fires (.tagget w) s c s (taken c [0]) [⟨none, ⟨v, c.outTag c.tag v, resFlg false [c.flg 0], 0⟩⟩] ∧
        Fires (.bound w) s c s (taken c [0]) [⟨none, passTok c 0 [0]⟩] ∧
        let cur := if c.st.busy then c.st.acc else c.val 0
        let rem := if c.st.busy then c.st.cnt else w.lit.toNat + 1
        let last := decide (rem = 1)
        Fires (.genTrig w) s c s (takenSt c (if last then [0] else []) fun x => { x with acc := cur + 1, cnt := rem - 1, busy := !last })
            [⟨none, ⟨cur, c.outTag c.tag cur, ⟨false, last && (c.flg 0).eos, last, false, false⟩, 0⟩⟩]) ∧
      (c.st.sent = false →
        let v := wInt (sext w.lit.toNat 13)
        Fires (.src w) s c s (takenSt c [] fun x => { x with sent := true, emits := x.emits + 1 })
            [⟨none, ⟨v, c.outTag (laneTag c.base c.i.k c.st.emits) v, ⟨false, decide (w.fn = 1), false, false, false⟩, 0⟩⟩]) ∧
      (c.st.cnt ≠ 0 →
        Fires (.gen w) s c s (takenSt c [] fun x => { x with acc := x.acc + 1, cnt := x.cnt - 1, emits := x.emits + 1 })
            [⟨none, ⟨c.st.acc, c.outTag (laneTag c.base c.i.k c.st.emits) c.st.acc, ⟨false, decide (c.st.cnt = 1), false, false, false⟩, 0⟩⟩])

/-- DELAY, ACCUM, MERGE2, LUT6, FSM and TOPK fire on their node state (R81, R82, R220, R221, R224, R228, R229, R234). -/
def Obligations.StateNodesFire : Prop :=
  ∀ (w : NW) (s : State) (c : Ctx), nodeCtx s = some c →
      (let d := w.lit.toNat % 32 + 1;
        (c.has 0 = true → c.st.flush = false →
          (c.st.line.length < d → Fires (.delay w) s c s (takenSt c [0] fun x => { x with line := c.st.line ++ [c.tok 0], flush := (c.flg 0).ends }) []) ∧
          ∀ t rest, c.st.line = t :: rest → d ≤ c.st.line.length →
            Fires (.delay w) s c s (takenSt c [0] fun x =>
              { x with line := rest ++ [c.tok 0], head := (x.head + 1) % d, flush := (c.flg 0).ends && decide (rest ++ [c.tok 0] ≠ []) }) [⟨none, t⟩]) ∧
        (c.st.flush = true → ∀ t rest, c.st.line = t :: rest →
          Fires (.delay w) s c s (takenSt c [] fun x => { x with line := rest, head := (x.head + 1) % d, flush := decide (rest ≠ []) }) [⟨none, t⟩])) ∧
      (c.has 0 = true →
        let v := accumAdd c
        let n := w.lit.toNat % 1024
        let close := (c.flg 0).ends || (decide (n ≠ 0) && decide (c.st.cnt + 1 = n))
        (close = true → Fires (.accum w) s c s (takenSt c [0] fun x => { x with acc := 0, cnt := 0 })
            [⟨none, ⟨v, c.outTag c.tag v, ⟨false, (c.flg 0).eos, (c.flg 0).eor, false, false⟩, 0⟩⟩]) ∧
        (close = false → Fires (.accum w) s c s (takenSt c [0] fun x => { x with acc := v, cnt := (x.cnt + 1) % 2 ^ 32 }) [])) ∧
      (c.has 0 = true → c.has 1 = true →
        ((c.flg 0).ends = false → (c.flg 1).ends = false →
          let f := if keyLess w.fn.toNat (c.val 1) (c.val 0) then 1 else 0
          Fires (.merge2 w) s c s (taken c [f]) [⟨none, passTok c f [f]⟩]) ∧
        ((c.flg 0).ends = true → (c.flg 1).ends = false → Fires (.merge2 w) s c s (taken c [1]) [⟨none, passTok c 1 [1]⟩]) ∧
        ((c.flg 0).ends = false → (c.flg 1).ends = true → Fires (.merge2 w) s c s (taken c [0]) [⟨none, passTok c 0 [0]⟩]) ∧
        ((c.flg 0).ends = true → (c.flg 1).ends = true →
          Fires (.merge2 w) s c s (taken c [0, 1]) [⟨none, ⟨0, c.outTag c.tag 0, ⟨(c.flg 0).scl, (c.flg 0).eos && (c.flg 1).eos, true, false, false⟩, 0⟩⟩]) ∧
        (c.has 2 = true →
          let v := lut6 c.nd.ext (c.val 0) (c.val 1) (c.val 2)
          Fires (.lut6 w) s c s (taken c [0, 1, 2]) [⟨none, ⟨v, c.outTag c.tag v, resFlg false [c.flg 0, c.flg 1, c.flg 2], 0⟩⟩])) ∧
      (c.has 0 = true →
        let b := bits w.lit.toNat 9 4
        let k := 4 * (4 * c.st.st + bits (c.val 0).toNat (b + 1) b)
        let next := bits (c.nd.ext.getD (k / 64) 0).toNat (k % 64 + 3) (k % 64)
        let v := w64 (next * 2 ^ 60 + (c.val 0).toNat % 2 ^ 60)
        Fires (.fsm w) s c s (takenSt c [0] fun x => { x with st := next, acc := c.val 0 })
          (if next ≠ c.st.st ∨ bit w.lit.toNat 10 = true then [⟨none, ⟨v, c.outTag c.tag v, resFlg false [c.flg 0], 0⟩⟩]
           else if (c.flg 0).ends = true then [⟨none, ⟨0, c.outTag c.tag v, resFlg (c.flg 0).scl [c.flg 0], 0⟩⟩] else [])) ∧
      (let nm := topkNM w.lit.toNat;
        (c.has 0 = true → c.st.flush = false →
          let line := c.st.line ++ [c.tok 0]
          (line.length = nm.2 ∨ (c.flg 0).ends = true →
            Fires (.topk w) s c s (takenSt c [0] fun x => { x with line := topkOut w.fn.toNat nm.1 line, flush := true }) []) ∧
          (line.length ≠ nm.2 → (c.flg 0).ends = false → Fires (.topk w) s c s (takenSt c [0] fun x => { x with line := line }) [])) ∧
        (c.st.flush = true → ∀ t rest, c.st.line = t :: rest →
          Fires (.topk w) s c s (takenSt c [] fun x => { x with line := rest, flush := decide (rest ≠ []) })
            [⟨none, ⟨t.v, c.outTag t.tag t.v, ⟨false, t.flg.eos, t.flg.eor, false, false⟩, 0⟩⟩]))

/-- FALLOC, FFREE, CHAN, WEIR, EXPERT and its drain fire (R207, R208, R210, R211, R221, R230, R231, R232, R233). -/
def Obligations.QueueNodesFire : Prop :=
  (∀ (w : NW) (s : State) (c : Ctx), nodeCtx s = some c →
      (c.has 0 = true → ∀ o l, laneOwner c.i = some o → ((upto 0 (2 ^ c.i.k)).find? fun l => !decide (l ∈ (c.i.st o).lanes)) = some l →
        Fires (.falloc w) s c s ((taken c [0]).onSt o fun x => { x with lanes := (c.i.st o).lanes ++ [l] })
          [⟨none, { passTok c 0 [0] with tag := laneTag c.base c.i.k l }⟩]) ∧
      (c.has 0 = true → ∀ o, laneOwner c.i = some o →
        Fires (.ffree w) s c s ((taken c [0]).onSt o fun x => { x with lanes := x.lanes.filter fun l => decide (l ≠ (c.tag + 65536 - c.base) % 65536) })
          [⟨none, passTok c 0 [0]⟩]) ∧
      (c.nd.targets ≠ [] → aaDests c.nd = 0 → justQueued s c.iid c.n 0 = false → ∀ t rest, c.st.line = t :: rest → t.flg.frs = false →
        Fires (.chan w) s c s ((c.i.popChan c.n (dropAt c.st.line 0)).freeChan c.n t.tag) [⟨none, { t with tag := c.outTag t.tag t.v }⟩]) ∧
      (c.has 0 = true → (fld c.nd.ext1 15 0 = weirFrom c ∨ (bit c.nd.ext1.toNat 32 = true ∧ fld c.nd.ext1 31 16 = weirFrom c)) →
        let recent := c.st.sends.filter fun t => decide (s.cycle ≤ t + 1024)
        fld c.nd.ext1 63 48 = 0 ∨ recent.length < fld c.nd.ext1 63 48 →
        Fires (.weir w) s c s (takenSt c [0] fun x => { x with senders := Tab.del x.senders c.tag, sends := s.cycle :: recent })
          [⟨none, passTok c 0 [0]⟩]) ∧
      (c.st.outs = [] → c.has 1 = false → c.has 0 = true → c.has 2 = true → (exArrivals c).any (exWaits c.nd c.st) = false →
        ¬ (exMode c.nd = 2 ∧ exFull c.nd c.st (exDest c.nd (c.val 2)) = true) → tokPoisoned s c.iid c.i c.n c.tag c.nd = false →
        let i := takenSt c [0, 2] fun x => (exArrivals c).foldl (fun x e => exEnter c.nd e.1 e.2 x) x
        canSend s i c.n c.nd c.tag [] = true →
        exec (.expert w) s = .next (endIfDone ((exMarked c (some (sentFrom c s i []))).getD s) c.iid)) ∧
      (c.st.outs = [] → c.has 1 = false → c.has 0 = true → c.has 2 = true → (exArrivals c).any (exWaits c.nd c.st) = false →
        let d := exDest c.nd (c.val 2)
        exMode c.nd = 2 → exFull c.nd c.st d = true →
        Fires (.expert w) s c s (takenSt c [0, 2] fun x => { x with drops := Tab.put x.drops d (min 0xffffffff (Tab.getD x.drops d 0 + 1)) }) [])) ∧
    ∀ (iid node d : Nat) (s : State) (c : Ctx) (t : Tok) (rest : List Tok), nodeCtx { s with site := (iid, node, 0) } = some c →
      c.nd.op = 0x99 → exNext s c.iid c.n c.nd c.st = some d → exQ c.st d = t :: rest → queuePoisoned c.s c.i c.nd d = false →
      let i := takenSt c [] fun x => { x with queues := Tab.set x.queues [] d rest, rr := (d + 1) % exDests c.nd }
      canSend c.s i c.n c.nd c.tag [only 0 t] = true →
      exec (.expertDrain iid node) s = .next (endIfDone (sentFrom c c.s i [only 0 t]) c.iid)

/-- AGEN, MLOAD, MSTORE, RMW and SPILL fire, and a stopped requester resumes (R159, R225, R227, R233). -/
def Obligations.MemoryNodesFire : Prop :=
  (∀ (w : NW) (s : State) (c : Ctx), nodeCtx s = some c → requesterStopped c = false → c.has 0 = true →
      (c.st.run = none → Fires (.agen w) s c s (takenSt c [0] fun x => { x with run := some ⟨0, (c.val 0).toNat % 4096, c.tok 0⟩ }) []) ∧
      (∀ (s2 : State) (bs : List Byte), bit w.lit.toNat 0 = false → isVoid (c.val 0) = false →
        missBlocked s c.i.who (tokVa (c.val 0)) = none → readVa s c.i.who (tokVa (c.val 0)) (unitBytes c.fn) = .ok (s2, bs) →
        let v := loadVal c.fn (if isBlock c.fn then fld (c.val 0) 55 51 else 0) bs
        Fires (.mload w) s c s2 (taken c [0]) [⟨none, ⟨v, c.outTag c.tag v, resFlg false [c.flg 0], 0⟩⟩]) ∧
      (∀ (s2 : State) (i2 : Inv), bit w.lit.toNat 0 = false → c.has 1 = true → isVoid (c.val 0) = false →
        missBlocked s c.i.who (tokVa (c.val 0)) = none → writeVa s c.i.who none (tokVa (c.val 0)) (storeBytes c.fn (c.val 1)) = .ok s2 →
        s2.inv c.iid = some i2 →
        let out : List Emit := [⟨none, ⟨0, c.outTag c.tag 0, resFlg (c.flg 1).scl [c.flg 0, c.flg 1], 0⟩⟩]
        canSend s c.i c.n c.nd c.tag out = true → Fires (.mstore w) s c s2 (i2.clearFields c.n c.tag [0, 1]) out) ∧
      (∀ (s2 : State) (i2 : Inv), let d := (c.tag + 65536 - c.base) % 65536;
        let wr := Tab.getD c.st.wrote d 0
        (Tab.getD c.st.spill d []).length < spillCap c → writeVa s c.i.who none (spillVa c d wr) (tokBytes (c.tok 0)) = .ok s2 →
        s2.inv c.iid = some i2 →
        Fires (.spill w) s c s2 ((i2.clearFields c.n c.tag [0]).onSt c.n fun x =>
          { x with spill := Tab.put x.spill d (Tab.getD c.st.spill d [] ++ [c.tok 0]), wrote := Tab.put x.wrote d (wr + 1) }) [])) ∧
    (∀ (w : NW) (s : State) (c : Ctx) (i2 : Inv), nodeCtx s = some c → c.has 0 = true →
      let off := fld (c.val 0) 63 32
      let part := s.mem.partOf c.nd.place.core
      let pa := poolPa c.nd.place.core (partRF part * 65536 + off)
      off % 4 = 0 → off < partSP part * 65536 → bankHeld s c.iid c.nd.place.core (partRF part * 65536 + off) = true → s.mem.bad pa = false →
      let old := (s.refresh (upto pa 4)).mem.word pa 4
      let v := atomVal w.fn.toNat old
      let out : List Emit := [⟨none, ⟨v, c.outTag c.tag v, resFlg false [c.flg 0], 0⟩⟩]
      let s2 := homeWrite s none pa (toBytes 4 (atomOp w.fn.toNat old (fld (c.val 0) 31 0)).1)
      canSend s c.i c.n c.nd c.tag out = true → s2.inv c.iid = some i2 → Fires (.rmw w) s c s2 (i2.clearFields c.n c.tag [0]) out) ∧
    ∀ (iid node : Nat) (s : State) (i : Inv) (t : Tok), s.inv iid = some i → (i.st node).retained = some t →
      exec (.requesterResume iid node) s =
        .next (s.putInv iid { i.onSt node (fun x => { x with retained := none }) with pages := i.pages - 1 })

/-- ALPHA, MEMB, JOINB, NEGJ, SCORE, its reply and TERM fire on a plus match (R270, R271, R272, R273, R274, R275, R276). -/
def Obligations.MatchNodesFire : Prop :=
  (∀ (w : NW) (s s1 s2 : State) (c : Ctx) (net : Net), nodeCtx s = some c → tokPoisoned s c.iid c.i c.n c.tag c.nd = false →
      s.net c.iid = some net → c.has 0 = true → mKind (c.val 0) = 0 →
      let v := c.val 0
      let p := passTok c 0 [0]
      let t := { p with flg := { p.flg with scl := false } }
      (∀ x, attrAt s c.i net (mWid v (mN v - 1)) (bits w.lit.toNat 3 0) = .ok (s2, x) →
        Fires (.alpha w) s c s2 (taken c [0]) [only (if alphaTest (bits w.fn.toNat 4 3) (bits w.fn.toNat 2 0) x c.st.const then 0 else 1) t]) ∧
      (∀ tts, c.st.outs = [] → c.st.beta.length < membCap w.lit.toNat → ttsOf c.i net (mWids v) s = .ok (s2, tts) →
        let q := Tab.getD s2.fab.seq c.nd.place.core 0
        Fires (.memb w) s c { s2 with fab := { s2.fab with seq := Tab.put s2.fab.seq c.nd.place.core ((q + 1) % 2 ^ 32) } }
          ((c.i.onSt c.n fun x => { x with beta := x.beta ++ [⟨v, tts, q, 0⟩] }).clearFields c.n c.tag [0])
          [⟨none, ⟨v, c.tag, resFlg false [c.flg 0], q⟩⟩]) ∧
      (∀ k s3 bs, c.st.outs = [] → leftKey c net v s = .ok (s2, k) →
        matching (rightKey c net) k (below (c.tok 0).seq (sideOf c 1).2) s2 = .ok (s3, bs) →
        (mN v ≠ 3 ∨ bs = [] → sendOuts c s3 c.i 0 (bs.map fun b => (plusTok (mWids v ++ [mWid b.m 0]), 0)) = some s1 →
          exec (.joinb w) s = .next (endIfDone s1 c.iid)) ∧
        (bs.length ≤ 65535 →
          sendOuts c s3 (recount c (fun _ => bs.length) [(c.tok 0).seq]) 0 (if bs = [] then [(v, 0)] else []) = some s1 →
          exec (.negj w) s = .next (endIfDone s1 c.iid))) ∧
      (Tab.look c.st.score c.tag = none → scoreLook c net (c.tok 0) = .ok (some s1) → exec (.score w) s = .next (endIfDone s1 c.iid)) ∧
      (∀ e tts (sc : Bool), bit w.lit.toNat 12 = sc → bit c.lit 12 = sc → (sc = true → c.has 1 = true) → freeBasin s c.i.region.die = some e →
        ttsOf c.i net (mWids v) s = .ok (s2, tts) →
        let r := net.rules.getD (c.lit % 4096) ⟨0, 0, 0⟩
        basinOf s c.iid (fun b => decide (b.rule = r.rule) && decide (b.m = v)) = [] →
        Fires (.term w) s c ((s2.putBasin (Tab.put s2.fab.basin e ⟨r.rule, r.sal, if sc then fld (c.val 1) 31 0 else 0, .ready, mN v, c.iid, v, tts, 0⟩)).onNet c.iid
            fun n => { n with full := n.full.filter fun k => decide (k ≠ c.n) }) (taken c (if sc then [0, 1] else [0])) [])) ∧
    (∀ (w : NW) (s s1 s2 s3 : State) (c : Ctx) (net : Net) (k : Nat) (bs : List Beta), nodeCtx s = some c →
      tokPoisoned s c.iid c.i c.n c.tag c.nd = false → s.net c.iid = some net → c.st.outs = [] →
      c.has 0 = false → c.has 1 = true → mKind (c.val 1) = 0 →
      rightKey c net (c.val 1) s = .ok (s2, k) → matching (leftKey c net) k (below (c.tok 1).seq (sideOf c 0).2) s2 = .ok (s3, bs) →
      ((∀ b ∈ bs, mN b.m ≠ 3) → sendOuts c s3 c.i 1 (bs.map fun b => (plusTok (mWids b.m ++ [mWid (c.val 1) 0]), 0)) = some s1 →
        exec (.joinb w) s = .next (endIfDone s1 c.iid)) ∧
      ((∀ b ∈ bs, b.count < 65535) →
        sendOuts c s3 (recount c (fun n => n + 1) (bs.map Beta.seq)) 1 ((bs.filter fun b => decide (b.count = 0)).map fun b => (minusOf b.m, 0)) = some s1 →
        exec (.negj w) s = .next (endIfDone s1 c.iid))) ∧
    ∀ (iid node tag idx : Nat) (s s2 s3 : State) (c : Ctx) (net : Net) (bs : List Byte),
      nodeCtx { s with site := (iid, node, tag) } = some c → tokPoisoned s c.iid c.i c.n c.tag c.nd = false →
      s.net c.iid = some net → c.nd.op = 0xb8 → Tab.look c.st.score c.tag = some idx → c.has 1 = true →
      let v := fld (c.val 1) 31 0
      let out := [only 1 ⟨w64 v, c.tag, resFlg false [c.flg 1], 0⟩]
      canSend c.s c.i c.n c.nd c.tag out = true → readVa c.s c.i.who (scoreVa net idx) 16 = .ok (s2, bs) →
      scorePut s2 c net idx (toBytes 8 (scoreWord true false (leAt bs 0 8 % 2 ^ 56)) ++ toBytes 4 v) = .ok s3 →
      let i := takenSt c [1] fun n => { n with score := Tab.del n.score c.tag }
      canSend s3 i c.n c.nd c.tag out = true →
      exec (.scoreReply iid node tag) s = .next (endIfDone (sentFrom c s3 i out) c.iid)

/-- Each tile instruction computes its record on its dot engine (R299, R303, R304, R305, R306, R307, R308, R310, R311). -/
def Obligations.TileInstructionsCompute : Prop :=
  ∀ e ∈ tileInstrs, ∀ (eng : Nat) (s s1 : State) (r : DotRun) (o : DotOut), Tab.look s.eng.dots eng = some r →
      r.msg.top = e.2.1 → (∀ n, e.2.2.1 = some n → r.msg.tfn = n) → r.computed = false → r.stop = none → acqHeld r.msg s = false →
      e.2.2.2 r.descs r.msg (s.refreshTiles r.msg) = some (s1, .out o) →
      let sh := coreShard (eng / 4)
      let s2 := if o.fallback then { s1 with eng := { s1.eng with
        fallback := Tab.set s1.eng.fallback 0 sh (min (Tab.getD s1.eng.fallback sh 0 + 1) 0xffffffff) } } else s1
      exec (e.1 eng) s = .next (s2.putDot eng { r with out := chunksOf o.bytes, computed := true, flags := o.flags, doneWord := o.done })

/-- A tile node starts its record on its dot block, and a poisoned record stops (R39, R299, R300, R313). -/
def Obligations.TileNodesAndFaultStops : Prop :=
  (∀ (op : BitVec 8) (w : NW) (s s1 : State) (c : Ctx) (bs : List Byte) (ds : Tab Desc), nodeCtx s = some c → c.has 0 = true →
      tokPoisoned s c.iid c.i c.n c.tag c.nd = false →
      let eng := engOf c.nd.place.core c.nd.place.elem
      let m := nodeMsg c bs
      Tab.look c.s.eng.dots eng = none → (c.val 0).toNat % 64 = 0 → readVa c.s c.i.who (c.val 0).toNat 64 = .ok (s1, bs) →
      m.top = op.toNat → m.top ≠ 0xaa → canSend c.s c.i c.n c.nd c.tag [] = true → recCheck s1 (coreShard c.nd.place.core) m = none →
      (inAcc s1 (writeKey m) = true → writeKey m / 256 = c.nd.place.core) → fateOf s1 m = .ready ds →
      exec (.tileNodeFire op w) s = .next (endIfDone ((startRun eng m (some (c.iid, c.n, c.tag)) ds s1).active c.iid) c.iid)) ∧
    ∀ (eng : Nat) (s s1 : State) (r : DotRun) (code : Nat) (v : W), Tab.look s.eng.dots eng = some r → r.computed = false → r.stop = none →
      acqHeld r.msg s = false → compute r.descs r.msg s = some (s1, .stop code v) →
      exec (.dotEngineFaultStop eng) s = .next (s1.putDot eng { r with stop := some (2, code, v) })

/-- The tile-task scheduler checks, issues and retires records, and runs RINGDEF (R292, R296, R297, R298, R299, R312). -/
def Obligations.TileTasksAreScheduled : Prop :=
  (∀ (shard k : Nat) (x : RSlot) (s : State), (windowOf s shard).find? (fun e => !e.2.checked) = some (k, x) →
      (recCheck s shard x.msg = none → exec (.tileTaskCheck shard) s =
        .next (s.putRing shard { s.ring shard with slots := setAt (s.ring shard).slots k { x with checked := true } })) ∧
      ∀ reason, recCheck s shard x.msg = some reason →
        exec (.tileTaskCheck shard) s = .next (retireK x.msg (writeReply x.msg x.msg.tid 3 reason 0 (leaveRing shard k s)))) ∧
    (∀ (shard k eng : Nat) (m : Msg) (ds : Tab Desc) (s s1 : State), nextRec s shard = some (k, m, .ready ds) →
      (m.isRingdef = false → engSuits s shard m eng = true →
        exec (.tileTaskIssue shard eng) s = .next (startRun eng m none ds ((leaveRing shard k (stampTop shard k m s)).mark (.issued shard)))) ∧
      (m.isRingdef = true → m.tfn = 0 → defTiles m s = .inr s1 →
        exec (.ringdefTiles shard) s = .next ((retireSlot shard k m 0 0 (ringRun m).length (stampTop shard k m s1)).mark (.issued shard))) ∧
      (m.isRingdef = true → m.tfn = 1 → defRing m s = .inr s1 → exec (.ringdefRing shard) s = .next ((retireSlot shard k m 0 0 1 (stampTop shard k m s1)).mark (.issued shard)))) ∧
    (∀ (shard : Nat) (m : Msg) (rest : List Msg) (s : State), (s.ring shard).next = m :: rest → ringIdle s shard = true →
      fieldsOk m = true → m.prv = true →
      exec (.ringdefTasks shard) s = .next (replyTask m 0 0 1 (s.putRing shard ⟨w64 m.aux, m.ctxid, m.arg, 0, 0, [], rest⟩))) ∧
    ∀ (eng st code done : Nat) (r : DotRun) (s : State), Tab.look s.eng.dots eng = some r → r.node = none → dotReply r = some (st, code, done) →
      exec (.tileTaskRetire eng) s = .next (retireK r.msg (closeRun eng r st code done s))

/-- Engines start messages, write chunks and reply (R182, R183, R185, R197, R214, R299, R343). -/
def Obligations.EngineEventsComplete : Prop :=
  (∀ (src : Nat) (m : Msg) (rest : List Msg) (s : State), s.inbox src = m :: rest →
      (m.op = 0x75 → exec (.activeMessage src) s = .refused (.engineDefined src)) ∧
      (m.op ≠ 0x75 → 0x420 ≤ src → src ≠ srcDir → acqHeld m s = false → yields s m = false →
        exec (.activeMessage src) s = .next (startEngine m src (s.putInbox src rest))) ∧
      (m.op ≠ 0x75 → src = srcDir → relHeld m s = false → exec (.activeMessage src) s = .next (dirTurn m (s.putInbox src rest))) ∧
      (m.op ≠ 0x75 → src < 0x404 → exec (.activeMessage src) s = .next (basinTurn src s)) ∧
      (m.op ≠ 0x75 → 0x404 ≤ src → src < 0x420 → exec (.activeMessage src) s = .next (hardTurn src s))) ∧
    (∀ (id k : Nat) (c : Cmd) (s : State), s.eng.cmds.find? (fun c => decide (c.id = id)) = some c →
      ((∀ e ∈ s.eng.late, ¬ (e.1 = id ∧ e.2.1 = k)) → c.stop = none → yields s c.msg = false → bit c.chunks k = false → k < c.total → 0x70 ≤ c.msg.op → c.msg.op ≤ 0x72 →
        exec (.chunkWritten id k) s = .next (unCancel id (moveChunk c k s))) ∧
      ((∃ e ∈ s.eng.late, e.1 = id ∧ e.2.1 = k) → exec (.chunkWritten id k) s =
        .next (flushLate (fun e => decide (e.1 = id) && decide (e.2.1 = k)) s)) ∧
      (0x70 ≤ c.msg.op → c.msg.op ≤ 0x73 → ∀ r, c.over = some r → exec (.engineReply id) s = .next (replyCmd c r s))) ∧
    ∀ (id k eng : Nat) (r : DotRun) (s : State), (∀ e ∈ s.eng.late, ¬ (e.1 = id ∧ e.2.1 = k)) → s.eng.cmds.find? (fun c => decide (c.id = id)) = none →
      s.eng.dots.find? (fun e => decide (e.2.id = id)) = some (eng, r) → exec (.chunkWritten id k) s = .next (dotChunk eng r k s)

/-- Tokens are accepted, arrive, and return credits; walks and barrier arrivals complete (R36, R80, R154, R171, R208, R319). -/
def Obligations.TokensMove : Prop :=
  (∀ (iid k : Nat) (s : State) (i : Inv), s.inv iid = some i → i.phase ≠ .out →
      (∀ l, i.links[k]? = some l → arrivesNow s iid i l = true → firstLink i k l = true →
        exec (.tokenArrival iid k) s = .next (arriveTok (s.putInv iid { i with links := dropAt i.links k }) iid l)) ∧
      (∀ second b l, i.tbuf[k]? = some b → b.pending (b2n second) = true → firstEntry i k (b2n second) b = true →
        linkOf i b (b2n second) = some l →
        let i1 := i.acceptAt k (b2n second) b
        let s1 := markFreed s i (b2n second) b
        (sameCell i b.node l.dst = false →
          exec (.tokenAccept iid k second) s = .next (s1.putInv iid { i1 with links := i1.links ++ [l] })) ∧
        (sameCell i b.node l.dst = true → arrivesNow s iid i l = true →
          exec (.tokenAccept iid k second) s = .next (arriveTok (s1.putInv iid i1) iid l))) ∧
      ∀ key, i.credits[k]? = some key → (i.ct (creditDst i key)).hold = false →
        exec (.creditReturn iid k) s = .next (s.putInv iid (({ i with credits := dropAt i.credits k }.give key).payFrs iid (creditDst i key)))) ∧
    (∀ (slice : Nat) (s : State) (m : Miss) (rest : List Miss), Tab.getD s.mem.misses slice [] = m :: rest →
      let s1 := { s with mem := { s.mem with misses := Tab.set s.mem.misses [] slice rest } }
      let acc := if m.fetch then Acc.fetch else if m.write then Acc.write else Acc.read
      let held := (Tab.getD s.mem.tlb slice []).any fun e => e.covers m.ctxid m.va && (e.dirty || !m.write)
      (held = true → exec (.pageWalk slice) s = .next s1) ∧
      (held = false → (∀ s2 x, walkOnce s1 ⟨slice / 32, m.ctxid, 0, m.prv, none⟩ acc m.va = .ok (s2, x) → exec (.pageWalk slice) s = .next s2) ∧
        ∀ k, walkOnce s1 ⟨slice / 32, m.ctxid, 0, m.prv, none⟩ acc m.va = .error k → exec (.pageWalk slice) s = .next s1)) ∧
    ∀ (k pa : Nat) (s : State), s.eng.arrivals[k]? = some (pa, none) →
      exec (.barrierArrival k) s = .next (arrive { s with eng := { s.eng with arrivals := dropAt s.eng.arrivals k } } none pa)

/-- LOAD_COMPLETE and STORE_RETIRE perform the accesses of a thread in the order of R190 (R72, R165, R190). -/
def Obligations.AccessesComplete : Prop :=
  ∀ (tid k : Nat) (s : State) (e : Pend), (s.th tid).pend[k]? = some e → mayPerform (s.th tid).pend k = true →
      (e.kind.isL = true → (e.kind.isS = true → s.barred tid = false) → exec (.loadComplete tid k) s =
        .next (retire tid (setPend (performLoad s tid e).1 tid k (performLoad s tid e).2))) ∧
      (e.kind.isS = true → e.kind.isL = false → s.barred tid = false → exec (.storeRetire tid k) s =
        .next (retire tid (setPend (performStore s tid e).1 tid k (performStore s tid e).2)))

/-- A bank passes, a drain delta acts, and a wave turns its nodes (R144, R243, R244). -/
def Obligations.DeltasAndWavesComplete : Prop :=
  (∀ (b : Nat) (s : State), let x := Tab.getD s.mem.banks b .reset;
      (x.st = .passing → x.port = 0 → exec (.bankPass b) s = .next { s with mem := { s.mem with banks := Tab.put s.mem.banks b { x with st := .awaiting } } }) ∧
      (x.st = .awaiting → exec (.bankTokenArrival b) s =
        .next { s with mem := { s.mem with banks := Tab.put s.mem.banks b { x with st := .held, holder := x.receiver } } })) ∧
    (∀ (iid : Nat) (s : State) (i : Inv), s.inv iid = some i → i.phase = .delta → (∀ e ∈ i.words, drained i e.1 = true) →
      exec (.deltaDrainComplete iid) s = .next (endGraphCmd iid 0
        (s.putInv iid (i.words.foldl (fun i e => (i.reconf (constsOf s iid) e.1).onCt e.1 fun c => { c with hold := false }) i)))) ∧
    ∀ (iid n : Nat) (s s1 : State) (i : Inv) (nd : Node), s.inv iid = some i → Tab.look i.nodes n = some nd → i.phase = .wave →
      (i.ct n).waved = false → frsStands i n nd = true → bareSource i n nd = false → canOld i n nd = false →
      waveFlush ⟨s, iid, i, n, nd, baseTag iid⟩ = none → waveTurn ⟨s, iid, i, n, nd, baseTag iid⟩ = some s1 →
      exec (.freshetNodeReconfig iid n) s = .next (endWave iid s1)

/-- Snapshots, drains and stalls of an invocation complete (R318, R334, R335). -/
def Obligations.SavesAndStallsComplete : Prop :=
  ∀ (iid : Nat) (s : State) (i : Inv), s.inv iid = some i →
      (∀ n nd, Tab.look i.nodes n = some nd → i.phase = .snap → (i.ct n).saved = false → dotRuns s iid (some n) = false →
        (∀ f ∈ forwardFields i n nd, f ∈ (i.ct n).marks) → markerRoom s iid n i = true →
        exec (.snapNodeSave iid n) s = .next (snapStep iid (markSaving iid [n] (s.putInv iid (saveNode iid n i))))) ∧
      (∀ k l, i.links[k]? = some l → i.phase = .snap → (i.ct l.dst).saved = true → l.tok.flg.mrk = false → firstLink i k l = true → arrivesNow s iid i l = false →
        exec (.linkTokenRecord iid k) s = .next (snapStep iid (s.putInv iid
          ({ i with links := dropAt i.links k, links2 := i.links2 ++ [l] }.give (sendKey i l.node l.which l.dst l.tok.tag))))) ∧
      (i.phase = .snap → idleFor s i (saveWindow i) = true → dotRuns s iid none = false →
        exec (.snapForcedSave iid) s = .next (finishSave iid s)) ∧
      (i.phase = .drain → drainEmpty i = true ∨ idleFor s i (saveWindow i) = true → dotRuns s iid none = false →
        exec (.drainComplete iid) s = .next (finishSave iid s)) ∧
      (stalledRegion s i = true →
        let r := dumpStalls ⟨i.region.die, i.ctxid, i.owner, true, none⟩ i (i.region.dump.toNat + 65536) (i.nodes.map Prod.fst) s
        exec (.stallNoeos iid) s = .next (recElem (r.1.onInv iid fun i => { i with raised := true }) i i.region.router cSTALL
          (w64 (iid + b2n r.2 * 2 ^ 18))))

/-- The region scheduler ages, expires, grants, pre-empts and restores (R330, R331, R332, R333, R337). -/
def Obligations.SchedulerEventsComplete : Prop :=
  (∀ (die k : Nat) (s : State) (r : Request), (s.fab.reqs.filter fun r => decide (r.die = die))[k]? = some r →
      r.level - r.prio < s.since r.since / (16 * r.quant) → r.level < 3 →
      exec (.requestAging die k) s = .next { s with fab := { s.fab with
        reqs := s.fab.reqs.map fun q => if q = r then { q with level := q.level + 1 } else q } }) ∧
    (∀ (iid : Nat) (s : State) (i : Inv), s.inv iid = some i → i.phase = .run → i.cmd = none →
      i.region.quant ≤ s.since i.region.began →
      ((∀ r ∈ s.fab.reqs, r.die ≠ i.region.die) → exec (.quantumExpiry iid) s =
        .next (s.putInv iid { i with region := { i.region with began := s.gtsc, expired := false } })) ∧
      ((∃ r ∈ s.fab.reqs, r.die = i.region.die) → exec (.quantumExpiry iid) s =
        .next (s.putInv iid { i with region := { i.region with expired := true } }))) ∧
    (∀ (die : Nat) (s s1 : State) (r : Request) (m : Msg), served s die = some r → r.msg = some m → grantMsg m r (dropReq s r) = some s1 →
      exec (.regionGrant die) s = .next s1) ∧
    (∀ (die : Nat) (s : State) (r : Request) (rest : List Request) (x y iid : Nat) (i : Inv), inOrder s die = r :: rest → spotOf s r = none →
      (∀ e ∈ s.fab.invs, e.2.saver = .scheduler → e.2.region.die ≠ die) → preemptOrigin s r = some (x, y) →
      firstVictim ((regionsOn s die).filter fun e => overlap e.2.region x y r.w r.h) = some (iid, i) →
      exec (.preempt die) s = .next (preemptInv iid i s)) ∧
    ∀ (iid : Nat) (s : State) (i : Inv) (r : Request) (x y k : Nat), s.inv iid = some i → served s (iid / 65536) = some r → r.msg = none →
      r.iid = iid → spotOf s r = some (x, y) → freeSlot s i.ctxid = some k →
      exec (.schedulerRestore iid) s = .next (restoreHeld r x y i (dropReq s r))

/-- Tasks commit, firings start, deltas apply and inject (R175, R177, R282, R283). -/
def Obligations.TasksAndFiringsComplete : Prop :=
  (∀ (s : State) (k : Task) (rest : List Task) (tid : Nat), s.tasks = k :: rest → k.tid = some tid → s.frozen tid = false →
      withdrawnNow s = none → mayCommit s k = true →
      (∀ w, (s.th tid).why = .commit w → (s.th tid).l = 0 → (s.th tid).s = 0 →
        exec .taskCommit s = .next (endedWait (commitTask s k) tid 0)) ∧
      ((s.th tid).why = .irrevocable → exec .taskIrrevocable s =
        .next (((commitLines s k).onTask k.id fun t => { t with irrev := true }).onTh tid fun t => { t with st := .runnable, why := .none }))) ∧
    (∀ (die tid : Nat) (s : State) (f : Firing) (b : Basin) (i : Inv) (n : Net),
      (s.fab.firings.filter fun f => decide (f.ts % 65536 = 0x400 + die)).find? (fun f => (firingPlace s die f).isSome) = some f →
      Tab.look s.fab.basin f.entry = some b → s.inv b.net = some i → s.net b.net = some n →
      (admitted die n.fsh).findSome? (haltedThread s) = some tid →
      let s1 := startThread s tid (firingFrom f i.modul) f.act f.data f.recva (w64 f.ts)
      let s2 := { s1 with tasks := s1.tasks.map fun (t : Task) => if t.firing = some f.entry then { t with tid := some tid, shard := shardOf tid } else t }
      exec (.firingStart die) s = .next { s2 with fab := { s2.fab with firings := s2.fab.firings.erase f } }) ∧
    (∀ (net : Nat) (s s1 : State) (m : Msg) (rest : List Msg), s.inbox (basinFor (w64 net)) = m :: rest → m.isDelta = true → m.net = net →
      applyNow m (s.putInbox (basinFor (w64 net)) rest) = some s1 → exec (.deltaApply net) s = .next s1) ∧
    ∀ (net : Nat) (s : State) (n : Net) (i : Inv) (v : W) (rest : List W), s.net net = some n → s.inv net = some i → n.queue = v :: rest →
      i.phase ≠ .out → i.phase ≠ .drain → (i.ct (n.root / 4)).saved = false → (i.ct (n.root / 4)).hold = false →
      (i.ct (n.root / 4)).blocked = false →
      let t : Tok := ⟨v, baseTag net, .zero, 0⟩
      ∀ nd, Tab.look i.nodes (n.root / 4) = some nd →
        (nd.op ≠ 0x96 → (i.slot (n.root / 4) (baseTag net)).has (n.root % 4) = false →
          let x := (i.slot (n.root / 4) (baseTag net)).set (n.root % 4) t
          exec (.deltaInject net) s = .next ((s.putInv net ((i.putSlot (n.root / 4) (baseTag net) x).activity s)).putNet net { n with queue := rest })) ∧
        (nd.op = 0x96 → freeSlots i (rootKey (n.root / 4)) (threadCap nd) ≠ 0 →
          exec (.deltaInject net) s = .next ((markQueued (s.putInv net (((i.onSt (n.root / 4) fun x => { x with line := x.line ++ [t] }).take (rootKey (n.root / 4))).activity s))
            net (n.root / 4) 0 (i.st (n.root / 4)).line).putNet net { n with queue := rest }))

/-- Parked and stalled threads go on when their condition holds (R41, R100, R257, R320, R341). -/
def Obligations.ThreadsWake : Prop :=
  (∀ (tid : Nat) (s : State), (s.th tid).st = .parked → s.frozen tid = false →
      (∀ a b c d e woken, (s.th tid).why = .watch a b c d e woken →
        (woken = true ∨ (s.th tid).intReady = true → exec (.threadWake tid) s = .next (finishPark tid s)) ∧
        (timedOut s c d = true → exec (.parkTimeout tid) s = .next (finishPark tid s))) ∧
      (∀ a b c d e woken, (s.th tid).why = .barrier a b c d e woken →
        (woken = true ∨ (s.th tid).intReady = true → exec (.threadWake tid) s = .next (finishPark tid s)) ∧
        (timedOut s c d = true → exec (.parkTimeout tid) s = .next (finishPark tid s))) ∧
      ((s.th tid).why = .idle ∨ (∃ no, (s.th tid).why = .name no) → (s.th tid).intReady = true →
        exec (.threadWake tid) s = .next (finishPark tid s))) ∧
    (∀ (tid : Nat) (s : State) (w : WaitOpen), s.tab.waits.find? (fun w => decide (w.msg.tid = tid) && timedOut s w.timeout w.start) = some w →
      exec (.dopenTimeout tid) s = .next (failOpen w.msg cTIMEOUT (w64 (a51 w.msg))
        { s with tab := { s.tab with waits := s.tab.waits.filter fun x => decide (x.msg ≠ w.msg) } })) ∧
    ∀ (tid : Nat) (s : State), (s.th tid).st = .stalled →
      (∀ eng m, (s.th tid).why = .inbox eng m → inboxRoom s eng = true → exec (.stallResume tid) s = .next (deliverStalled tid eng m s)) ∧
      (∀ m s1, (s.th tid).why = .ring m → arriveTask (shardOf tid) m s = some s1 → exec (.stallResume tid) s = .next (completes tid s1)) ∧
      (∀ d a old, (s.th tid).why = .barrierTs d a old → (∀ t ∈ s.tasks, a.toNat ≤ t.ts) →
        exec (.stallResume tid) s = .next (completes tid (s.onTh tid fun t => t.wg d old))) ∧
      ∀ w, (s.th tid).why = .counter w → stallOver s tid (.counter w) = true → s.frozen tid = false →
        exec (.stallResume tid) s = .next (reissue tid s)

/-- Doorbells and register writes of the PCIe pages complete (R216, R217, R345, R346, R347). -/
def Obligations.QueuePagesComplete : Prop :=
  ∀ (s : State) (q fnc v : Nat),
      let x := Tab.getD s.out.queues q .reset
      let p := Tab.getD s.out.pages fnc .reset
      (q < 64 → exec (.doorbell q v) s = .next (s.putQueue q { x with wr := v % 2 ^ 32 })) ∧
      (q < 64 → x.rd = x.wr →
        exec (.queueConfigWrite q 0x008 v) s = .next (s.putQueue q { x with base := w64 (bits v 63 6 * 64 + v % 2) }) ∧
        exec (.queueConfigWrite q 0x010 v) s = .next (s.putQueue q { x with size := v % 32 }) ∧
        exec (.queueConfigWrite q 0x018 v) s = .next (s.putQueue q { x with ridxa := w64 v })) ∧
      (q < 64 → x.rd ≠ x.wr → ∀ reg, exec (.queueConfigWrite q reg v) s = .next s) ∧
      (q < 64 → x.status ≠ 0 → exec (.queueStatusClear q) s = .next ((dropChain q s).putQueue q { x with status := 0, bufs := [] })) ∧
      (fnc < 17 → exec (.errcntClear fnc 0) s = .next (s.putPage fnc { p with errcnt := 0 })) ∧
      (fnc < 17 → exec (.registerWrite true fnc 0 v) s = .next (s.putPage fnc { p with actx := v % 65536 }) ∧
        exec (.registerWrite true fnc 8 v) s = .next (s.putPage fnc { p with abase := w64 (v / 65536 * 65536) }) ∧
        (∀ n k, queueOf s fnc n = some k → n < 255 → exec (.registerWrite true fnc ((n + 1) * 4096 + 0x028) v) s =
          .next (s.putQueue k { s.queue k with qctx := v % 65536 }))) ∧
      ∀ off, exec (.registerWrite false fnc off v) s = .next s

/-- The commands of a command queue are dispatched, complete, or halt their queue (R216, R217, R347, R348, R349). -/
def Obligations.QueueCommandsComplete : Prop :=
  (∀ (s s1 : State) (q : Nat) (bs : List Byte), queueOn s q = true → nextEntry s q = .ok (s1, bs) →
      let id := s1.nextId
      let later := fun (x : State) => { x with nextId := x.nextId + 1 }
      let done := { HCmd.start id with finished := true }
      (entryOk bs = true → fenceOk s q bs = true →
        (cType bs = 0 → exec (.nop q) s = .next (dispatchCmd q bs done (later s1))) ∧
        (cType bs = 1 → ∀ tid, haltedThread s1 (leAt bs 40 1 / 32 * 32 + leAt bs 40 1 % 32) = some tid →
          let pc := alignPc (w64 (leAt bs 16 8))
          let s2 := startThread s1 tid (queueThread s1 (s1.queue q) pc) pc (w64 (leAt bs 24 8)) (w64 (leAt bs 32 8)) 0
          exec (.thread q) s = .next (dispatchCmd q bs { HCmd.start s2.nextId with tid := some tid, run := id } (later s2))) ∧
        (cType bs = 2 →
          let s2 := dispatchCmd q bs (HCmd.start id) (later s1)
          exec (.delta q) s = .next (if leAt bs 40 3 = 0 then Sys2Proof.Machine.deltaLaunch bs (s1.queue q) id s2
            else Sys2Proof.Machine.deltaApply bs (s1.queue q) id (leAt bs 40 3) s2)) ∧
        (cType bs = 3 → (s1.queue q).bufs.length < 4 → (∀ b ∈ (s1.queue q).bufs, b.va ≠ w64 (leAt bs 16 8)) →
          let c := { HCmd.start id with q := q, bytes := bs, lastOf := (passEntry (s1.queue q).bufs).2 }
          exec (.indirect q) s = .next (({ s1 with nextId := id + 1, out := { s1.out with cmds := s1.out.cmds ++ [c] } }.putQueue q
            { s1.queue q with bufs := ⟨w64 (leAt bs 16 8), leAt bs 24 3, 0, id⟩ :: (passEntry (s1.queue q).bufs).1 }).served q)) ∧
        (cType bs = 4 → ∀ s2 v, readVa s1 ((s1.queue q).who s1) (leAt bs 16 8) 8 = .ok (s2, v) → leAt bs 24 8 ≤ ofBytes v →
          exec (.waitsig q) s = .next (dispatchCmd q bs { HCmd.start s2.nextId with finished := true } (later s2))) ∧
        (cType bs = 5 → ∀ s2, writeVa s1 ((s1.queue q).who s1) none (leAt bs 16 8) ((bs.drop 24).take 8) = .ok s2 →
          exec (.write q) s = .next (dispatchCmd q bs { HCmd.start s2.nextId with finished := true } (later s2)))) ∧
      (entryOk bs = false → exec (.illegalCommandEntry q) s = .next (haltQueue cILLEGAL q s1))) ∧
    ∀ (s : State) (c : HCmd), s.out.cmds.find? (fun d => decide (d.id = c.id)) = some c → hostDone s c = true →
      let sig := leAt c.bytes 8 8
      let s1 := if sig = 0 then s else benchWrite c.q sig (fun _ v => v + 1) s
      let res := if cType c.bytes = 2 then leAt c.bytes 48 8 else 0
      let s2 := if res = 0 then s1 else benchWrite c.q res (fun _ _ => c.result.toNat) s1
      let s3 := if cIrq c.bytes then
        { s2 with out := { s2.out with msix := ((s2.queue c.q).fnc * 64 + cVec c.bytes) :: s2.out.msix } } else s2
      exec (.commandComplete c.id) s = .next { s3 with out := { s3.out with cmds := (s3.out.cmds.filter fun d => decide (d.id ≠ c.id)).map fun d => if c.lastOf = some d.id then { d with finished := true } else d } }

/-- The aperture, peers and timed-out host reads complete (R351, R352, R353). -/
def Obligations.OutsideAccessesComplete : Prop :=
  (∀ (s s1 : State) (fnc off len : Nat) (pas : List Nat), fnc < 17 → off + len ≤ 64 * gib →
      reachVa s (apertureWho s fnc) (apertureVa s fnc off) len = .ok (s1, pas) →
      exec (.hostApertureRead fnc off len) s = .next (s1.answer (.data (pas.map s1.mem.rd) (pas.any s1.mem.bad)))) ∧
    (∀ (s s1 : State) (fnc off : Nat) (data : List Byte), fnc < 17 → off + data.length ≤ 64 * gib →
      writeVa s (apertureWho s fnc) none (apertureVa s fnc off) data = .ok s1 → exec (.hostApertureWrite fnc off data) s = .next s1) ∧
    (∀ (s : State) (fnc off a : Nat) (data : List Byte) (k : XKind), fnc < 17 → off + data.length ≤ 64 * gib →
      writeVa s (apertureWho s fnc) none (apertureVa s fnc off) data = .error (k, a) →
      exec (.hostApertureWrite fnc off data) s = .next (apertureFail fnc (pageValue k .write a) s)) ∧
    (∀ (s : State) (fnc off : Nat), exec (.hostAtomicop fnc off) s = .next { s with out := { s.out with reply := .unsupported } }) ∧
    (∀ (s : State) (pa n : Nat) (bs : List Byte), (s.mem.kind pa = .lp6 ∨ s.mem.kind pa = .pool) →
      (let u := s.refresh (upto pa n);
        exec (.peerRequest (.read pa n)) s = .next (u.answer (.data (u.mem.rds pa n) (u.mem.bads pa n)))) ∧
      exec (.peerRequest (.write pa bs)) s = .next (homeWrite s none pa bs) ∧
      (s.mem.bad pa = false → ∀ fn x, let u := s.refresh (upto pa (atomN fn));
        exec (.peerRequest (.atom fn pa x)) s =
          .next ((homeWrite s none pa (toBytes (atomN fn) (atomOp fn (u.mem.word pa (atomN fn)) x).1)).answer (.data (u.mem.rds pa (atomN fn)) false)))) ∧
    (∀ (s : State) (r : PeerReq), s.mem.kind (peerPa r) ≠ .lp6 → s.mem.kind (peerPa r) ≠ .pool →
      exec (.peerRequest r) s = .fault (.reservedAddress (peerPa r))) ∧
    ∀ (s : State) (tid k : Nat) (e : Pend), (s.th tid).pend[k]? = some e → e.kind.isL = true → e.done = false →
      (∃ p ∈ e.pas, s.mem.kind p = .host ∨ s.mem.kind p = .peer) →
      exec (.hostReadTimeout tid k) s = .next (retire tid (setPend s tid k { e with done := true, poison := true }))

/-- Ports, collective contributions, bridges and the patrol scrub complete (R161, R162, R354, R356, R359). -/
def Obligations.LinkAndStorageEventsComplete : Prop :=
  (∀ (s : State) (p : Nat) (f : List Byte), let x := Tab.getD s.out.ports p .reset;
      (p < 12 → x.up = true → flitGood f = true → flitSeq f = x.expect → exec (.flitReceive p f) s = .next (s.putPort p (x.accept f))) ∧
      (flitGood f = false ∨ flitSeq f ≠ x.expect ∨ 12 ≤ p → exec (.flitReceive p f) s = .next s) ∧
      (∀ g n rest, p < 12 → x.up = true → x.replay = (g, n) :: rest →
        exec (.flitReplay p) s = .next (s.putPort p { x with replay := (g, n + 1) :: rest })) ∧
      (p < 12 → x.up = true → (∃ e ∈ x.replay, 8 ≤ e.2) → exec (.portDown p) s =
        .next ((x.outq.foldl (moveOffer p) ((x.replay.map Prod.fst).reverse.foldl (moveFlit p)
          (s.putPort p { x with up := false, replay := [], outq := [] }))).logEvent 0x05 p))) ∧
    (∀ (s : State) (c : Cmd) (r : Nat) (data : List Byte),
      s.eng.cmds.find? (fun d => decide (d.id = c.id) && decide (d.msg.op = 0x73) && d.stop.isNone) = some c →
      c.msg.fn ≠ 4 → r < c.members → r ∉ c.covered → data.length = partBytes c.msg.fn c.members c.elems c.unit →
      exec (.reduceContribution c.id [r] data) s = .next (onCmd c.id (fun c => { c with parts := Tab.put c.parts r ([r], data) }) s)) ∧
    (∀ (s : State) (b q v : Nat) (data : List Byte), q < 64 →
      let x := Tab.getD s.out.nvme (b * 64 + q) .reset
      (b < 1024 → exec (.nvmeDoorbell b q v) s = .next (homeWrite s none (0xc000000000000 + b * 2 ^ 40 + 0x1000 + 8 * q) (toBytes 8 v))) ∧
      (x.cqSize = 0 → exec (.nvmeCompletion b q data) s = .next s) ∧
      (x.cqSize ≠ 0 → data.length = 16 →
        let s1 := homeWrite (s.putNvme (b * 64 + q) { x with tail := x.tail + 1 }) none (x.cq + x.tail % x.cqSize * 16) data
        exec (.nvmeCompletion b q data) s = .next (match x.tid with
          | some tid => s1.post tid (x.vec % 64)
          | none => s1))) ∧
    ∀ (s : State) (line : Nat) (c : Corrector), correctorOf s.mem line = some c →
      exec (.patrolScrub line 1) s = .next (correct c s) ∧
      (atomicOn s (line * 64) = false → exec (.patrolScrub line 2) s = .next { s with mem := s.mem.setBad (line * 64) true })

/-- Reset, boot, firmware update, sensors and power removal complete (R10, R12, R361, R362, R363, R364, R365). -/
def Obligations.BootAndPowerComplete : Prop :=
  ∀ (s : State),
      exec .reset s = .next { resetDies s with well := { resetWell s.well.boot s.well with tripped := s.well.tripped } } ∧
      (∀ t, exec .reset s = .next t → (∀ pa, ownMem s pa = true → t.mem.rd pa = 0) ∧ t.well.flash = s.well.flash ∧ t.well.fuses = s.well.fuses) ∧
      (s.well.boot = .off → s.well.tripped = false → exec .powerOnBoot s = .next (match chooseSlot s.well with
        | none => { s with well := { s.well with boot := .recovery } }
        | some k => startDies (measure 0 ((logOpen 0x06 k (slotRbi s.well k) { s with well := { s.well with slot := k } }).onWell resumeIndex)))) ∧
      (s.well.boot = .off → s.well.tripped = true → exec .powerOnBoot s = .next s) ∧
      (s.well.boot = .dark → exec .powerOnBoot s = .next (startDies s)) ∧
      ({ startDies s with well := s.well } = { measure 3 (measure 2 (logChannels (measure 1 (clearDies s)))) with well := s.well } ∧
        (startDies s).well.boot = .waiting ∧ (startDies s).well.groups = (upto 0 32).map s.mem.trained) ∧
      (∀ image, s.well.boot = .waiting → s.well.tripped = false →
        let rbi := slotRbi s.well s.well.slot
        let m := measure 4 s
        let s1 := { m with well := { m.well with boot := .running } }
        exec (.kernelImageLoad image) s = .next (if signedBy image (slotKey s.well s.well.slot) = true then
          (if s1.well.fuses < rbi then { s1 with well := { s1.well with fuses := rbi } }.logEvent 0x08 rbi else s1) else logBadImage s)) ∧
      (∀ image, s.well.boot = .running ∨ s.well.boot = .waiting → image.length ≤ slotSize →
        exec (.pldmFirmwareUpdate image) s =
          .next { s with well := flipMarker (1 - s.well.slot) (flashWr ((1 - s.well.slot) * slotSize) image s.well) }) ∧
      exec .vcoreRemoved s = .next { clearDies s with well := { s.well with boot := s.well.bootDark, tripped := false, halted := [], stepping := none } } ∧
      (∀ pa, s.mem.kind pa = .lp6 → (clearDies s).mem.rd pa = s.mem.rd pa) ∧
      exec .vauxRemoved s = .next { clearWellLines s with well := { resetWell .off s.well with tripped := s.well.tripped } } ∧
      ∀ samples : List Nat, s.well.boot ≠ .off → s.well.boot ≠ .dark → s.well.tripped = false →
        let hot := (samples.take 272).foldl max 0
        let c := tripCause samples hot
        let slow := { s with well := { s.well with mhz := max 750 (s.well.mhz - 250) } }
        ((1100 ≤ hot ∨ ∃ e ∈ rails.zip (samples.drop 272), railBad e.1 e.2 = true) → exec (.sensorSample samples) s =
          .next ((logOpen 0x02 c.1 c.2 (resetDies s)).onWell fun w => { resetWell w.boot w with tripped := true })) ∧
        ((∀ e ∈ rails.zip (samples.drop 272), railBad e.1 e.2 = false) →
          (hot < 900 → exec (.sensorSample samples) s = .next { s with well := { s.well with mhz := min 3000 (s.well.mhz + 250) } }) ∧
          (900 ≤ hot → hot < 950 → exec (.sensorSample samples) s = .next s) ∧
          (950 ≤ hot → hot < 1100 →
            (750 < s.well.mhz → exec (.sensorSample samples) s = .next (slow.logEvent 0x01 (max 750 (s.well.mhz - 250)))) ∧
            (s.well.mhz = 750 → exec (.sensorSample samples) s = .next s) ∧
            (s.well.mhz < 750 → exec (.sensorSample samples) s = .next ({ s with well := { s.well with mhz := 750 } }.logEvent 0x01 750))))

/-- The event log, measurements, key slots and the debug port complete (R366, R367, R368, R369, R370). -/
def Obligations.SecurityEventsComplete : Prop :=
  ∀ (s : State),
      (s.firmware = true → exec (.eventLogRead false) s = .next (s.answer (.data (s.well.log.flatMap logBytes) false))) ∧
      (∀ nonce : List Byte, s.firmware = true → nonce.length = 32 → s.well.nextSig < 2 ^ 40 → s.well.nextSig < s.well.endSig →
        let body := reportBytes s.well nonce
        exec (.attestationReport nonce) s =
          .next ({ s with well := { s.well with nextSig := s.well.nextSig + 1 } }.answer (.data (body ++ Config.sign s.well.nextSig body) false))) ∧
      (∀ (reg : Nat) (d : List Byte), s.mailbox = true → reg = 5 ∨ reg = 6 → d.length = 32 →
        exec (.measurementExtend reg d) s =
          .next { s with well := { s.well with mx := Tab.put s.well.mx reg (sha256 (Tab.getD s.well.mx reg (List.replicate 32 0) ++ d)) } }) ∧
      (∀ (slot owner : Nat) (key : List Byte), s.mailbox = true → slot < 64 → key.length = 32 →
        exec (.keySlotWrite slot owner key) s = .next { s with well := { s.well with keys := Tab.put s.well.keys slot ⟨owner, key⟩ } }) ∧
      (∀ (slot : Nat) (k : KeySlot), s.mailbox = true → Tab.look s.well.keys slot = some k →
        exec (.keySlotRead slot k.owner) s = .next (s.answer (.data k.key (slotBad s slot))) ∧
        ∀ other, other ≠ k.owner → exec (.keySlotRead slot other) s = .next (s.answer .refused)) ∧
      (∀ slot, s.mailbox = true → exec (.keySlotClear slot) s = .next { s with well := { s.well with keys := Tab.del s.well.keys slot } }) ∧
      (∀ nonce : List Byte, s.firmware = true → nonce.length = 32 →
        exec (.debugNonceRequest nonce) s = .next ({ s with well := { s.well with nonce := some nonce } }.answer (.data nonce false))) ∧
      (∀ token : List Byte, s.firmware = true → match tokenOk s token with
        | some (l, e) =>
          let s1 := closeAll (clearWellLines { s with well := { s.well with nonce := none, keys := [] } })
          let mx7 := sha256 (Tab.getD s1.well.mx 7 (List.replicate 32 0) ++ sha256 token)
          exec (.debugUnlock token) s = .next (logOpen 0x07 l e { s1 with well := { s1.well with mx := Tab.put s1.well.mx 7 mx7, debug := some (l, e) } })
        | none => exec (.debugUnlock token) s = .next (({ s with well := { s.well with nonce := none } } : State).answer .refused)) ∧
      (∀ l e, s.well.debug = some (l, e) → e < s.gtsc →
        exec .debugExpiry s = .next { s with well := { s.well with debug := none, halted := [], stepping := none, breaks := [] } }) ∧
      (∀ r, debugLevel s < debugNeeds r → exec (.debugPortAccess r) s = .next (s.answer .refused)) ∧
      (1 ≤ debugLevel s → (∀ tid, tid < 1024 → exec (.debugPortAccess (.readThread tid)) s = .next (s.answer (.data (ctxBytes s tid 0) false))) ∧
        ∀ pa n, (ownMem s pa = true → exec (.debugPortAccess (.readMem pa n)) s = .next (s.answer (.data ((s.refresh (upto pa n)).mem.rds pa n) (s.mem.bads pa n)))) ∧
          (ownMem s pa = false → exec (.debugPortAccess (.readMem pa n)) s = .fault (.reservedAddress pa))) ∧
      (2 ≤ debugLevel s →
        (∀ shard, shard < 128 → exec (.debugPortAccess (.halt shard)) s =
          .next { s with well := { s.well with halted := shard :: s.well.halted.filter fun x => decide (x ≠ shard) } }) ∧
        (∀ tid, shardOf tid ∈ s.well.halted → exec (.debugPortAccess (.step tid)) s =
          .next { s with agenda := .thread tid :: s.agenda, well := { s.well with stepping := some tid } }) ∧
        ∀ shard, exec (.debugPortAccess (.release shard)) s =
          .next { s with well := { s.well with halted := s.well.halted.filter fun x => decide (x ≠ shard) } }) ∧
      (3 ≤ debugLevel s →
        (∀ pa bs, ownMem s pa = true → exec (.debugPortAccess (.writeMem pa bs)) s = .next (homeWrite s none pa bs)) ∧
        (∀ off v, off < 0x10000000 → ¬(0x8004000 ≤ off ∧ off < 0xc000000) → exec (.debugPortAccess (.writeFlash off v)) s =
          .next { s with well := flashPut off v s.well }) ∧
        ∀ mhz, exec (.debugPortAccess (.writeClock mhz)) s = .next { s with well := { s.well with mhz := mhz } })

/-- A step runs the instruction that the word at the pc, or in the node, decodes to (R40, R41, R49, R62, R98). -/
def Obligations.StepRunsTheDecodedInstruction : Prop :=
  (∀ (s s1 : State) (tid : Nat) (rest : List Turn) (x : Xl), s.agenda = .thread tid :: rest →
      let s0 := { s with agenda := rest }
      let s' := takeIssue tid s0
      nextThread s0 (shardOf tid) = some tid → (s'.th tid).imp = [] → s'.specul tid = none →
      missBlocked s' (s'.whoOf tid) (s'.th tid).pc.toNat = none → translate s' (s'.whoOf tid) .fetch (s'.th tid).pc.toNat = .ok (s1, x) →
      let s2 := reachLine s1 x
      s2.mem.bad x.pa = false →
      let w := w64 (s2.mem.word x.pa 8)
      (∀ i, decodeThread w = .ok i → step s = match exec i s2 with
        | .next t => .next (endFinished t)
        | o => o) ∧
      ((∀ i, decodeThread w ≠ .ok i) → step s = match exec (.illegalInstructionWord w) s2 with
        | .next t => .next (endFinished t)
        | o => o)) ∧
    (∀ (s : State) (iid n tag : Nat) (rest : List Turn) (i : Inv) (nd : Node) (e : Instr), s.agenda = .fire iid n tag :: rest →
      s.inv iid = some i → Tab.look i.nodes n = some nd → (i.ct n).blocked = false → ({ s with agenda := rest } : State).powered = true →
      decodeNode nd.word = .ok e →
      let s0 := { s with agenda := rest }
      let s1 := { s with agenda := rest, site := (iid, n, tag) }
      (nodeReady e s1 = false → step s = heldBack s0 (exec e s1)) ∧
      (nodeReady e s1 = true → mayFire s0 iid n tag = true → step s = heldBack s0 (exec e (takeShot s1 iid n))) ∧
      (nodeReady e s1 = true → mayFire s0 iid n tag = false → step s = .next s0)) ∧
    (∀ (s : State) (iid : Nat) (rs : List Slotted) (r : Slotted), chooseSlotOf s iid rs = some r →
      let guard := fun (x : Slotted) => x.no = s.cycle % 64 ∧ x.urg = false ∧ (iid, x.node) ∈ s.elder
      let before := fun (x y : Slotted) => tagAge iid x.tag < tagAge iid y.tag ∨ (tagAge iid x.tag = tagAge iid y.tag ∧ x.no < y.no)
      r ∈ rs ∧ (guard r ∨ (∀ x ∈ rs, ¬ guard x) ∧
        ((r.urg = true ∧ ∀ x ∈ rs, x.urg = true → ¬ before x r) ∨ ((∀ x ∈ rs, x.urg = false) ∧ ∀ x ∈ rs, ¬ before x r)))) ∧
    (∀ (s : State) (e : Instr) (rest : List Turn), s.agenda = .happen e :: rest → s.dead = false →
      let s0 := { s with agenda := rest }
      (∀ s1, eventTurn e s0 = some s1 → step s = heldBack s0 (exec e s1)) ∧ (eventTurn e s0 = none → step s = .next s0)) ∧
    (∀ s t : State, heldBack s (.next t) =
      if (∃ e ∈ t.mem.misses, 288 < e.2.length) ∧ ∀ e ∈ s.mem.misses, e.2.length ≤ 288 then .next s else .next t) ∧
    ∀ s : State, s.agenda = [] → s.dead = false → s.powered = true → step s = step { s with agenda := cycleTurns s }

/-- Words that the spec works out bit by bit decode to the instructions it names (R48, R51, R58, R62, R97, R170, R236, R293, R315, R339). -/
def Obligations.SpecWordsDecode : Prop :=
  decodeWord 0x000001830a008000#64 = .ok (.add ⟨0, 0, 3, 3, 5, 0, 0x8000⟩) ∧
    decodeWord 0x1c1c058828000000#64 = .ok (.hash ⟨7, 0, 11, 8, 20, 0, 0⟩) ∧
    decodeWord 0x3620208600100000#64 = .ok (.fcmp ⟨8, 0, 65, 6, 0, 4, 0⟩) ∧
    decodeWord 0x2000245900000000#64 = .ok (.mov ⟨0, 0, 72, 89, 0, 0, 0⟩) ∧
    decodeWord 0x4800407ffffffffa#64 = .ok (.br ⟨0, 1, 0, 0x7ffffffffa⟩) ∧
    decodeWord 0x68003c3fc0000000#64 = .ok (.wait ⟨0, 0, 15, 0, 15, 15, 0⟩) ∧
    decodeWord 0x54000403ab000000#64 = .ok (.stb ⟨0, 0, 8, 3, 5, 0, 1, 3, 0⟩) ∧
    decodeWord 0xb100038600000000#64 = .ok (.wmretract ⟨0, 0, 7, 6, 0, 0, 0, 0, 0⟩) ∧
    decodeWord 0xc200028089000000#64 = .ok (.dbindSet ⟨0, 0, 5, 0, 4, 0, 1, 1, 0⟩) ∧
    decodeWord 0xc800020600000000#64 = .ok (.glaunch ⟨0, 0, 4, 6, 0, 0, 0, 0, 0⟩) ∧
    decodeWord 0xd000000000000005#64 = .ok (.trap ⟨0, 0, 0, 0, 5⟩) ∧
    decodeWord 0x32a00070000c0000#64 = .ok (.nodeArithFire 0x32 ⟨8, 0x1c, 3, 0, 0, 0, 0, 0⟩) ∧
    decodeWord 0xb880000000940488#64 = .ok (.score ⟨0, 0, 0x25, 0, 0, 0, 0, 0x488⟩) ∧
    decodeWord 0xa1800050000c0000#64 = .ok (.tileNodeFire 0xa1 ⟨0, 0x14, 3, 0, 0, 0, 0, 0⟩) ∧
    decodeWord 0xb780000c000c1003#64 = .ok (.term ⟨0, 3, 3, 0, 0, 0, 0, 0x1003⟩) ∧
    decodeWord 0x3620008600100000#64 = .error .illegalFields ∧ decodeWord 0x54000403bb000000#64 = .error .illegalFields ∧
    decodeWord 0x501c018578000000#64 = .error .illegalFields ∧ decodeWord 0xca00048880000000#64 = .error .illegalFields

/-- Decoding an encoded well-formed word gives the instruction back, and every decoded word encodes to itself (R48, R51, R58, R61, R62, R63). -/
def Obligations.DecodeOfEncode : Prop :=
  (∀ (i : Instr) (w : W), i.WF → encode i = some w → decodeWord w = .ok i) ∧
    ∀ (w : W) (i : Instr), decodeWord w = .ok i → i.WF ∧ encode i = some w

/-- After reset memory is in canonical form and lists no byte (R136, R139). -/
def Obligations.ResetMemoryIsCanonical : Prop :=
  State.reset.Inv ∧ State.reset.mem.bytes = [] ∧ ∀ pa, State.reset.mem.rd pa = 0

/-- Every step keeps memory in its canonical form (R103, R136, R149, R165). -/
def Obligations.StepKeepsMemoryCanonical : Prop :=
  ∀ (s t : State), s.Inv → step s = .next t → t.Inv

/-- After reset the registers, counters, tiles and partitions hold the values the spec gives (R70, R71, R73, R74, R75, R77, R139, R180, R247, R314). -/
def Obligations.ResetValuesAreTheSpecs : Prop :=
  (∀ tid, let t := State.reset.th tid;
      (∀ n, t.rg n = 0) ∧ t.rp 0 = true ∧ (∀ n, 0 < n → t.rp n = false) ∧ t.h = [] ∧ t.q = [] ∧ t.st = .halted ∧
      t.sys.fflags = 0 ∧ t.sys.xpc = 0 ∧ t.sys.xcause = 0 ∧ t.sys.xval = 0 ∧ t.sys.intmask = 0 ∧ t.sys.intpend = 0 ∧
      fld t.sys.pw 6 0 = 16 ∧ fld t.sys.pw 14 8 = 40 ∧ fld t.sys.pw 22 16 = 8 ∧ t.sys.prio = 1 ∧ t.sys.quant = 1000000 ∧
      t.l = 0 ∧ t.s = 0 ∧ t.c = 0 ∧ t.k = 0) ∧
    (∀ key, let e := State.reset.tile key;
      e.st = .empty ∧ e.handle = 0 ∧ e.flags = 0 ∧ e.poison = false ∧ e.bitmap = 0) ∧
    (∀ core, partRF (State.reset.mem.partOf core) = 16 ∧ partSP (State.reset.mem.partOf core) = 40 ∧ partACC (State.reset.mem.partOf core) = 8) ∧
    State.reset.tasks = [] ∧ State.reset.fab.invs = [] ∧ State.reset.fab.basin = [] ∧ State.reset.tab.orings = [] ∧ State.reset.bts = allOnes

/-- A word that computes a value changes its destination register, its flags and its queues alone (R70, R71, R73, R76, R85, R89, R91). -/
def Obligations.RegisterWordsFrame : Prop :=
  (∀ c ∈ valueWords, ∀ (x : T3) (s t : State), exec (c x) s = .next t →
      OnlyThread s t ∧ KeepsRegs [x.d.toNat] [] s.me (t.th s.cur) ∧ s.me.sys.fflags &&& (t.th s.cur).sys.fflags = s.me.sys.fflags) ∧
    (∀ c ∈ integerWords, ∀ (x : T3) (s t : State), exec (c x) s = .next t →
      (t.th s.cur).sys.fflags ||| 0x11#64 = s.me.sys.fflags ||| 0x11#64) ∧
    (∀ c ∈ [Instr.bfx, .bfi, .addi, .movi, .movhi], ∀ (x : TI) (s t : State), exec (c x) s = .next t →
      OnlyThread s t ∧ KeepsRegs [x.d.toNat] [] s.me (t.th s.cur) ∧ (t.th s.cur).sys.fflags = s.me.sys.fflags) ∧
    (∀ c ∈ [Instr.cmp, .fcmp, .plog], ∀ (x : T3) (s t : State), exec (c x) s = .next t →
      OnlyThread s t ∧ KeepsRegs [] [x.d.toNat - 64] s.me (t.th s.cur)) ∧
    ∀ c ∈ valueWords, ∀ (x : T3) (s t : State), x.d = 0 → exec (c x) s = .next t → ∀ n, (t.th s.cur).rg n = s.me.rg n

/-- A performed store writes its bytes, which read back, and no other; a performed load writes none (R72, R103, R165, R169, R174, R341). -/
def Obligations.PerformedAccessesFrame : Prop :=
  (∀ (tid k pa : Nat) (s t : State) (e : Pend), (s.th tid).pend[k]? = some e → e.kind = .store → e.pas = [pa] →
      exec (.storeRetire tid k) s = .next t →
      (s.specul tid = none → KeepsBytes (noQueue (s.th tid).pend) (upto pa e.n) s t ∧
        (mayPerform (s.th tid).pend k = true → s.barred tid = false → pa % 64 + e.n ≤ 64 →
          t.mem.rds pa e.n = if s.mem.away pa then s.mem.rds pa e.n else toBytes e.n e.data.toNat)) ∧
      (s.specul tid ≠ none → KeepsBytes (noQueue (s.th tid).pend) [] s t)) ∧
    (∀ (tid k : Nat) (s t : State) (e : Pend), (s.th tid).pend[k]? = some e → e.kind = .load → exec (.loadComplete tid k) s = .next t →
      KeepsBytes (noQueue (s.th tid).pend) [] s t) ∧
    ∀ (tid k pa : Nat) (s t : State) (e : Pend), (s.th tid).pend[k]? = some e → e.pas = [pa] → exec (.loadComplete tid k) s = .next t →
      (e.kind = .atom ∨ e.kind = .cas → KeepsBytes (noQueue (s.th tid).pend) (upto pa e.n) s t) ∧
      (e.kind = .signal → KeepsBytes (noQueue (s.th tid).pend) (upto pa 8) s t)

/-- A memory word changes no register when it issues, and memory only by its page walk (R72, R153, R164, R165). -/
def Obligations.MemoryWordsFrame : Prop :=
  (∀ e ∈ [(Instr.ld, Acc.read), (.st, .write), (.atom, .write), (.cas, .write)], ∀ (x : TM) (s t : State), exec (e.1 x) s = .next t →
      IssueFrame e.2 (addrTM x s) (!isQ x.d) s t) ∧
    ∀ e ∈ [(Instr.ldIndexed, Acc.read), (.stIndexed, .write)], ∀ (x : T3) (s t : State), exec (e.1 x) s = .next t →
      IssueFrame e.2 (addrT3 x s) (!isQ x.d) s t

/-- A firing of an arithmetic, flow or tag node changes its own invocation alone (R40, R220, R222, R223). -/
def Obligations.DataflowNodesFrame : Prop :=
  ∀ (i : Instr), (isDataflow i = true ∨ ∃ op w, i = .nodeArithFire op w) → ∀ (s t : State), exec i s = .next t →
      t = s ∨ ∃ c s1, nodeCtx s = some c ∧
        t = endIfDone (if tokPoisoned s c.iid c.i c.n c.tag c.nd = true then poisonEnd s c else s1) c.iid ∧ s1.mem = s.mem ∧ s1.threads = s.threads ∧ s1.tab = s.tab ∧
        s1.tasks = s.tasks ∧ s1.eng = s.eng ∧ s1.out = s.out ∧ s1.well = s.well ∧ ∀ iid, iid ≠ c.iid → s1.inv iid = s.inv iid

/-- SATN clamps a signed 64-bit value to its type and sets SA when that changes it (R94). -/
def Obligations.SatnClampsAsR94Says : Prop :=
  (∀ (x : T3) (s s1 : State) (a b : W), Issues x.pg [x.a, x.b] [x.d] s → needQ [x.d, x.a, x.b] s = .ok () → srcV s x.a = .ok a → srcV s x.b = .ok b →
      let w := 8 * 2 ^ (x.fn.toNat % 4)
      let lo : Int := if x.fn.toNat / 4 % 2 = 0 then -(2 ^ (w - 1) : Nat) else 0
      let hi : Int := if x.fn.toNat / 4 % 2 = 0 then (2 ^ (w - 1) : Nat) - 1 else (2 ^ w : Nat) - 1
      let r := max lo (min hi a.toInt)
      putV x.d (BitVec.ofInt 64 r) (deqAll [x.a, x.b] s) = .ok s1 →
      exec (.satn x) s = .next (advance (s1.onMe fun t => t.orFlags (if r = a.toInt then 0 else fSA)))) ∧
    (intSatn 4 0 (BitVec.ofInt 64 (-5)) 0 0).1 = 0 ∧ intSatn 1 0 40000 0 0 = (32767, fSA) ∧
    ∀ (w : W), opOf w = 0x1b → formOf w = 0 → (w.extractLsb' 50 5 = 3 ∨ w.extractLsb' 50 5 = 7) → ∃ e, decodeThread w = .error e

/-- HASH is the mix of R95; home slices, TLB slices, score keys and flow ports are chosen by it (R95, R149, R155, R275, R355). -/
def Obligations.HashIsTheMixOfR95 : Prop :=
  (∀ (a b : W),
      let x1 := a ^^^ b
      let x2 := x1 ^^^ (x1 >>> 32)
      let x3 := x2 * 0xd6e8feb86659fd93#64
      let x4 := x3 ^^^ (x3 >>> 29)
      let x5 := x4 * 0xcf1bb65e7c32a5c1#64
      hash64 a b = x5 ^^^ (x5 >>> 32)) ∧
    (∀ (a a' b : W), hash64 a b = hash64 a' b → a = a') ∧ (∀ (a : W), hash64 a a = 0) ∧
    (∀ (x : T3) (s s1 : State) (a b : W), Issues x.pg [x.a, x.b] [x.d] s → needQ [x.d, x.a, x.b] s = .ok () → srcV s x.a = .ok a →
      srcV s x.b = .ok b → putV x.d (hash64 a b) (deqAll [x.a, x.b] s) = .ok s1 →
      exec (.hash x) s = .next (advance (s1.onMe fun t => t.orFlags 0))) ∧
    (∀ pa, homeSlice pa % 4 = (hash64 (w64 (pa / 64)) 0).toNat % 4) ∧
    (∀ die ctxid va, tlbSlice die ctxid va = die * 32 + (hash64 (w64 (bits va 50 25)) (w64 ctxid)).toNat % 32) ∧
    (∀ (s : State) (src dst cls n : Nat) (ps : List Nat), (portsOf (Tab.getD s.out.route dst 0)).filter (fun p => s.portUp p && decide (p ≠ 12)) = ps →
      ps.length = n → 0 < n → flowOf s src dst cls 12 = ps[(hash64 (w64 (src * 1024 + dst)) (w64 cls)).toNat % n]? ∧
        (flowOf s src dst cls 12).isSome = true) ∧
    ∀ (w : NW) (s s1 s2 s3 : State) (c : Ctx) (net : Net) (x y : Nat) (bs : List Byte), nodeCtx s = some c →
      s.net c.iid = some net → c.has 0 = true → mKind (c.val 0) = 0 →
      Tab.look c.st.score c.tag = none →
      attrAt s c.i net (mWid (c.val 0) 0) (bits c.lit 5 2) = .ok (s1, x) →
      attrAt s1 c.i net (mWid (c.val 0) (bits c.lit 11 10)) (bits c.lit 9 6) = .ok (s2, y) →
      let gen := (Tab.getD net.scorers (bits c.lit 1 0) ⟨0, [], 0, 0⟩).gen
      let key := (hash64 (w64 (x % 2 ^ 24 * 2 ^ 24 + y % 2 ^ 24)) (w64 gen)).toNat % 2 ^ 56
      let out := [only 1 ⟨w64 (leAt bs 8 4), (c.tok 0).tag, resFlg false [c.flg 0], 0⟩]
      readVa s2 c.i.who (scoreVa net (key % net.scap)) 16 = .ok (s3, bs) → scoreHit bs key gen = true →
      Fires (.score w) s c s3 (taken c [0]) out

/-- A word whose predicate reads false only moves the pc, and an ill-formed word traps whatever its predicate (R55). -/
def Obligations.PredicateRulesOfR55 : Prop :=
  (∀ (pg : BitVec 4) (t : Thread), predTrue pg t = (t.rp (pg.toNat % 8) != decide (8 ≤ pg.toNat)) ∧ t.rp 0 = true) ∧
    (∀ (i : Instr) (w : W) (s : State), i.isThread = true → encode i = some w → predTrue (w.extractLsb' 46 4) s.me = false →
      exec i s = .next (s.onMe fun t => { t with pc := t.pc + 8 })) ∧
    (∀ (w : W), w.extractLsb' 46 4 = 8 → ∃ e, decodeThread w = .error e) ∧
    ∀ (w : W) (s : State) (e : DecodeErr), decodeThread w = .error e → exec (threadInstr w) s = .next (takeTrap s.cur cILLEGAL s.me.pc w s)
end

