-- ==== Sys2Proof/Laws/Arbiter.lean ====
section
/-! SUPPORT. What the choice of a slot gives (R40). -/
namespace Sys2Proof.Machine

theorem slotBefore_iff (iid : Nat) (x y : Slotted) : slotBefore iid x y = true ↔
    tagAge iid x.tag < tagAge iid y.tag ∨ (tagAge iid x.tag = tagAge iid y.tag ∧ x.no < y.no) := by
  simp [slotBefore]

/-- The first of a slot and others is one of them, and none is before it. -/
theorem oldestFrom_spec (iid : Nat) (rs : List Slotted) (x : Slotted) :
    oldestFrom iid x rs ∈ x :: rs ∧ ∀ y ∈ x :: rs, slotBefore iid y (oldestFrom iid x rs) = false := by
  have self : ∀ z, slotBefore iid z z = false := fun z => by simp [slotBefore]
  induction rs generalizing x with
  | nil => exact ⟨by simp [oldestFrom], fun y hy => by simp at hy; subst hy; exact self y⟩
  | cons a t ih =>
    have key : ∀ p q r : Slotted, slotBefore iid q p = false → slotBefore iid p r = false → slotBefore iid q r = false := by
      intro p q r h1 h2
      simp only [← Bool.not_eq_true, slotBefore_iff] at *
      omega
    simp only [oldestFrom]
    by_cases h : slotBefore iid a x = true
    · rw [if_pos h]
      have hx : slotBefore iid x a = false := by
        simp only [← Bool.not_eq_true, slotBefore_iff] at *
        omega
      obtain ⟨m, l⟩ := ih a
      refine ⟨List.mem_cons_of_mem _ m, fun y hy => ?_⟩
      rcases List.mem_cons.mp hy with rfl | hy
      · exact key a _ _ hx (l a (by simp))
      · exact l y hy
    · rw [if_neg h]
      obtain ⟨m, l⟩ := ih x
      refine ⟨?_, fun y hy => ?_⟩
      · rcases List.mem_cons.mp m with m | m
        · rw [m]; simp
        · simp [m]
      · rcases List.mem_cons.mp hy with rfl | hy
        · exact l _ (by simp)
        · rcases List.mem_cons.mp hy with rfl | hy
          · exact key x _ _ (by simpa using h) (l x (by simp))
          · exact l y (List.mem_cons_of_mem _ hy)

/-- `oldestSlot` gives a slot of the list that no other is before. -/
theorem oldestSlot_some {iid : Nat} {rs : List Slotted} {r : Slotted} (h : oldestSlot iid rs = some r) :
    r ∈ rs ∧ ∀ y ∈ rs, slotBefore iid y r = false := by
  cases rs with
  | nil => cases h
  | cons a t =>
    obtain rfl := Option.some.inj h
    exact oldestFrom_spec iid t a

/-- It gives none of an empty list only. -/
theorem oldestSlot_none {iid : Nat} {rs : List Slotted} (h : oldestSlot iid rs = none) : rs = [] := by
  cases rs with
  | nil => rfl
  | cons a t => cases h

end Sys2Proof.Machine
end

