-- ==== Sys2Proof/Laws/Exec.lean ====
section
/-! SUPPORT. The arm of `exec` for each instruction, one lemma a constructor. -/
namespace Sys2Proof.Machine

@[simp] theorem exec_add (x : T3) (s : State) : exec (.add x) s = execAdd x s := rfl
@[simp] theorem exec_sub (x : T3) (s : State) : exec (.sub x) s = execSub x s := rfl
@[simp] theorem exec_mul (x : T3) (s : State) : exec (.mul x) s = execMul x s := rfl
@[simp] theorem exec_mulh (x : T3) (s : State) : exec (.mulh x) s = execMulh x s := rfl
@[simp] theorem exec_div (x : T3) (s : State) : exec (.div x) s = execDiv x s := rfl
@[simp] theorem exec_rem (x : T3) (s : State) : exec (.rem x) s = execRem x s := rfl
@[simp] theorem exec_min (x : T3) (s : State) : exec (.min x) s = execMin x s := rfl
@[simp] theorem exec_max (x : T3) (s : State) : exec (.max x) s = execMax x s := rfl
@[simp] theorem exec_abs (x : T3) (s : State) : exec (.abs x) s = execAbs x s := rfl
@[simp] theorem exec_neg (x : T3) (s : State) : exec (.neg x) s = execNeg x s := rfl
@[simp] theorem exec_and (x : T3) (s : State) : exec (.and x) s = execAnd x s := rfl
@[simp] theorem exec_or (x : T3) (s : State) : exec (.or x) s = execOr x s := rfl
@[simp] theorem exec_xor (x : T3) (s : State) : exec (.xor x) s = execXor x s := rfl
@[simp] theorem exec_andn (x : T3) (s : State) : exec (.andn x) s = execAndn x s := rfl
@[simp] theorem exec_shl (x : T3) (s : State) : exec (.shl x) s = execShl x s := rfl
@[simp] theorem exec_shr (x : T3) (s : State) : exec (.shr x) s = execShr x s := rfl
@[simp] theorem exec_sar (x : T3) (s : State) : exec (.sar x) s = execSar x s := rfl
@[simp] theorem exec_rol (x : T3) (s : State) : exec (.rol x) s = execRol x s := rfl
@[simp] theorem exec_popc (x : T3) (s : State) : exec (.popc x) s = execPopc x s := rfl
@[simp] theorem exec_clz (x : T3) (s : State) : exec (.clz x) s = execClz x s := rfl
@[simp] theorem exec_ctz (x : T3) (s : State) : exec (.ctz x) s = execCtz x s := rfl
@[simp] theorem exec_bfx (x : TI) (s : State) : exec (.bfx x) s = execBfx x s := rfl
@[simp] theorem exec_bfi (x : TI) (s : State) : exec (.bfi x) s = execBfi x s := rfl
@[simp] theorem exec_cmp (x : T3) (s : State) : exec (.cmp x) s = execCmp x s := rfl
@[simp] theorem exec_sel (x : T3) (s : State) : exec (.sel x) s = execSel x s := rfl
@[simp] theorem exec_addi (x : TI) (s : State) : exec (.addi x) s = execAddi x s := rfl
@[simp] theorem exec_madd (x : T3) (s : State) : exec (.madd x) s = execMadd x s := rfl
@[simp] theorem exec_satn (x : T3) (s : State) : exec (.satn x) s = execSatn x s := rfl
@[simp] theorem exec_hash (x : T3) (s : State) : exec (.hash x) s = execHash x s := rfl
@[simp] theorem exec_mov (x : T3) (s : State) : exec (.mov x) s = execMov x s := rfl
@[simp] theorem exec_movi (x : TI) (s : State) : exec (.movi x) s = execMovi x s := rfl
@[simp] theorem exec_movhi (x : TI) (s : State) : exec (.movhi x) s = execMovhi x s := rfl
@[simp] theorem exec_lea (x : TM) (s : State) : exec (.lea x) s = execLea x s := rfl
@[simp] theorem exec_leaIndexed (x : T3) (s : State) : exec (.leaIndexed x) s = execLeaIndexed x s := rfl
@[simp] theorem exec_plog (x : T3) (s : State) : exec (.plog x) s = execPlog x s := rfl
@[simp] theorem exec_csrr (x : T3) (s : State) : exec (.csrr x) s = execCsrr x s := rfl
@[simp] theorem exec_csrw (x : T3) (s : State) : exec (.csrw x) s = execCsrw x s := rfl
@[simp] theorem exec_tsc (x : T3) (s : State) : exec (.tsc x) s = execTsc x s := rfl
@[simp] theorem exec_qpeek (x : T3) (s : State) : exec (.qpeek x) s = execQpeek x s := rfl
@[simp] theorem exec_qstat (x : T3) (s : State) : exec (.qstat x) s = execQstat x s := rfl
@[simp] theorem exec_fadd (x : T3) (s : State) : exec (.fadd x) s = execFadd x s := rfl
@[simp] theorem exec_fsub (x : T3) (s : State) : exec (.fsub x) s = execFsub x s := rfl
@[simp] theorem exec_fmul (x : T3) (s : State) : exec (.fmul x) s = execFmul x s := rfl
@[simp] theorem exec_fma (x : T3) (s : State) : exec (.fma x) s = execFma x s := rfl
@[simp] theorem exec_fmin (x : T3) (s : State) : exec (.fmin x) s = execFmin x s := rfl
@[simp] theorem exec_fmax (x : T3) (s : State) : exec (.fmax x) s = execFmax x s := rfl
@[simp] theorem exec_fcmp (x : T3) (s : State) : exec (.fcmp x) s = execFcmp x s := rfl
@[simp] theorem exec_frcp (x : T3) (s : State) : exec (.frcp x) s = execFrcp x s := rfl
@[simp] theorem exec_frsq (x : T3) (s : State) : exec (.frsq x) s = execFrsq x s := rfl
@[simp] theorem exec_fexp2 (x : T3) (s : State) : exec (.fexp2 x) s = execFexp2 x s := rfl
@[simp] theorem exec_flog2 (x : T3) (s : State) : exec (.flog2 x) s = execFlog2 x s := rfl
@[simp] theorem exec_ftanh (x : T3) (s : State) : exec (.ftanh x) s = execFtanh x s := rfl
@[simp] theorem exec_fsigm (x : T3) (s : State) : exec (.fsigm x) s = execFsigm x s := rfl
@[simp] theorem exec_fclass (x : T3) (s : State) : exec (.fclass x) s = execFclass x s := rfl
@[simp] theorem exec_fscale (x : T3) (s : State) : exec (.fscale x) s = execFscale x s := rfl
@[simp] theorem exec_fcvt (x : T3) (s : State) : exec (.fcvt x) s = execFcvt x s := rfl
@[simp] theorem exec_icvt (x : T3) (s : State) : exec (.icvt x) s = execIcvt x s := rfl
@[simp] theorem exec_bxpack (x : T3) (s : State) : exec (.bxpack x) s = execBxpack x s := rfl
@[simp] theorem exec_bxunpk (x : T3) (s : State) : exec (.bxunpk x) s = execBxunpk x s := rfl
@[simp] theorem exec_mxpack (x : T3) (s : State) : exec (.mxpack x) s = execMxpack x s := rfl
@[simp] theorem exec_mxunpk (x : T3) (s : State) : exec (.mxunpk x) s = execMxunpk x s := rfl
@[simp] theorem exec_scale (x : T3) (s : State) : exec (.scale x) s = execScale x s := rfl
@[simp] theorem exec_unscale (x : T3) (s : State) : exec (.unscale x) s = execUnscale x s := rfl
@[simp] theorem exec_br (x : TB) (s : State) : exec (.br x) s = execBr x s := rfl
@[simp] theorem exec_bri (x : TB) (s : State) : exec (.bri x) s = execBri x s := rfl
@[simp] theorem exec_call (x : TB) (s : State) : exec (.call x) s = execCall x s := rfl
@[simp] theorem exec_ret (x : TB) (s : State) : exec (.ret x) s = execRet x s := rfl
@[simp] theorem exec_halt (x : T3) (s : State) : exec (.halt x) s = execHalt x s := rfl
@[simp] theorem exec_waita (x : TM) (s : State) : exec (.waita x) s = execWaita x s := rfl
@[simp] theorem exec_yield (x : T3) (s : State) : exec (.yield x) s = execYield x s := rfl
@[simp] theorem exec_spawn (x : TB) (s : State) : exec (.spawn x) s = execSpawn x s := rfl
@[simp] theorem exec_ld (x : TM) (s : State) : exec (.ld x) s = execLd x s := rfl
@[simp] theorem exec_ldIndexed (x : T3) (s : State) : exec (.ldIndexed x) s = execLdIndexed x s := rfl
@[simp] theorem exec_st (x : TM) (s : State) : exec (.st x) s = execSt x s := rfl
@[simp] theorem exec_stIndexed (x : T3) (s : State) : exec (.stIndexed x) s = execStIndexed x s := rfl
@[simp] theorem exec_atom (x : TM) (s : State) : exec (.atom x) s = execAtom x s := rfl
@[simp] theorem exec_cas (x : TM) (s : State) : exec (.cas x) s = execCas x s := rfl
@[simp] theorem exec_stb (x : TX) (s : State) : exec (.stb x) s = execStb x s := rfl
@[simp] theorem exec_stm (x : TX) (s : State) : exec (.stm x) s = execStm x s := rfl
@[simp] theorem exec_stred (x : TX) (s : State) : exec (.stred x) s = execStred x s := rfl
@[simp] theorem exec_pref (x : TM) (s : State) : exec (.pref x) s = execPref x s := rfl
@[simp] theorem exec_fence (x : TM) (s : State) : exec (.fence x) s = execFence x s := rfl
@[simp] theorem exec_tspawn (x : TB) (s : State) : exec (.tspawn x) s = execTspawn x s := rfl
@[simp] theorem exec_tend (x : T3) (s : State) : exec (.tend x) s = execTend x s := rfl
@[simp] theorem exec_tabort (x : T3) (s : State) : exec (.tabort x) s = execTabort x s := rfl
@[simp] theorem exec_tstamp (x : T3) (s : State) : exec (.tstamp x) s = execTstamp x s := rfl
@[simp] theorem exec_tbarrier (x : T3) (s : State) : exec (.tbarrier x) s = execTbarrier x s := rfl
@[simp] theorem exec_tdirect (x : T3) (s : State) : exec (.tdirect x) s = execTdirect x s := rfl
@[simp] theorem exec_gvt (x : T3) (s : State) : exec (.gvt x) s = execGvt x s := rfl
@[simp] theorem exec_wait (x : TW) (s : State) : exec (.wait x) s = execWait x s := rfl
@[simp] theorem exec_waitm (x : TX) (s : State) : exec (.waitm x) s = execWaitm x s := rfl
@[simp] theorem exec_waitt (x : TX) (s : State) : exec (.waitt x) s = execWaitt x s := rfl
@[simp] theorem exec_binit (x : TM) (s : State) : exec (.binit x) s = execBinit x s := rfl
@[simp] theorem exec_barr (x : TM) (s : State) : exec (.barr x) s = execBarr x s := rfl
@[simp] theorem exec_bwait (x : TM) (s : State) : exec (.bwait x) s = execBwait x s := rfl
@[simp] theorem exec_cntrd (x : T3) (s : State) : exec (.cntrd x) s = execCntrd x s := rfl
@[simp] theorem exec_xcopy (x : TX) (s : State) : exec (.xcopy x) s = execXcopy x s := rfl
@[simp] theorem exec_xgath (x : TX) (s : State) : exec (.xgath x) s = execXgath x s := rfl
@[simp] theorem exec_xscat (x : TX) (s : State) : exec (.xscat x) s = execXscat x s := rfl
@[simp] theorem exec_xcoll (x : TX) (s : State) : exec (.xcoll x) s = execXcoll x s := rfl
@[simp] theorem exec_xtask (x : TX) (s : State) : exec (.xtask x) s = execXtask x s := rfl
@[simp] theorem exec_xsend (x : TX) (s : State) : exec (.xsend x) s = execXsend x s := rfl
@[simp] theorem exec_xckpt (x : TX) (s : State) : exec (.xckpt x) s = execXckpt x s := rfl
@[simp] theorem exec_xcancel (x : TX) (s : State) : exec (.xcancel x) s = execXcancel x s := rfl
@[simp] theorem exec_wmassert (x : TX) (s : State) : exec (.wmassert x) s = execWmassert x s := rfl
@[simp] theorem exec_wmretract (x : TX) (s : State) : exec (.wmretract x) s = execWmretract x s := rfl
@[simp] theorem exec_wmmodify (x : TX) (s : State) : exec (.wmmodify x) s = execWmmodify x s := rfl
@[simp] theorem exec_cssel (x : TX) (s : State) : exec (.cssel x) s = execCssel x s := rfl
@[simp] theorem exec_csinfoSummary (x : TX) (s : State) : exec (.csinfoSummary x) s = execCsinfoSummary x s := rfl
@[simp] theorem exec_csinfoEntry (x : TX) (s : State) : exec (.csinfoEntry x) s = execCsinfoEntry x s := rfl
@[simp] theorem exec_csclrAll (x : TX) (s : State) : exec (.csclrAll x) s = execCsclrAll x s := rfl
@[simp] theorem exec_csclrRule (x : TX) (s : State) : exec (.csclrRule x) s = execCsclrRule x s := rfl
@[simp] theorem exec_rload (x : TX) (s : State) : exec (.rload x) s = execRload x s := rfl
@[simp] theorem exec_dopen (x : TX) (s : State) : exec (.dopen x) s = execDopen x s := rfl
@[simp] theorem exec_dopenWait (x : TX) (s : State) : exec (.dopenWait x) s = execDopenWait x s := rfl
@[simp] theorem exec_dclose (x : TX) (s : State) : exec (.dclose x) s = execDclose x s := rfl
@[simp] theorem exec_dbind (x : TX) (s : State) : exec (.dbind x) s = execDbind x s := rfl
@[simp] theorem exec_dbindSet (x : TX) (s : State) : exec (.dbindSet x) s = execDbindSet x s := rfl
@[simp] theorem exec_dunbind (x : TX) (s : State) : exec (.dunbind x) s = execDunbind x s := rfl
@[simp] theorem exec_dstat (x : TX) (s : State) : exec (.dstat x) s = execDstat x s := rfl
@[simp] theorem exec_ddesc (x : TX) (s : State) : exec (.ddesc x) s = execDdesc x s := rfl
@[simp] theorem exec_glaunch (x : TX) (s : State) : exec (.glaunch x) s = execGlaunch x s := rfl
@[simp] theorem exec_glaunchDelta (x : TX) (s : State) : exec (.glaunchDelta x) s = execGlaunchDelta x s := rfl
@[simp] theorem exec_gstop (x : TX) (s : State) : exec (.gstop x) s = execGstop x s := rfl
@[simp] theorem exec_gsnap (x : TX) (s : State) : exec (.gsnap x) s = execGsnap x s := rfl
@[simp] theorem exec_grest (x : TX) (s : State) : exec (.grest x) s = execGrest x s := rfl
@[simp] theorem exec_gbank (x : TX) (s : State) : exec (.gbank x) s = execGbank x s := rfl
@[simp] theorem exec_gpart (x : TX) (s : State) : exec (.gpart x) s = execGpart x s := rfl
@[simp] theorem exec_gqueryStatus (x : TX) (s : State) : exec (.gqueryStatus x) s = execGqueryStatus x s := rfl
@[simp] theorem exec_gquerySize (x : TX) (s : State) : exec (.gquerySize x) s = execGquerySize x s := rfl
@[simp] theorem exec_gquerySpoil (x : TX) (s : State) : exec (.gquerySpoil x) s = execGquerySpoil x s := rfl
@[simp] theorem exec_gqueryDump (x : TX) (s : State) : exec (.gqueryDump x) s = execGqueryDump x s := rfl
@[simp] theorem exec_freshet (x : TX) (s : State) : exec (.freshet x) s = execFreshet x s := rfl
@[simp] theorem exec_trap (x : TI) (s : State) : exec (.trap x) s = execTrap x s := rfl
@[simp] theorem exec_eret (x : T3) (s : State) : exec (.eret x) s = execEret x s := rfl
@[simp] theorem exec_brk (x : TI) (s : State) : exec (.brk x) s = execBrk x s := rfl
@[simp] theorem exec_msgi (x : TX) (s : State) : exec (.msgi x) s = execMsgi x s := rfl
@[simp] theorem exec_ctxsave (x : TM) (s : State) : exec (.ctxsave x) s = execCtxsave x s := rfl
@[simp] theorem exec_ctxrest (x : TM) (s : State) : exec (.ctxrest x) s = execCtxrest x s := rfl
@[simp] theorem exec_tlbinv (x : TM) (s : State) : exec (.tlbinv x) s = execTlbinv x s := rfl
@[simp] theorem exec_idle (x : T3) (s : State) : exec (.idle x) s = execIdle x s := rfl
@[simp] theorem exec_signal (x : TM) (s : State) : exec (.signal x) s = execSignal x s := rfl
@[simp] theorem exec_ptsync (x : TM) (s : State) : exec (.ptsync x) s = execPtsync x s := rfl
@[simp] theorem exec_nodeArithFire (op : BitVec 8) (w : NW) (s : State) : exec (.nodeArithFire op w) s = execNodeArithFire op w s := rfl
@[simp] theorem exec_steer (x : NW) (s : State) : exec (.steer x) s = execSteer x s := rfl
@[simp] theorem exec_merge (x : NW) (s : State) : exec (.merge x) s = execMerge x s := rfl
@[simp] theorem exec_gate (x : NW) (s : State) : exec (.gate x) s = execGate x s := rfl
@[simp] theorem exec_fcomp (x : NW) (s : State) : exec (.fcomp x) s = execFcomp x s := rfl
@[simp] theorem exec_repeat (x : NW) (s : State) : exec (.repeat x) s = execRepeat x s := rfl
@[simp] theorem exec_delay (x : NW) (s : State) : exec (.delay x) s = execDelay x s := rfl
@[simp] theorem exec_accum (x : NW) (s : State) : exec (.accum x) s = execAccum x s := rfl
@[simp] theorem exec_gen (x : NW) (s : State) : exec (.gen x) s = execGen x s := rfl
@[simp] theorem exec_genTrig (x : NW) (s : State) : exec (.genTrig x) s = execGenTrig x s := rfl
@[simp] theorem exec_sink (x : NW) (s : State) : exec (.sink x) s = execSink x s := rfl
@[simp] theorem exec_src (x : NW) (s : State) : exec (.src x) s = execSrc x s := rfl
@[simp] theorem exec_tagset (x : NW) (s : State) : exec (.tagset x) s = execTagset x s := rfl
@[simp] theorem exec_tagget (x : NW) (s : State) : exec (.tagget x) s = execTagget x s := rfl
@[simp] theorem exec_route (x : NW) (s : State) : exec (.route x) s = execRoute x s := rfl
@[simp] theorem exec_bound (x : NW) (s : State) : exec (.bound x) s = execBound x s := rfl
@[simp] theorem exec_agen (x : NW) (s : State) : exec (.agen x) s = execAgen x s := rfl
@[simp] theorem exec_mload (x : NW) (s : State) : exec (.mload x) s = execMload x s := rfl
@[simp] theorem exec_mstore (x : NW) (s : State) : exec (.mstore x) s = execMstore x s := rfl
@[simp] theorem exec_rmw (x : NW) (s : State) : exec (.rmw x) s = execRmw x s := rfl
@[simp] theorem exec_merge2 (x : NW) (s : State) : exec (.merge2 x) s = execMerge2 x s := rfl
@[simp] theorem exec_lut6 (x : NW) (s : State) : exec (.lut6 x) s = execLut6 x s := rfl
@[simp] theorem exec_fsm (x : NW) (s : State) : exec (.fsm x) s = execFsm x s := rfl
@[simp] theorem exec_falloc (x : NW) (s : State) : exec (.falloc x) s = execFalloc x s := rfl
@[simp] theorem exec_ffree (x : NW) (s : State) : exec (.ffree x) s = execFfree x s := rfl
@[simp] theorem exec_chan (x : NW) (s : State) : exec (.chan x) s = execChan x s := rfl
@[simp] theorem exec_weir (x : NW) (s : State) : exec (.weir x) s = execWeir x s := rfl
@[simp] theorem exec_expert (x : NW) (s : State) : exec (.expert x) s = execExpert x s := rfl
@[simp] theorem exec_topk (x : NW) (s : State) : exec (.topk x) s = execTopk x s := rfl
@[simp] theorem exec_spill (x : NW) (s : State) : exec (.spill x) s = execSpill x s := rfl
@[simp] theorem exec_alpha (x : NW) (s : State) : exec (.alpha x) s = execAlpha x s := rfl
@[simp] theorem exec_joinb (x : NW) (s : State) : exec (.joinb x) s = execJoinb x s := rfl
@[simp] theorem exec_negj (x : NW) (s : State) : exec (.negj x) s = execNegj x s := rfl
@[simp] theorem exec_memb (x : NW) (s : State) : exec (.memb x) s = execMemb x s := rfl
@[simp] theorem exec_term (x : NW) (s : State) : exec (.term x) s = execTerm x s := rfl
@[simp] theorem exec_score (x : NW) (s : State) : exec (.score x) s = execScore x s := rfl
@[simp] theorem exec_tileNodeFire (op : BitVec 8) (w : NW) (s : State) : exec (.tileNodeFire op w) s = execTileNodeFire op w s := rfl
@[simp] theorem exec_illegalInstructionWord (w : W) (s : State) : exec (.illegalInstructionWord w) s = execIllegalInstructionWord w s := rfl
@[simp] theorem exec_expertDrain (iid : Nat) (node : Nat) (s : State) : exec (.expertDrain iid node) s = execExpertDrain iid node s := rfl
@[simp] theorem exec_scoreReply (iid : Nat) (node : Nat) (tag : Nat) (s : State) : exec (.scoreReply iid node tag) s = execScoreReply iid node tag s := rfl
@[simp] theorem exec_tmma (eng : Nat) (s : State) : exec (.tmma eng) s = execTmma eng s := rfl
@[simp] theorem exec_tmms (eng : Nat) (s : State) : exec (.tmms eng) s = execTmms eng s := rfl
@[simp] theorem exec_tdecompDense (eng : Nat) (s : State) : exec (.tdecompDense eng) s = execTdecompDense eng s := rfl
@[simp] theorem exec_tdecompPacked (eng : Nat) (s : State) : exec (.tdecompPacked eng) s = execTdecompPacked eng s := rfl
@[simp] theorem exec_tresid (eng : Nat) (s : State) : exec (.tresid eng) s = execTresid eng s := rfl
@[simp] theorem exec_tzero (eng : Nat) (s : State) : exec (.tzero eng) s = execTzero eng s := rfl
@[simp] theorem exec_tcvt (eng : Nat) (s : State) : exec (.tcvt eng) s = execTcvt eng s := rfl
@[simp] theorem exec_tscale (eng : Nat) (s : State) : exec (.tscale eng) s = execTscale eng s := rfl
@[simp] theorem exec_tred (eng : Nat) (s : State) : exec (.tred eng) s = execTred eng s := rfl
@[simp] theorem exec_ttrans (eng : Nat) (s : State) : exec (.ttrans eng) s = execTtrans eng s := rfl
@[simp] theorem exec_ttopk (eng : Nat) (s : State) : exec (.ttopk eng) s = execTtopk eng s := rfl
@[simp] theorem exec_ringdefTiles (shard : Nat) (s : State) : exec (.ringdefTiles shard) s = execRingdefTiles shard s := rfl
@[simp] theorem exec_ringdefRing (shard : Nat) (s : State) : exec (.ringdefRing shard) s = execRingdefRing shard s := rfl
@[simp] theorem exec_ringdefTasks (shard : Nat) (s : State) : exec (.ringdefTasks shard) s = execRingdefTasks shard s := rfl
@[simp] theorem exec_tact (eng : Nat) (s : State) : exec (.tact eng) s = execTact eng s := rfl
@[simp] theorem exec_tokenArrival (iid : Nat) (idx : Nat) (s : State) : exec (.tokenArrival iid idx) s = execTokenArrival iid idx s := rfl
@[simp] theorem exec_tokenAccept (iid : Nat) (idx : Nat) (second : Bool) (s : State) : exec (.tokenAccept iid idx second) s = execTokenAccept iid idx second s := rfl
@[simp] theorem exec_creditReturn (iid : Nat) (idx : Nat) (s : State) : exec (.creditReturn iid idx) s = execCreditReturn iid idx s := rfl
@[simp] theorem exec_loadComplete (tid : Nat) (idx : Nat) (s : State) : exec (.loadComplete tid idx) s = execLoadComplete tid idx s := rfl
@[simp] theorem exec_storeRetire (tid : Nat) (idx : Nat) (s : State) : exec (.storeRetire tid idx) s = execStoreRetire tid idx s := rfl
@[simp] theorem exec_pageWalk (slice : Nat) (s : State) : exec (.pageWalk slice) s = execPageWalk slice s := rfl
@[simp] theorem exec_requesterResume (iid : Nat) (node : Nat) (s : State) : exec (.requesterResume iid node) s = execRequesterResume iid node s := rfl
@[simp] theorem exec_activeMessage (src : Nat) (s : State) : exec (.activeMessage src) s = execActiveMessage src s := rfl
@[simp] theorem exec_chunkWritten (cmd : Nat) (chunk : Nat) (s : State) : exec (.chunkWritten cmd chunk) s = execChunkWritten cmd chunk s := rfl
@[simp] theorem exec_engineReply (cmd : Nat) (s : State) : exec (.engineReply cmd) s = execEngineReply cmd s := rfl
@[simp] theorem exec_tileTaskCheck (shard : Nat) (s : State) : exec (.tileTaskCheck shard) s = execTileTaskCheck shard s := rfl
@[simp] theorem exec_tileTaskIssue (shard : Nat) (eng : Nat) (s : State) : exec (.tileTaskIssue shard eng) s = execTileTaskIssue shard eng s := rfl
@[simp] theorem exec_tileTaskRetire (eng : Nat) (s : State) : exec (.tileTaskRetire eng) s = execTileTaskRetire eng s := rfl
@[simp] theorem exec_dotEngineFaultStop (eng : Nat) (s : State) : exec (.dotEngineFaultStop eng) s = execDotEngineFaultStop eng s := rfl
@[simp] theorem exec_taskCommit (s : State) : exec (.taskCommit) s = execTaskCommit s := rfl
@[simp] theorem exec_taskIrrevocable (s : State) : exec (.taskIrrevocable) s = execTaskIrrevocable s := rfl
@[simp] theorem exec_firingStart (die : Nat) (s : State) : exec (.firingStart die) s = execFiringStart die s := rfl
@[simp] theorem exec_deltaApply (net : Nat) (s : State) : exec (.deltaApply net) s = execDeltaApply net s := rfl
@[simp] theorem exec_deltaInject (net : Nat) (s : State) : exec (.deltaInject net) s = execDeltaInject net s := rfl
@[simp] theorem exec_bankPass (bank : Nat) (s : State) : exec (.bankPass bank) s = execBankPass bank s := rfl
@[simp] theorem exec_bankTokenArrival (bank : Nat) (s : State) : exec (.bankTokenArrival bank) s = execBankTokenArrival bank s := rfl
@[simp] theorem exec_deltaDrainComplete (iid : Nat) (s : State) : exec (.deltaDrainComplete iid) s = execDeltaDrainComplete iid s := rfl
@[simp] theorem exec_freshetNodeReconfig (iid : Nat) (node : Nat) (s : State) : exec (.freshetNodeReconfig iid node) s = execFreshetNodeReconfig iid node s := rfl
@[simp] theorem exec_snapNodeSave (iid : Nat) (node : Nat) (s : State) : exec (.snapNodeSave iid node) s = execSnapNodeSave iid node s := rfl
@[simp] theorem exec_linkTokenRecord (iid : Nat) (idx : Nat) (s : State) : exec (.linkTokenRecord iid idx) s = execLinkTokenRecord iid idx s := rfl
@[simp] theorem exec_snapForcedSave (iid : Nat) (s : State) : exec (.snapForcedSave iid) s = execSnapForcedSave iid s := rfl
@[simp] theorem exec_drainComplete (iid : Nat) (s : State) : exec (.drainComplete iid) s = execDrainComplete iid s := rfl
@[simp] theorem exec_stallNoeos (iid : Nat) (s : State) : exec (.stallNoeos iid) s = execStallNoeos iid s := rfl
@[simp] theorem exec_quantumExpiry (iid : Nat) (s : State) : exec (.quantumExpiry iid) s = execQuantumExpiry iid s := rfl
@[simp] theorem exec_requestAging (die : Nat) (idx : Nat) (s : State) : exec (.requestAging die idx) s = execRequestAging die idx s := rfl
@[simp] theorem exec_regionGrant (die : Nat) (s : State) : exec (.regionGrant die) s = execRegionGrant die s := rfl
@[simp] theorem exec_preempt (die : Nat) (s : State) : exec (.preempt die) s = execPreempt die s := rfl
@[simp] theorem exec_schedulerRestore (iid : Nat) (s : State) : exec (.schedulerRestore iid) s = execSchedulerRestore iid s := rfl
@[simp] theorem exec_trapResume (tid : Nat) (s : State) : exec (.trapResume tid) s = execTrapResume tid s := rfl
@[simp] theorem exec_trapSkip (tid : Nat) (s : State) : exec (.trapSkip tid) s = execTrapSkip tid s := rfl
@[simp] theorem exec_trapHandler (tid : Nat) (s : State) : exec (.trapHandler tid) s = execTrapHandler tid s := rfl
@[simp] theorem exec_trapEnd (tid : Nat) (s : State) : exec (.trapEnd tid) s = execTrapEnd tid s := rfl
@[simp] theorem exec_threadWake (tid : Nat) (s : State) : exec (.threadWake tid) s = execThreadWake tid s := rfl
@[simp] theorem exec_parkTimeout (tid : Nat) (s : State) : exec (.parkTimeout tid) s = execParkTimeout tid s := rfl
@[simp] theorem exec_dopenTimeout (tid : Nat) (s : State) : exec (.dopenTimeout tid) s = execDopenTimeout tid s := rfl
@[simp] theorem exec_stallResume (tid : Nat) (s : State) : exec (.stallResume tid) s = execStallResume tid s := rfl
@[simp] theorem exec_barrierArrival (idx : Nat) (s : State) : exec (.barrierArrival idx) s = execBarrierArrival idx s := rfl
@[simp] theorem exec_doorbell (q : Nat) (wr : Nat) (s : State) : exec (.doorbell q wr) s = execDoorbell q wr s := rfl
@[simp] theorem exec_queueConfigWrite (q : Nat) (reg : Nat) (v : Nat) (s : State) : exec (.queueConfigWrite q reg v) s = execQueueConfigWrite q reg v s := rfl
@[simp] theorem exec_queueStatusClear (q : Nat) (s : State) : exec (.queueStatusClear q) s = execQueueStatusClear q s := rfl
@[simp] theorem exec_errcntClear (fnc : Nat) (v : Nat) (s : State) : exec (.errcntClear fnc v) s = execErrcntClear fnc v s := rfl
@[simp] theorem exec_registerWrite (kernel : Bool) (fnc : Nat) (off : Nat) (v : Nat) (s : State) : exec (.registerWrite kernel fnc off v) s = execRegisterWrite kernel fnc off v s := rfl
@[simp] theorem exec_nop (q : Nat) (s : State) : exec (.nop q) s = execNop q s := rfl
@[simp] theorem exec_thread (q : Nat) (s : State) : exec (.thread q) s = execThread q s := rfl
@[simp] theorem exec_delta (q : Nat) (s : State) : exec (.delta q) s = execDelta q s := rfl
@[simp] theorem exec_indirect (q : Nat) (s : State) : exec (.indirect q) s = execIndirect q s := rfl
@[simp] theorem exec_waitsig (q : Nat) (s : State) : exec (.waitsig q) s = execWaitsig q s := rfl
@[simp] theorem exec_write (q : Nat) (s : State) : exec (.write q) s = execWrite q s := rfl
@[simp] theorem exec_commandComplete (id : Nat) (s : State) : exec (.commandComplete id) s = execCommandComplete id s := rfl
@[simp] theorem exec_hostApertureRead (fnc : Nat) (off : Nat) (len : Nat) (s : State) : exec (.hostApertureRead fnc off len) s = execHostApertureRead fnc off len s := rfl
@[simp] theorem exec_hostApertureWrite (fnc : Nat) (off : Nat) (data : List Byte) (s : State) : exec (.hostApertureWrite fnc off data) s = execHostApertureWrite fnc off data s := rfl
@[simp] theorem exec_hostReadTimeout (tid : Nat) (idx : Nat) (s : State) : exec (.hostReadTimeout tid idx) s = execHostReadTimeout tid idx s := rfl
@[simp] theorem exec_peerRequest (r : PeerReq) (s : State) : exec (.peerRequest r) s = execPeerRequest r s := rfl
@[simp] theorem exec_flitReceive (port : Nat) (flit : List Byte) (s : State) : exec (.flitReceive port flit) s = execFlitReceive port flit s := rfl
@[simp] theorem exec_portDown (port : Nat) (s : State) : exec (.portDown port) s = execPortDown port s := rfl
@[simp] theorem exec_reduceContribution (cmd : Nat) (ranks : List Nat) (data : List Byte) (s : State) : exec (.reduceContribution cmd ranks data) s = execReduceContribution cmd ranks data s := rfl
@[simp] theorem exec_nvmeDoorbell (bridge : Nat) (qp : Nat) (v : Nat) (s : State) : exec (.nvmeDoorbell bridge qp v) s = execNvmeDoorbell bridge qp v s := rfl
@[simp] theorem exec_nvmeCompletion (bridge : Nat) (qp : Nat) (data : List Byte) (s : State) : exec (.nvmeCompletion bridge qp data) s = execNvmeCompletion bridge qp data s := rfl
@[simp] theorem exec_patrolScrub (line : Nat) (errs : Nat) (s : State) : exec (.patrolScrub line errs) s = execPatrolScrub line errs s := rfl
@[simp] theorem exec_reset (s : State) : exec (.reset) s = execReset s := rfl
@[simp] theorem exec_powerOnBoot (s : State) : exec (.powerOnBoot) s = execPowerOnBoot s := rfl
@[simp] theorem exec_kernelImageLoad (image : List Byte) (s : State) : exec (.kernelImageLoad image) s = execKernelImageLoad image s := rfl
@[simp] theorem exec_pldmFirmwareUpdate (image : List Byte) (s : State) : exec (.pldmFirmwareUpdate image) s = execPldmFirmwareUpdate image s := rfl
@[simp] theorem exec_sensorSample (samples : List Nat) (s : State) : exec (.sensorSample samples) s = execSensorSample samples s := rfl
@[simp] theorem exec_vcoreRemoved (s : State) : exec (.vcoreRemoved) s = execVcoreRemoved s := rfl
@[simp] theorem exec_vauxRemoved (s : State) : exec (.vauxRemoved) s = execVauxRemoved s := rfl
@[simp] theorem exec_eventLogRead (fromKernel : Bool) (s : State) : exec (.eventLogRead fromKernel) s = execEventLogRead fromKernel s := rfl
@[simp] theorem exec_attestationReport (nonce : List Byte) (s : State) : exec (.attestationReport nonce) s = execAttestationReport nonce s := rfl
@[simp] theorem exec_measurementExtend (reg : Nat) (digest : List Byte) (s : State) : exec (.measurementExtend reg digest) s = execMeasurementExtend reg digest s := rfl
@[simp] theorem exec_keySlotWrite (slot : Nat) (owner : Nat) (key : List Byte) (s : State) : exec (.keySlotWrite slot owner key) s = execKeySlotWrite slot owner key s := rfl
@[simp] theorem exec_keySlotRead (slot : Nat) (owner : Nat) (s : State) : exec (.keySlotRead slot owner) s = execKeySlotRead slot owner s := rfl
@[simp] theorem exec_keySlotClear (slot : Nat) (s : State) : exec (.keySlotClear slot) s = execKeySlotClear slot s := rfl
@[simp] theorem exec_debugNonceRequest (nonce : List Byte) (s : State) : exec (.debugNonceRequest nonce) s = execDebugNonceRequest nonce s := rfl
@[simp] theorem exec_debugUnlock (token : List Byte) (s : State) : exec (.debugUnlock token) s = execDebugUnlock token s := rfl
@[simp] theorem exec_debugExpiry (s : State) : exec (.debugExpiry) s = execDebugExpiry s := rfl
@[simp] theorem exec_illegalCommandEntry (q : Nat) (s : State) : exec (.illegalCommandEntry q) s = execIllegalCommandEntry q s := rfl
@[simp] theorem exec_flitReplay (port : Nat) (s : State) : exec (.flitReplay port) s = execFlitReplay port s := rfl
@[simp] theorem exec_hostAtomicop (fnc : Nat) (off : Nat) (s : State) : exec (.hostAtomicop fnc off) s = execHostAtomicop fnc off s := rfl
@[simp] theorem exec_debugPortAccess (r : DebugReq) (s : State) : exec (.debugPortAccess r) s = execDebugPortAccess r s := rfl

end Sys2Proof.Machine
end

