-- ==== Sys2Proof/Laws/State.lean ====
section
/-! SUPPORT. What each update of State leaves: one lemma for each field of each update, true by rfl. -/
namespace Sys2Proof.Machine

/-! ### `putTh` writes only threads -/

@[simp] theorem putTh_agenda (s : State) (tid : Nat) (t : Thread) : (s.putTh tid t).agenda = s.agenda := rfl
@[simp] theorem putTh_cur (s : State) (tid : Nat) (t : Thread) : (s.putTh tid t).cur = s.cur := rfl
@[simp] theorem putTh_site (s : State) (tid : Nat) (t : Thread) : (s.putTh tid t).site = s.site := rfl
@[simp] theorem putTh_fresh (s : State) (tid : Nat) (t : Thread) : (s.putTh tid t).fresh = s.fresh := rfl
@[simp] theorem putTh_nextId (s : State) (tid : Nat) (t : Thread) : (s.putTh tid t).nextId = s.nextId := rfl
@[simp] theorem putTh_rr (s : State) (tid : Nat) (t : Thread) : (s.putTh tid t).rr = s.rr := rfl
@[simp] theorem putTh_shot (s : State) (tid : Nat) (t : Thread) : (s.putTh tid t).shot = s.shot := rfl
@[simp] theorem putTh_elder (s : State) (tid : Nat) (t : Thread) : (s.putTh tid t).elder = s.elder := rfl
@[simp] theorem putTh_cid (s : State) (tid : Nat) (t : Thread) : (s.putTh tid t).cid = s.cid := rfl
@[simp] theorem putTh_gtsc (s : State) (tid : Nat) (t : Thread) : (s.putTh tid t).gtsc = s.gtsc := rfl
@[simp] theorem putTh_cycle (s : State) (tid : Nat) (t : Thread) : (s.putTh tid t).cycle = s.cycle := rfl
@[simp] theorem putTh_bts (s : State) (tid : Nat) (t : Thread) : (s.putTh tid t).bts = s.bts := rfl
@[simp] theorem putTh_tasks (s : State) (tid : Nat) (t : Thread) : (s.putTh tid t).tasks = s.tasks := rfl
@[simp] theorem putTh_mem (s : State) (tid : Nat) (t : Thread) : (s.putTh tid t).mem = s.mem := rfl
@[simp] theorem putTh_tab (s : State) (tid : Nat) (t : Thread) : (s.putTh tid t).tab = s.tab := rfl
@[simp] theorem putTh_eng (s : State) (tid : Nat) (t : Thread) : (s.putTh tid t).eng = s.eng := rfl
@[simp] theorem putTh_fab (s : State) (tid : Nat) (t : Thread) : (s.putTh tid t).fab = s.fab := rfl
@[simp] theorem putTh_out (s : State) (tid : Nat) (t : Thread) : (s.putTh tid t).out = s.out := rfl
@[simp] theorem putTh_well (s : State) (tid : Nat) (t : Thread) : (s.putTh tid t).well = s.well := rfl

/-! ### `onTh` writes only threads -/

@[simp] theorem onTh_agenda (s : State) (tid : Nat) (f : Thread → Thread) : (s.onTh tid f).agenda = s.agenda := rfl
@[simp] theorem onTh_cur (s : State) (tid : Nat) (f : Thread → Thread) : (s.onTh tid f).cur = s.cur := rfl
@[simp] theorem onTh_site (s : State) (tid : Nat) (f : Thread → Thread) : (s.onTh tid f).site = s.site := rfl
@[simp] theorem onTh_fresh (s : State) (tid : Nat) (f : Thread → Thread) : (s.onTh tid f).fresh = s.fresh := rfl
@[simp] theorem onTh_nextId (s : State) (tid : Nat) (f : Thread → Thread) : (s.onTh tid f).nextId = s.nextId := rfl
@[simp] theorem onTh_rr (s : State) (tid : Nat) (f : Thread → Thread) : (s.onTh tid f).rr = s.rr := rfl
@[simp] theorem onTh_shot (s : State) (tid : Nat) (f : Thread → Thread) : (s.onTh tid f).shot = s.shot := rfl
@[simp] theorem onTh_elder (s : State) (tid : Nat) (f : Thread → Thread) : (s.onTh tid f).elder = s.elder := rfl
@[simp] theorem onTh_cid (s : State) (tid : Nat) (f : Thread → Thread) : (s.onTh tid f).cid = s.cid := rfl
@[simp] theorem onTh_gtsc (s : State) (tid : Nat) (f : Thread → Thread) : (s.onTh tid f).gtsc = s.gtsc := rfl
@[simp] theorem onTh_cycle (s : State) (tid : Nat) (f : Thread → Thread) : (s.onTh tid f).cycle = s.cycle := rfl
@[simp] theorem onTh_bts (s : State) (tid : Nat) (f : Thread → Thread) : (s.onTh tid f).bts = s.bts := rfl
@[simp] theorem onTh_tasks (s : State) (tid : Nat) (f : Thread → Thread) : (s.onTh tid f).tasks = s.tasks := rfl
@[simp] theorem onTh_mem (s : State) (tid : Nat) (f : Thread → Thread) : (s.onTh tid f).mem = s.mem := rfl
@[simp] theorem onTh_tab (s : State) (tid : Nat) (f : Thread → Thread) : (s.onTh tid f).tab = s.tab := rfl
@[simp] theorem onTh_eng (s : State) (tid : Nat) (f : Thread → Thread) : (s.onTh tid f).eng = s.eng := rfl
@[simp] theorem onTh_fab (s : State) (tid : Nat) (f : Thread → Thread) : (s.onTh tid f).fab = s.fab := rfl
@[simp] theorem onTh_out (s : State) (tid : Nat) (f : Thread → Thread) : (s.onTh tid f).out = s.out := rfl
@[simp] theorem onTh_well (s : State) (tid : Nat) (f : Thread → Thread) : (s.onTh tid f).well = s.well := rfl

/-! ### `onMe` writes only threads -/

@[simp] theorem onMe_agenda (s : State) (f : Thread → Thread) : (s.onMe f).agenda = s.agenda := rfl
@[simp] theorem onMe_cur (s : State) (f : Thread → Thread) : (s.onMe f).cur = s.cur := rfl
@[simp] theorem onMe_site (s : State) (f : Thread → Thread) : (s.onMe f).site = s.site := rfl
@[simp] theorem onMe_fresh (s : State) (f : Thread → Thread) : (s.onMe f).fresh = s.fresh := rfl
@[simp] theorem onMe_nextId (s : State) (f : Thread → Thread) : (s.onMe f).nextId = s.nextId := rfl
@[simp] theorem onMe_rr (s : State) (f : Thread → Thread) : (s.onMe f).rr = s.rr := rfl
@[simp] theorem onMe_shot (s : State) (f : Thread → Thread) : (s.onMe f).shot = s.shot := rfl
@[simp] theorem onMe_elder (s : State) (f : Thread → Thread) : (s.onMe f).elder = s.elder := rfl
@[simp] theorem onMe_cid (s : State) (f : Thread → Thread) : (s.onMe f).cid = s.cid := rfl
@[simp] theorem onMe_gtsc (s : State) (f : Thread → Thread) : (s.onMe f).gtsc = s.gtsc := rfl
@[simp] theorem onMe_cycle (s : State) (f : Thread → Thread) : (s.onMe f).cycle = s.cycle := rfl
@[simp] theorem onMe_bts (s : State) (f : Thread → Thread) : (s.onMe f).bts = s.bts := rfl
@[simp] theorem onMe_tasks (s : State) (f : Thread → Thread) : (s.onMe f).tasks = s.tasks := rfl
@[simp] theorem onMe_mem (s : State) (f : Thread → Thread) : (s.onMe f).mem = s.mem := rfl
@[simp] theorem onMe_tab (s : State) (f : Thread → Thread) : (s.onMe f).tab = s.tab := rfl
@[simp] theorem onMe_eng (s : State) (f : Thread → Thread) : (s.onMe f).eng = s.eng := rfl
@[simp] theorem onMe_fab (s : State) (f : Thread → Thread) : (s.onMe f).fab = s.fab := rfl
@[simp] theorem onMe_out (s : State) (f : Thread → Thread) : (s.onMe f).out = s.out := rfl
@[simp] theorem onMe_well (s : State) (f : Thread → Thread) : (s.onMe f).well = s.well := rfl

/-! ### `logRec` writes only well -/

@[simp] theorem logRec_agenda (s : State) (r : LogRec) : (s.logRec r).agenda = s.agenda := rfl
@[simp] theorem logRec_cur (s : State) (r : LogRec) : (s.logRec r).cur = s.cur := rfl
@[simp] theorem logRec_site (s : State) (r : LogRec) : (s.logRec r).site = s.site := rfl
@[simp] theorem logRec_fresh (s : State) (r : LogRec) : (s.logRec r).fresh = s.fresh := rfl
@[simp] theorem logRec_nextId (s : State) (r : LogRec) : (s.logRec r).nextId = s.nextId := rfl
@[simp] theorem logRec_threads (s : State) (r : LogRec) : (s.logRec r).threads = s.threads := rfl
@[simp] theorem logRec_rr (s : State) (r : LogRec) : (s.logRec r).rr = s.rr := rfl
@[simp] theorem logRec_shot (s : State) (r : LogRec) : (s.logRec r).shot = s.shot := rfl
@[simp] theorem logRec_elder (s : State) (r : LogRec) : (s.logRec r).elder = s.elder := rfl
@[simp] theorem logRec_cid (s : State) (r : LogRec) : (s.logRec r).cid = s.cid := rfl
@[simp] theorem logRec_gtsc (s : State) (r : LogRec) : (s.logRec r).gtsc = s.gtsc := rfl
@[simp] theorem logRec_cycle (s : State) (r : LogRec) : (s.logRec r).cycle = s.cycle := rfl
@[simp] theorem logRec_bts (s : State) (r : LogRec) : (s.logRec r).bts = s.bts := rfl
@[simp] theorem logRec_tasks (s : State) (r : LogRec) : (s.logRec r).tasks = s.tasks := rfl
@[simp] theorem logRec_mem (s : State) (r : LogRec) : (s.logRec r).mem = s.mem := rfl
@[simp] theorem logRec_tab (s : State) (r : LogRec) : (s.logRec r).tab = s.tab := rfl
@[simp] theorem logRec_eng (s : State) (r : LogRec) : (s.logRec r).eng = s.eng := rfl
@[simp] theorem logRec_fab (s : State) (r : LogRec) : (s.logRec r).fab = s.fab := rfl
@[simp] theorem logRec_out (s : State) (r : LogRec) : (s.logRec r).out = s.out := rfl

/-! ### `recHard` writes only well -/

@[simp] theorem recHard_agenda (s : State) (src code kind loc : Nat) (v : W) : (s.recHard src code kind loc v).agenda = s.agenda := rfl
@[simp] theorem recHard_cur (s : State) (src code kind loc : Nat) (v : W) : (s.recHard src code kind loc v).cur = s.cur := rfl
@[simp] theorem recHard_site (s : State) (src code kind loc : Nat) (v : W) : (s.recHard src code kind loc v).site = s.site := rfl
@[simp] theorem recHard_fresh (s : State) (src code kind loc : Nat) (v : W) : (s.recHard src code kind loc v).fresh = s.fresh := rfl
@[simp] theorem recHard_nextId (s : State) (src code kind loc : Nat) (v : W) : (s.recHard src code kind loc v).nextId = s.nextId := rfl
@[simp] theorem recHard_threads (s : State) (src code kind loc : Nat) (v : W) : (s.recHard src code kind loc v).threads = s.threads := rfl
@[simp] theorem recHard_rr (s : State) (src code kind loc : Nat) (v : W) : (s.recHard src code kind loc v).rr = s.rr := rfl
@[simp] theorem recHard_shot (s : State) (src code kind loc : Nat) (v : W) : (s.recHard src code kind loc v).shot = s.shot := rfl
@[simp] theorem recHard_elder (s : State) (src code kind loc : Nat) (v : W) : (s.recHard src code kind loc v).elder = s.elder := rfl
@[simp] theorem recHard_cid (s : State) (src code kind loc : Nat) (v : W) : (s.recHard src code kind loc v).cid = s.cid := rfl
@[simp] theorem recHard_gtsc (s : State) (src code kind loc : Nat) (v : W) : (s.recHard src code kind loc v).gtsc = s.gtsc := rfl
@[simp] theorem recHard_cycle (s : State) (src code kind loc : Nat) (v : W) : (s.recHard src code kind loc v).cycle = s.cycle := rfl
@[simp] theorem recHard_bts (s : State) (src code kind loc : Nat) (v : W) : (s.recHard src code kind loc v).bts = s.bts := rfl
@[simp] theorem recHard_tasks (s : State) (src code kind loc : Nat) (v : W) : (s.recHard src code kind loc v).tasks = s.tasks := rfl
@[simp] theorem recHard_mem (s : State) (src code kind loc : Nat) (v : W) : (s.recHard src code kind loc v).mem = s.mem := rfl
@[simp] theorem recHard_tab (s : State) (src code kind loc : Nat) (v : W) : (s.recHard src code kind loc v).tab = s.tab := rfl
@[simp] theorem recHard_eng (s : State) (src code kind loc : Nat) (v : W) : (s.recHard src code kind loc v).eng = s.eng := rfl
@[simp] theorem recHard_fab (s : State) (src code kind loc : Nat) (v : W) : (s.recHard src code kind loc v).fab = s.fab := rfl
@[simp] theorem recHard_out (s : State) (src code kind loc : Nat) (v : W) : (s.recHard src code kind loc v).out = s.out := rfl

/-! ### `post` writes only threads and shot -/

@[simp] theorem post_agenda (s : State) (tid v : Nat) : (s.post tid v).agenda = s.agenda := rfl
@[simp] theorem post_cur (s : State) (tid v : Nat) : (s.post tid v).cur = s.cur := rfl
@[simp] theorem post_site (s : State) (tid v : Nat) : (s.post tid v).site = s.site := rfl
@[simp] theorem post_fresh (s : State) (tid v : Nat) : (s.post tid v).fresh = s.fresh := rfl
@[simp] theorem post_nextId (s : State) (tid v : Nat) : (s.post tid v).nextId = s.nextId := rfl
@[simp] theorem post_rr (s : State) (tid v : Nat) : (s.post tid v).rr = s.rr := rfl
@[simp] theorem post_elder (s : State) (tid v : Nat) : (s.post tid v).elder = s.elder := rfl
@[simp] theorem post_cid (s : State) (tid v : Nat) : (s.post tid v).cid = s.cid := rfl
@[simp] theorem post_gtsc (s : State) (tid v : Nat) : (s.post tid v).gtsc = s.gtsc := rfl
@[simp] theorem post_cycle (s : State) (tid v : Nat) : (s.post tid v).cycle = s.cycle := rfl
@[simp] theorem post_bts (s : State) (tid v : Nat) : (s.post tid v).bts = s.bts := rfl
@[simp] theorem post_tasks (s : State) (tid v : Nat) : (s.post tid v).tasks = s.tasks := rfl
@[simp] theorem post_mem (s : State) (tid v : Nat) : (s.post tid v).mem = s.mem := rfl
@[simp] theorem post_tab (s : State) (tid v : Nat) : (s.post tid v).tab = s.tab := rfl
@[simp] theorem post_eng (s : State) (tid v : Nat) : (s.post tid v).eng = s.eng := rfl
@[simp] theorem post_fab (s : State) (tid v : Nat) : (s.post tid v).fab = s.fab := rfl
@[simp] theorem post_out (s : State) (tid v : Nat) : (s.post tid v).out = s.out := rfl
@[simp] theorem post_well (s : State) (tid v : Nat) : (s.post tid v).well = s.well := rfl

/-! ### `mark` writes only shot -/

@[simp] theorem mark_agenda (s : State) (u : Issuer) : (s.mark u).agenda = s.agenda := rfl
@[simp] theorem mark_cur (s : State) (u : Issuer) : (s.mark u).cur = s.cur := rfl
@[simp] theorem mark_site (s : State) (u : Issuer) : (s.mark u).site = s.site := rfl
@[simp] theorem mark_fresh (s : State) (u : Issuer) : (s.mark u).fresh = s.fresh := rfl
@[simp] theorem mark_nextId (s : State) (u : Issuer) : (s.mark u).nextId = s.nextId := rfl
@[simp] theorem mark_threads (s : State) (u : Issuer) : (s.mark u).threads = s.threads := rfl
@[simp] theorem mark_rr (s : State) (u : Issuer) : (s.mark u).rr = s.rr := rfl
@[simp] theorem mark_elder (s : State) (u : Issuer) : (s.mark u).elder = s.elder := rfl
@[simp] theorem mark_cid (s : State) (u : Issuer) : (s.mark u).cid = s.cid := rfl
@[simp] theorem mark_gtsc (s : State) (u : Issuer) : (s.mark u).gtsc = s.gtsc := rfl
@[simp] theorem mark_cycle (s : State) (u : Issuer) : (s.mark u).cycle = s.cycle := rfl
@[simp] theorem mark_bts (s : State) (u : Issuer) : (s.mark u).bts = s.bts := rfl
@[simp] theorem mark_tasks (s : State) (u : Issuer) : (s.mark u).tasks = s.tasks := rfl
@[simp] theorem mark_mem (s : State) (u : Issuer) : (s.mark u).mem = s.mem := rfl
@[simp] theorem mark_tab (s : State) (u : Issuer) : (s.mark u).tab = s.tab := rfl
@[simp] theorem mark_eng (s : State) (u : Issuer) : (s.mark u).eng = s.eng := rfl
@[simp] theorem mark_fab (s : State) (u : Issuer) : (s.mark u).fab = s.fab := rfl
@[simp] theorem mark_out (s : State) (u : Issuer) : (s.mark u).out = s.out := rfl
@[simp] theorem mark_well (s : State) (u : Issuer) : (s.mark u).well = s.well := rfl

/-! ### `refresh` writes only mem -/

@[simp] theorem refresh_agenda (s : State) (pas : List Nat) : (s.refresh pas).agenda = s.agenda := rfl
@[simp] theorem refresh_cur (s : State) (pas : List Nat) : (s.refresh pas).cur = s.cur := rfl
@[simp] theorem refresh_site (s : State) (pas : List Nat) : (s.refresh pas).site = s.site := rfl
@[simp] theorem refresh_fresh (s : State) (pas : List Nat) : (s.refresh pas).fresh = s.fresh := rfl
@[simp] theorem refresh_nextId (s : State) (pas : List Nat) : (s.refresh pas).nextId = s.nextId := rfl
@[simp] theorem refresh_threads (s : State) (pas : List Nat) : (s.refresh pas).threads = s.threads := rfl
@[simp] theorem refresh_rr (s : State) (pas : List Nat) : (s.refresh pas).rr = s.rr := rfl
@[simp] theorem refresh_shot (s : State) (pas : List Nat) : (s.refresh pas).shot = s.shot := rfl
@[simp] theorem refresh_elder (s : State) (pas : List Nat) : (s.refresh pas).elder = s.elder := rfl
@[simp] theorem refresh_cid (s : State) (pas : List Nat) : (s.refresh pas).cid = s.cid := rfl
@[simp] theorem refresh_gtsc (s : State) (pas : List Nat) : (s.refresh pas).gtsc = s.gtsc := rfl
@[simp] theorem refresh_cycle (s : State) (pas : List Nat) : (s.refresh pas).cycle = s.cycle := rfl
@[simp] theorem refresh_bts (s : State) (pas : List Nat) : (s.refresh pas).bts = s.bts := rfl
@[simp] theorem refresh_tasks (s : State) (pas : List Nat) : (s.refresh pas).tasks = s.tasks := rfl
@[simp] theorem refresh_tab (s : State) (pas : List Nat) : (s.refresh pas).tab = s.tab := rfl
@[simp] theorem refresh_eng (s : State) (pas : List Nat) : (s.refresh pas).eng = s.eng := rfl
@[simp] theorem refresh_fab (s : State) (pas : List Nat) : (s.refresh pas).fab = s.fab := rfl
@[simp] theorem refresh_out (s : State) (pas : List Nat) : (s.refresh pas).out = s.out := rfl
@[simp] theorem refresh_well (s : State) (pas : List Nat) : (s.refresh pas).well = s.well := rfl

/-! ### `bring` writes only mem -/

@[simp] theorem bring_agenda (s : State) (pas : List Nat) : (s.bring pas).agenda = s.agenda := rfl
@[simp] theorem bring_cur (s : State) (pas : List Nat) : (s.bring pas).cur = s.cur := rfl
@[simp] theorem bring_site (s : State) (pas : List Nat) : (s.bring pas).site = s.site := rfl
@[simp] theorem bring_fresh (s : State) (pas : List Nat) : (s.bring pas).fresh = s.fresh := rfl
@[simp] theorem bring_nextId (s : State) (pas : List Nat) : (s.bring pas).nextId = s.nextId := rfl
@[simp] theorem bring_threads (s : State) (pas : List Nat) : (s.bring pas).threads = s.threads := rfl
@[simp] theorem bring_rr (s : State) (pas : List Nat) : (s.bring pas).rr = s.rr := rfl
@[simp] theorem bring_shot (s : State) (pas : List Nat) : (s.bring pas).shot = s.shot := rfl
@[simp] theorem bring_elder (s : State) (pas : List Nat) : (s.bring pas).elder = s.elder := rfl
@[simp] theorem bring_cid (s : State) (pas : List Nat) : (s.bring pas).cid = s.cid := rfl
@[simp] theorem bring_gtsc (s : State) (pas : List Nat) : (s.bring pas).gtsc = s.gtsc := rfl
@[simp] theorem bring_cycle (s : State) (pas : List Nat) : (s.bring pas).cycle = s.cycle := rfl
@[simp] theorem bring_bts (s : State) (pas : List Nat) : (s.bring pas).bts = s.bts := rfl
@[simp] theorem bring_tasks (s : State) (pas : List Nat) : (s.bring pas).tasks = s.tasks := rfl
@[simp] theorem bring_tab (s : State) (pas : List Nat) : (s.bring pas).tab = s.tab := rfl
@[simp] theorem bring_eng (s : State) (pas : List Nat) : (s.bring pas).eng = s.eng := rfl
@[simp] theorem bring_fab (s : State) (pas : List Nat) : (s.bring pas).fab = s.fab := rfl
@[simp] theorem bring_out (s : State) (pas : List Nat) : (s.bring pas).out = s.out := rfl
@[simp] theorem bring_well (s : State) (pas : List Nat) : (s.bring pas).well = s.well := rfl

/-! ### `onTask` writes only tasks -/

@[simp] theorem onTask_agenda (s : State) (id : Nat) (f : Task → Task) : (s.onTask id f).agenda = s.agenda := rfl
@[simp] theorem onTask_cur (s : State) (id : Nat) (f : Task → Task) : (s.onTask id f).cur = s.cur := rfl
@[simp] theorem onTask_site (s : State) (id : Nat) (f : Task → Task) : (s.onTask id f).site = s.site := rfl
@[simp] theorem onTask_fresh (s : State) (id : Nat) (f : Task → Task) : (s.onTask id f).fresh = s.fresh := rfl
@[simp] theorem onTask_nextId (s : State) (id : Nat) (f : Task → Task) : (s.onTask id f).nextId = s.nextId := rfl
@[simp] theorem onTask_threads (s : State) (id : Nat) (f : Task → Task) : (s.onTask id f).threads = s.threads := rfl
@[simp] theorem onTask_rr (s : State) (id : Nat) (f : Task → Task) : (s.onTask id f).rr = s.rr := rfl
@[simp] theorem onTask_shot (s : State) (id : Nat) (f : Task → Task) : (s.onTask id f).shot = s.shot := rfl
@[simp] theorem onTask_elder (s : State) (id : Nat) (f : Task → Task) : (s.onTask id f).elder = s.elder := rfl
@[simp] theorem onTask_cid (s : State) (id : Nat) (f : Task → Task) : (s.onTask id f).cid = s.cid := rfl
@[simp] theorem onTask_gtsc (s : State) (id : Nat) (f : Task → Task) : (s.onTask id f).gtsc = s.gtsc := rfl
@[simp] theorem onTask_cycle (s : State) (id : Nat) (f : Task → Task) : (s.onTask id f).cycle = s.cycle := rfl
@[simp] theorem onTask_bts (s : State) (id : Nat) (f : Task → Task) : (s.onTask id f).bts = s.bts := rfl
@[simp] theorem onTask_mem (s : State) (id : Nat) (f : Task → Task) : (s.onTask id f).mem = s.mem := rfl
@[simp] theorem onTask_tab (s : State) (id : Nat) (f : Task → Task) : (s.onTask id f).tab = s.tab := rfl
@[simp] theorem onTask_eng (s : State) (id : Nat) (f : Task → Task) : (s.onTask id f).eng = s.eng := rfl
@[simp] theorem onTask_fab (s : State) (id : Nat) (f : Task → Task) : (s.onTask id f).fab = s.fab := rfl
@[simp] theorem onTask_out (s : State) (id : Nat) (f : Task → Task) : (s.onTask id f).out = s.out := rfl
@[simp] theorem onTask_well (s : State) (id : Nat) (f : Task → Task) : (s.onTask id f).well = s.well := rfl

/-! ### `putInv` writes only fab -/

@[simp] theorem putInv_agenda (s : State) (iid : Nat) (i : Inv) : (s.putInv iid i).agenda = s.agenda := rfl
@[simp] theorem putInv_cur (s : State) (iid : Nat) (i : Inv) : (s.putInv iid i).cur = s.cur := rfl
@[simp] theorem putInv_site (s : State) (iid : Nat) (i : Inv) : (s.putInv iid i).site = s.site := rfl
@[simp] theorem putInv_fresh (s : State) (iid : Nat) (i : Inv) : (s.putInv iid i).fresh = s.fresh := rfl
@[simp] theorem putInv_nextId (s : State) (iid : Nat) (i : Inv) : (s.putInv iid i).nextId = s.nextId := rfl
@[simp] theorem putInv_threads (s : State) (iid : Nat) (i : Inv) : (s.putInv iid i).threads = s.threads := rfl
@[simp] theorem putInv_rr (s : State) (iid : Nat) (i : Inv) : (s.putInv iid i).rr = s.rr := rfl
@[simp] theorem putInv_shot (s : State) (iid : Nat) (i : Inv) : (s.putInv iid i).shot = s.shot := rfl
@[simp] theorem putInv_elder (s : State) (iid : Nat) (i : Inv) : (s.putInv iid i).elder = s.elder := rfl
@[simp] theorem putInv_cid (s : State) (iid : Nat) (i : Inv) : (s.putInv iid i).cid = s.cid := rfl
@[simp] theorem putInv_gtsc (s : State) (iid : Nat) (i : Inv) : (s.putInv iid i).gtsc = s.gtsc := rfl
@[simp] theorem putInv_cycle (s : State) (iid : Nat) (i : Inv) : (s.putInv iid i).cycle = s.cycle := rfl
@[simp] theorem putInv_bts (s : State) (iid : Nat) (i : Inv) : (s.putInv iid i).bts = s.bts := rfl
@[simp] theorem putInv_tasks (s : State) (iid : Nat) (i : Inv) : (s.putInv iid i).tasks = s.tasks := rfl
@[simp] theorem putInv_mem (s : State) (iid : Nat) (i : Inv) : (s.putInv iid i).mem = s.mem := rfl
@[simp] theorem putInv_tab (s : State) (iid : Nat) (i : Inv) : (s.putInv iid i).tab = s.tab := rfl
@[simp] theorem putInv_eng (s : State) (iid : Nat) (i : Inv) : (s.putInv iid i).eng = s.eng := rfl
@[simp] theorem putInv_out (s : State) (iid : Nat) (i : Inv) : (s.putInv iid i).out = s.out := rfl
@[simp] theorem putInv_well (s : State) (iid : Nat) (i : Inv) : (s.putInv iid i).well = s.well := rfl

/-! ### `advance` writes only threads -/

@[simp] theorem advance_agenda (s : State) : (advance s).agenda = s.agenda := rfl
@[simp] theorem advance_cur (s : State) : (advance s).cur = s.cur := rfl
@[simp] theorem advance_site (s : State) : (advance s).site = s.site := rfl
@[simp] theorem advance_fresh (s : State) : (advance s).fresh = s.fresh := rfl
@[simp] theorem advance_nextId (s : State) : (advance s).nextId = s.nextId := rfl
@[simp] theorem advance_rr (s : State) : (advance s).rr = s.rr := rfl
@[simp] theorem advance_shot (s : State) : (advance s).shot = s.shot := rfl
@[simp] theorem advance_elder (s : State) : (advance s).elder = s.elder := rfl
@[simp] theorem advance_cid (s : State) : (advance s).cid = s.cid := rfl
@[simp] theorem advance_gtsc (s : State) : (advance s).gtsc = s.gtsc := rfl
@[simp] theorem advance_cycle (s : State) : (advance s).cycle = s.cycle := rfl
@[simp] theorem advance_bts (s : State) : (advance s).bts = s.bts := rfl
@[simp] theorem advance_tasks (s : State) : (advance s).tasks = s.tasks := rfl
@[simp] theorem advance_mem (s : State) : (advance s).mem = s.mem := rfl
@[simp] theorem advance_tab (s : State) : (advance s).tab = s.tab := rfl
@[simp] theorem advance_eng (s : State) : (advance s).eng = s.eng := rfl
@[simp] theorem advance_fab (s : State) : (advance s).fab = s.fab := rfl
@[simp] theorem advance_out (s : State) : (advance s).out = s.out := rfl
@[simp] theorem advance_well (s : State) : (advance s).well = s.well := rfl

/-! ### `stallOn` writes only threads -/

@[simp] theorem stallOn_agenda (w : Why) (s : State) : (stallOn w s).agenda = s.agenda := rfl
@[simp] theorem stallOn_cur (w : Why) (s : State) : (stallOn w s).cur = s.cur := rfl
@[simp] theorem stallOn_site (w : Why) (s : State) : (stallOn w s).site = s.site := rfl
@[simp] theorem stallOn_fresh (w : Why) (s : State) : (stallOn w s).fresh = s.fresh := rfl
@[simp] theorem stallOn_nextId (w : Why) (s : State) : (stallOn w s).nextId = s.nextId := rfl
@[simp] theorem stallOn_rr (w : Why) (s : State) : (stallOn w s).rr = s.rr := rfl
@[simp] theorem stallOn_shot (w : Why) (s : State) : (stallOn w s).shot = s.shot := rfl
@[simp] theorem stallOn_elder (w : Why) (s : State) : (stallOn w s).elder = s.elder := rfl
@[simp] theorem stallOn_cid (w : Why) (s : State) : (stallOn w s).cid = s.cid := rfl
@[simp] theorem stallOn_gtsc (w : Why) (s : State) : (stallOn w s).gtsc = s.gtsc := rfl
@[simp] theorem stallOn_cycle (w : Why) (s : State) : (stallOn w s).cycle = s.cycle := rfl
@[simp] theorem stallOn_bts (w : Why) (s : State) : (stallOn w s).bts = s.bts := rfl
@[simp] theorem stallOn_tasks (w : Why) (s : State) : (stallOn w s).tasks = s.tasks := rfl
@[simp] theorem stallOn_mem (w : Why) (s : State) : (stallOn w s).mem = s.mem := rfl
@[simp] theorem stallOn_tab (w : Why) (s : State) : (stallOn w s).tab = s.tab := rfl
@[simp] theorem stallOn_eng (w : Why) (s : State) : (stallOn w s).eng = s.eng := rfl
@[simp] theorem stallOn_fab (w : Why) (s : State) : (stallOn w s).fab = s.fab := rfl
@[simp] theorem stallOn_out (w : Why) (s : State) : (stallOn w s).out = s.out := rfl
@[simp] theorem stallOn_well (w : Why) (s : State) : (stallOn w s).well = s.well := rfl

/-! ### `leaveTrap` writes only threads -/

@[simp] theorem leaveTrap_agenda (tid : Nat) (s : State) : (leaveTrap tid s).agenda = s.agenda := rfl
@[simp] theorem leaveTrap_cur (tid : Nat) (s : State) : (leaveTrap tid s).cur = s.cur := rfl
@[simp] theorem leaveTrap_site (tid : Nat) (s : State) : (leaveTrap tid s).site = s.site := rfl
@[simp] theorem leaveTrap_fresh (tid : Nat) (s : State) : (leaveTrap tid s).fresh = s.fresh := rfl
@[simp] theorem leaveTrap_nextId (tid : Nat) (s : State) : (leaveTrap tid s).nextId = s.nextId := rfl
@[simp] theorem leaveTrap_rr (tid : Nat) (s : State) : (leaveTrap tid s).rr = s.rr := rfl
@[simp] theorem leaveTrap_shot (tid : Nat) (s : State) : (leaveTrap tid s).shot = s.shot := rfl
@[simp] theorem leaveTrap_elder (tid : Nat) (s : State) : (leaveTrap tid s).elder = s.elder := rfl
@[simp] theorem leaveTrap_cid (tid : Nat) (s : State) : (leaveTrap tid s).cid = s.cid := rfl
@[simp] theorem leaveTrap_gtsc (tid : Nat) (s : State) : (leaveTrap tid s).gtsc = s.gtsc := rfl
@[simp] theorem leaveTrap_cycle (tid : Nat) (s : State) : (leaveTrap tid s).cycle = s.cycle := rfl
@[simp] theorem leaveTrap_bts (tid : Nat) (s : State) : (leaveTrap tid s).bts = s.bts := rfl
@[simp] theorem leaveTrap_tasks (tid : Nat) (s : State) : (leaveTrap tid s).tasks = s.tasks := rfl
@[simp] theorem leaveTrap_mem (tid : Nat) (s : State) : (leaveTrap tid s).mem = s.mem := rfl
@[simp] theorem leaveTrap_tab (tid : Nat) (s : State) : (leaveTrap tid s).tab = s.tab := rfl
@[simp] theorem leaveTrap_eng (tid : Nat) (s : State) : (leaveTrap tid s).eng = s.eng := rfl
@[simp] theorem leaveTrap_fab (tid : Nat) (s : State) : (leaveTrap tid s).fab = s.fab := rfl
@[simp] theorem leaveTrap_out (tid : Nat) (s : State) : (leaveTrap tid s).out = s.out := rfl
@[simp] theorem leaveTrap_well (tid : Nat) (s : State) : (leaveTrap tid s).well = s.well := rfl

/-! ### `takeTrap` writes only threads and well -/

@[simp] theorem takeTrap_agenda (tid code : Nat) (pc v : W) (s : State) : (takeTrap tid code pc v s).agenda = s.agenda := rfl
@[simp] theorem takeTrap_cur (tid code : Nat) (pc v : W) (s : State) : (takeTrap tid code pc v s).cur = s.cur := rfl
@[simp] theorem takeTrap_site (tid code : Nat) (pc v : W) (s : State) : (takeTrap tid code pc v s).site = s.site := rfl
@[simp] theorem takeTrap_fresh (tid code : Nat) (pc v : W) (s : State) : (takeTrap tid code pc v s).fresh = s.fresh := rfl
@[simp] theorem takeTrap_nextId (tid code : Nat) (pc v : W) (s : State) : (takeTrap tid code pc v s).nextId = s.nextId := rfl
@[simp] theorem takeTrap_rr (tid code : Nat) (pc v : W) (s : State) : (takeTrap tid code pc v s).rr = s.rr := rfl
@[simp] theorem takeTrap_shot (tid code : Nat) (pc v : W) (s : State) : (takeTrap tid code pc v s).shot = s.shot := rfl
@[simp] theorem takeTrap_elder (tid code : Nat) (pc v : W) (s : State) : (takeTrap tid code pc v s).elder = s.elder := rfl
@[simp] theorem takeTrap_cid (tid code : Nat) (pc v : W) (s : State) : (takeTrap tid code pc v s).cid = s.cid := rfl
@[simp] theorem takeTrap_gtsc (tid code : Nat) (pc v : W) (s : State) : (takeTrap tid code pc v s).gtsc = s.gtsc := rfl
@[simp] theorem takeTrap_cycle (tid code : Nat) (pc v : W) (s : State) : (takeTrap tid code pc v s).cycle = s.cycle := rfl
@[simp] theorem takeTrap_bts (tid code : Nat) (pc v : W) (s : State) : (takeTrap tid code pc v s).bts = s.bts := rfl
@[simp] theorem takeTrap_tasks (tid code : Nat) (pc v : W) (s : State) : (takeTrap tid code pc v s).tasks = s.tasks := rfl
@[simp] theorem takeTrap_mem (tid code : Nat) (pc v : W) (s : State) : (takeTrap tid code pc v s).mem = s.mem := rfl
@[simp] theorem takeTrap_tab (tid code : Nat) (pc v : W) (s : State) : (takeTrap tid code pc v s).tab = s.tab := rfl
@[simp] theorem takeTrap_eng (tid code : Nat) (pc v : W) (s : State) : (takeTrap tid code pc v s).eng = s.eng := rfl
@[simp] theorem takeTrap_fab (tid code : Nat) (pc v : W) (s : State) : (takeTrap tid code pc v s).fab = s.fab := rfl
@[simp] theorem takeTrap_out (tid code : Nat) (pc v : W) (s : State) : (takeTrap tid code pc v s).out = s.out := rfl

/-! ### What they write -/

theorem putTh_threads (s : State) (tid : Nat) (t : Thread) : (s.putTh tid t).threads = Tab.put s.threads tid t := rfl
theorem onTh_threads (s : State) (tid : Nat) (f : Thread → Thread) : (s.onTh tid f).threads = Tab.put s.threads tid (f (s.th tid)) := rfl
theorem putInv_invs (s : State) (iid : Nat) (i : Inv) : (s.putInv iid i).fab.invs = Tab.put s.fab.invs iid i := rfl
@[simp] theorem putInv_nets (s : State) (iid : Nat) (i : Inv) : (s.putInv iid i).fab.nets = s.fab.nets := rfl
@[simp] theorem putInv_basin (s : State) (iid : Nat) (i : Inv) : (s.putInv iid i).fab.basin = s.fab.basin := rfl

end Sys2Proof.Machine
end

