-- ==== Sys2Proof/Laws/Tab.lean ====
section
/-! SUPPORT. Sparse tables: what look, put, del and set give, and that they keep the canonical form. -/
namespace Sys2Proof.Machine

variable {α : Type}

theorem Tab.look_put_self (t : Tab α) (k : Nat) (v : α) : Tab.look (Tab.put t k v) k = some v := by
  induction t with
  | nil => simp [Tab.put, Tab.look]
  | cons e t ih =>
    unfold Tab.put
    split
    · simp [Tab.look]
    · split
      · simp [Tab.look]
      · simp [Tab.look, *]

theorem Tab.look_put_ne (t : Tab α) {k j : Nat} (v : α) (h : j ≠ k) : Tab.look (Tab.put t k v) j = Tab.look t j := by
  induction t with
  | nil => simp [Tab.put, Tab.look, h]
  | cons e t ih =>
    unfold Tab.put
    split
    · subst_vars; simp [Tab.look, h]
    · split
      · simp [Tab.look, h]
      · simp [Tab.look, ih]

theorem Tab.look_del_self (t : Tab α) (k : Nat) : Tab.look (Tab.del t k) k = none := by
  induction t with
  | nil => rfl
  | cons e t ih =>
    unfold Tab.del
    split
    · exact ih
    · simp [Tab.look, *]

theorem Tab.look_del_ne (t : Tab α) {k j : Nat} (h : j ≠ k) : Tab.look (Tab.del t k) j = Tab.look t j := by
  induction t with
  | nil => rfl
  | cons e t ih =>
    unfold Tab.del
    split
    · subst_vars; simp [Tab.look, h, ih]
    · simp [Tab.look, ih]

@[simp] theorem Tab.getD_put_self (t : Tab α) (k : Nat) (v d : α) : Tab.getD (Tab.put t k v) k d = v := by
  simp [Tab.getD, Tab.look_put_self]

theorem Tab.getD_put_ne (t : Tab α) {k j : Nat} (v d : α) (h : j ≠ k) : Tab.getD (Tab.put t k v) j d = Tab.getD t j d := by
  simp [Tab.getD, Tab.look_put_ne t v h]

@[simp] theorem Tab.getD_set_self [DecidableEq α] (t : Tab α) (k : Nat) (v d : α) : Tab.getD (Tab.set t d k v) k d = v := by
  unfold Tab.set
  split
  · simp [Tab.getD, Tab.look_del_self, *]
  · simp

theorem Tab.getD_set_ne [DecidableEq α] (t : Tab α) {k j : Nat} (v d : α) (h : j ≠ k) :
    Tab.getD (Tab.set t d k v) j d = Tab.getD t j d := by
  unfold Tab.set
  split
  · simp [Tab.getD, Tab.look_del_ne t h]
  · exact Tab.getD_put_ne t v d h

/-! ### Rising keys -/

/-- Every key of a table lies above a number. -/
def Tab.above (t : Tab α) (k : Nat) : Prop := ∀ e ∈ t, k < e.1

theorem Tab.rising_cons (e : Nat × α) (t : Tab α) : Tab.rising (e :: t) = true ↔ Tab.above t e.1 ∧ Tab.rising t = true := by
  induction t generalizing e with
  | nil => simp [Tab.rising, Tab.above]
  | cons b t ih =>
    simp only [Tab.rising, Bool.and_eq_true, decide_eq_true_eq, ih]
    constructor
    · rintro ⟨h, hb, ht⟩
      refine ⟨fun x hx => ?_, hb, ht⟩
      rcases List.mem_cons.mp hx with rfl | hx
      · exact h
      · exact Nat.lt_trans h (hb x hx)
    · rintro ⟨h, hb, ht⟩
      exact ⟨h b (by simp), hb, ht⟩

theorem Tab.above_put {t : Tab α} {j k : Nat} {v : α} (h : Tab.above t j) (hk : j < k) : Tab.above (Tab.put t k v) j := by
  induction t with
  | nil => intro e he; simp [Tab.put] at he; simp [he, hk]
  | cons b t ih =>
    have hb := h b (by simp)
    have ht : Tab.above t j := fun e he => h e (by simp [he])
    unfold Tab.put
    intro e he
    split at he
    · rcases List.mem_cons.mp he with rfl | he
      · exact hk
      · exact ht e he
    · split at he
      · rcases List.mem_cons.mp he with rfl | he
        · exact hk
        · exact h e he
      · rcases List.mem_cons.mp he with rfl | he
        · exact hb
        · exact ih ht e he

theorem Tab.above_del {t : Tab α} {j k : Nat} (h : Tab.above t j) : Tab.above (Tab.del t k) j := by
  induction t with
  | nil => exact h
  | cons b t ih =>
    have ht : Tab.above t j := fun e he => h e (by simp [he])
    unfold Tab.del
    split
    · exact ih ht
    · intro e he
      rcases List.mem_cons.mp he with rfl | he
      · exact h _ (by simp)
      · exact ih ht e he

theorem Tab.rising_put {t : Tab α} {k : Nat} {v : α} (h : Tab.rising t = true) : Tab.rising (Tab.put t k v) = true := by
  induction t with
  | nil => rfl
  | cons b t ih =>
    obtain ⟨hb, ht⟩ := (Tab.rising_cons b t).mp h
    unfold Tab.put
    split
    · subst_vars; exact (Tab.rising_cons _ t).mpr ⟨hb, ht⟩
    · split
      · refine (Tab.rising_cons _ _).mpr ⟨fun e he => ?_, h⟩
        rcases List.mem_cons.mp he with rfl | he
        · assumption
        · exact Nat.lt_trans ‹_› (hb e he)
      · exact (Tab.rising_cons _ _).mpr ⟨Tab.above_put hb (by omega), ih ht⟩

theorem Tab.rising_del {t : Tab α} {k : Nat} (h : Tab.rising t = true) : Tab.rising (Tab.del t k) = true := by
  induction t with
  | nil => rfl
  | cons b t ih =>
    obtain ⟨hb, ht⟩ := (Tab.rising_cons b t).mp h
    unfold Tab.del
    split
    · exact ih ht
    · exact (Tab.rising_cons _ _).mpr ⟨Tab.above_del hb, ih ht⟩

theorem Tab.lean_put [DecidableEq α] {t : Tab α} {d : α} {k : Nat} {v : α} (h : Tab.lean t d = true) (hv : v ≠ d) :
    Tab.lean (Tab.put t k v) d = true := by
  induction t with
  | nil => simp [Tab.put, Tab.lean, hv]
  | cons b t ih =>
    simp only [Tab.lean, List.all_cons, Bool.and_eq_true, decide_eq_true_eq] at h ih ⊢
    unfold Tab.put
    split
    · simpa [hv] using h.2
    · split
      · simpa [hv] using h
      · simpa [h.1] using ih h.2

theorem Tab.lean_del [DecidableEq α] {t : Tab α} {d : α} {k : Nat} (h : Tab.lean t d = true) : Tab.lean (Tab.del t k) d = true := by
  induction t with
  | nil => exact h
  | cons b t ih =>
    simp only [Tab.lean, List.all_cons, Bool.and_eq_true, decide_eq_true_eq] at h ih ⊢
    unfold Tab.del
    split
    · exact ih h.2
    · simpa [h.1] using ih h.2

theorem Tab.rising_set [DecidableEq α] {t : Tab α} {d : α} {k : Nat} {v : α} (h : Tab.rising t = true) : Tab.rising (Tab.set t d k v) = true := by
  unfold Tab.set
  split
  · exact Tab.rising_del h
  · exact Tab.rising_put h

theorem Tab.lean_set [DecidableEq α] {t : Tab α} {d : α} {k : Nat} {v : α} (h : Tab.lean t d = true) : Tab.lean (Tab.set t d k v) d = true := by
  unfold Tab.set
  split
  · exact Tab.lean_del h
  · exact Tab.lean_put h ‹_›

end Sys2Proof.Machine
end

