-- ==== Sys2Proof/Laws/Memory.lean ====
section
/-! SUPPORT. Memory: reading after writing, and that every operation keeps the canonical form. -/
namespace Sys2Proof.Machine

theorem wf_iff (m : Mem) : m.wf = true ↔ Tab.rising m.bytes = true ∧ Tab.lean m.bytes unlisted = true := by
  simp [Mem.wf]

theorem reset_wf : State.reset.mem.wf = true := rfl

/-! ### One byte -/

@[simp] theorem wr_part (m : Mem) (pa : Nat) (v : Byte) : (m.wr pa v).part = m.part := rfl

/-- The key of an address depends on the partitions alone. -/
theorem key_of_part {m m' : Mem} (h : m'.part = m.part) (q : Nat) : m'.key q = m.key q := by
  unfold Mem.key Mem.partOf
  rw [h]

theorem wr_key (m : Mem) (pa q : Nat) (v : Byte) : (m.wr pa v).key q = m.key q := key_of_part (wr_part m pa v) q

theorem wrs_key (bs : List Byte) (m : Mem) (pa q : Nat) : (m.wrs pa bs).key q = m.key q := by
  induction bs generalizing m pa with
  | nil => rfl
  | cons b bs ih => simp [Mem.wrs, ih, wr_key]

theorem rd_wr_self (m : Mem) (pa : Nat) (v : Byte) : (m.wr pa v).rd pa = v := by
  have := wr_key m pa pa v
  simp only [Mem.rd, this]
  exact Tab.getD_set_self _ _ _ _

theorem rd_wr_ne (m : Mem) {pa q : Nat} (v : Byte) (h : m.key q ≠ m.key pa) : (m.wr pa v).rd q = m.rd q := by
  have := wr_key m pa q v
  simp only [Mem.rd, this]
  exact Tab.getD_set_ne m.bytes v unlisted h

theorem rd_wrs_ne (bs : List Byte) (m : Mem) (pa q : Nat) (h : ∀ i < bs.length, m.key q ≠ m.key (pa + i)) :
    (m.wrs pa bs).rd q = m.rd q := by
  induction bs generalizing m pa with
  | nil => rfl
  | cons b bs ih =>
    rw [Mem.wrs, ih]
    · exact rd_wr_ne m b (by simpa using h 0 (by simp))
    · intro i hi
      have := h (i + 1) (by simpa using hi)
      simpa [wr_key, Nat.add_assoc, Nat.add_comm, Nat.add_left_comm] using this

theorem wf_wr {m : Mem} (pa : Nat) (v : Byte) (h : m.wf = true) : (m.wr pa v).wf = true := by
  rw [wf_iff] at h ⊢
  exact ⟨Tab.rising_set h.1, Tab.lean_set h.2⟩

/-! ### Wider writes -/

theorem wf_wrs (bs : List Byte) {m : Mem} (pa : Nat) (h : m.wf = true) : (m.wrs pa bs).wf = true := by
  induction bs generalizing m pa with
  | nil => exact h
  | cons b bs ih => exact ih (pa + 1) (wf_wr pa b h)

theorem setBad_bytes (m : Mem) (pa : Nat) (v : Bool) : (m.setBad pa v).bytes = m.bytes := rfl

theorem setBads_bytes (ls : List Nat) (m : Mem) : (ls.foldl (fun m a => m.setBad a false) m).bytes = m.bytes := by
  induction ls generalizing m with
  | nil => rfl
  | cons l ls ih => simp [List.foldl, ih, setBad_bytes]

/-- A store writes its bytes; one to a package that cannot be reached is dropped (R353). -/
theorem store_bytes {m : Mem} {pa : Nat} (bs : List Byte) (h : m.away pa = false) : (m.store pa bs).bytes = (m.wrs pa bs).bytes := by
  unfold Mem.store
  rw [if_neg (by simp [h])]
  exact setBads_bytes _ _

theorem store_away {m : Mem} {pa : Nat} (bs : List Byte) (h : m.away pa = true) : m.store pa bs = m := by simp [Mem.store, h]

theorem wf_of_bytes {m m' : Mem} (e : m'.bytes = m.bytes) (h : m.wf = true) : m'.wf = true := by
  simpa [Mem.wf, e] using h

theorem wf_store {m : Mem} (pa : Nat) (bs : List Byte) (h : m.wf = true) : (m.store pa bs).wf = true := by
  cases k : m.away pa
  · exact wf_of_bytes (store_bytes bs k) (wf_wrs bs pa h)
  · rwa [store_away bs k]

/-- Bytes written as they stood under a PART keep the form, the poison and the PART in force. -/
theorem wf_wrsLaid {m : Mem} (core part o : Nat) (bs : List Byte) (h : m.wf = true) : (m.wrsLaid core part o bs).wf = true :=
  wf_of_bytes rfl (wf_wrs bs (poolPa core o) (m := m.asLaid core part) h)

@[simp] theorem wrsLaid_part (m : Mem) (core part o : Nat) (bs : List Byte) : (m.wrsLaid core part o bs).part = m.part := rfl

@[simp] theorem touch_bytes (m : Mem) (pa ways : Nat) : (m.touch pa ways).bytes = m.bytes := rfl
@[simp] theorem fill_bytes (m : Mem) (slice : Nat) (e : TlbEnt) : (m.fill slice e).bytes = m.bytes := rfl

/-! ### Folds -/

/-- What every step of a fold keeps, the fold keeps. -/
theorem foldl_keeps {α β : Type} {P : α → Prop} {f : α → β → α} (h : ∀ a b, P a → P (f a b)) (xs : List β) {a : α} (k : P a) : P (xs.foldl f a) := by
  induction xs generalizing a with
  | nil => exact k
  | cons b xs ih => exact ih (h a b k)

/-- What no step of a fold changes, the fold does not change. -/
theorem foldl_same {α β γ : Type} (g : α → γ) {f : α → β → α} (h : ∀ a b, g (f a b) = g a) (xs : List β) (a : α) : g (xs.foldl f a) = g a :=
  foldl_keeps (P := fun x => g x = g a) (fun x b k => (h x b).trans k) xs rfl

/-! ### Pools show frames and queues; lines come into slices -/

theorem wf_refresh {s : State} (pas : List Nat) (h : s.mem.wf = true) : (s.refresh pas).mem.wf = true :=
  foldl_keeps (P := fun m : Mem => m.wf = true)
    (fun _ _ k => foldl_keeps (P := fun m : Mem => m.wf = true)
      (fun _ _ k => foldl_keeps (P := fun m : Mem => m.wf = true) (fun _ _ k => wf_wrsLaid _ _ _ _ k) _ k) _ k) _ h

/-- Bytes written line by line leave the poison of every line. -/
@[simp] theorem wrs_bad (bs : List Byte) (m : Mem) (pa q : Nat) : (m.wrs pa bs).bad q = m.bad q := by
  induction bs generalizing m pa with
  | nil => rfl
  | cons b bs ih => rw [Mem.wrs, ih]; rfl

theorem wrs_poison (bs : List Byte) (m : Mem) (pa : Nat) : (m.wrs pa bs).poison = m.poison ∧ (m.wrs pa bs).unreach = m.unreach := by
  induction bs generalizing m pa with
  | nil => exact ⟨rfl, rfl⟩
  | cons b bs ih => exact ih _ _

@[simp] theorem wrsLaid_bad (m : Mem) (core part o : Nat) (bs : List Byte) (q : Nat) : (m.wrsLaid core part o bs).bad q = m.bad q := by
  obtain ⟨a, b⟩ := wrs_poison bs (m.asLaid core part) (poolPa core o)
  unfold Mem.bad Mem.away
  rw [key_of_part (wrsLaid_part m core part o bs) q]
  simp only [Mem.wrsLaid, a, b]
  rfl

/-- What a pool shows poisons no line and clears none. -/
@[simp] theorem refresh_bad (s : State) (pas : List Nat) (q : Nat) : (s.refresh pas).mem.bad q = s.mem.bad q := by
  unfold State.refresh
  exact foldl_same (fun m : Mem => m.bad q)
    (fun m x => foldl_same (fun m : Mem => m.bad q)
      (fun m e => foldl_same (fun m : Mem => m.bad q) (fun m y => wrsLaid_bad _ _ _ _ _ _) _ m) _ m) _ s.mem

/-- Addresses outside the pools show nothing but memory. -/
theorem refresh_of_no_pool (s : State) (pas : List Nat) (h : ∀ p ∈ pas, s.mem.kind p ≠ .pool) : s.refresh pas = s := by
  have e : (pas.filter fun p => decide (s.mem.kind p = .pool)) = [] := by
    rw [List.filter_eq_nil_iff]
    intro p hp
    simpa using h p hp
  simp [State.refresh, spansOf, e]

@[simp] theorem bring_bytes (s : State) (pas : List Nat) : (s.bring pas).mem.bytes = s.mem.bytes :=
  foldl_same Mem.bytes (fun m p => touch_bytes m p _) _ _

/-- A log of a dropped store changes the log and the free values alone. -/
theorem logAway_mem (s : State) (pa : Nat) : (s.logAway pa).mem = s.mem := by
  unfold State.logAway
  split <;> rfl

theorem refresh_mem_congr {s t : State} (pas : List Nat) (h : s.mem = t.mem) (k : s.fab = t.fab) : (s.refresh pas).mem = (t.refresh pas).mem := by
  simp only [State.refresh, h, k]

theorem logAway_fab (s : State) (pa : Nat) : (s.logAway pa).fab = s.fab := by
  unfold State.logAway
  split <;> rfl

@[simp] theorem absorb_mem (s : State) (pas : List Nat) : (s.absorb pas).mem = s.mem := by
  unfold State.absorb
  refine foldl_same State.mem (fun s x => ?_) _ s
  rfl

/-! ### What a write at home does to memory -/

theorem abortTask_mem (s : State) (k : Task) : (abortTask s k).mem = s.mem := by
  unfold abortTask
  split <;> rfl

theorem returnReservations_mem (ds : List Delta) (s : State) : (returnReservations s ds).mem = s.mem := by
  refine foldl_same State.mem (fun s d => ?_) ds s
  dsimp only
  split
  · rfl
  · split <;> rfl

theorem abortAndReturn_mem (s : State) (t : Task) : (abortAndReturn s t).mem = s.mem := by
  rw [abortAndReturn, abortTask_mem, returnReservations_mem]

theorem abortReaders_mem (s : State) (w : Option Nat) (ls : List Nat) : (abortReaders s w ls).mem = s.mem := by
  unfold abortReaders
  refine foldl_same State.mem (fun s t => ?_) _ s
  split
  · exact abortAndReturn_mem _ _
  · rfl

/-- A write at home changes memory as a store does, once the pools that it reaches show what stands in them. -/
theorem homeStore_mem (s : State) (w : Option Nat) (pa : Nat) (bs : List Byte) :
    (homeStore s w pa bs).mem = (s.refresh (upto pa bs.length)).mem.store pa bs := by
  have e := refresh_mem_congr (upto pa bs.length) (logAway_mem s pa) (logAway_fab s pa)
  unfold homeStore markWoken
  simp [abortReaders_mem, e]

theorem homeWriteUnc_bytes (s : State) (w : Option Nat) (unc : List Nat) (pa : Nat) (bs : List Byte) :
    (homeWriteUnc s w unc pa bs).mem.bytes = ((s.refresh (upto pa bs.length)).mem.store pa bs).bytes := by
  rw [homeWriteUnc, bring_bytes, homeStore_mem]

theorem wf_homeWriteUnc {s : State} (w : Option Nat) (unc : List Nat) (pa : Nat) (bs : List Byte) (h : s.mem.wf = true) :
    (homeWriteUnc s w unc pa bs).mem.wf = true :=
  wf_of_bytes (homeWriteUnc_bytes s w unc pa bs) (wf_store pa bs (wf_refresh _ h))

theorem wf_homeWrite {s : State} (w : Option Nat) (pa : Nat) (bs : List Byte) (h : s.mem.wf = true) : (homeWrite s w pa bs).mem.wf = true :=
  wf_homeWriteUnc w [] pa bs h

theorem wf_writeRunsUnc {s : State} (w : Option Nat) (unc pas : List Nat) (bs : List Byte) (h : s.mem.wf = true) :
    (writeRunsUnc s w unc pas bs).mem.wf = true :=
  foldl_keeps (P := fun s : State => s.mem.wf = true) (fun _ e k => wf_homeWriteUnc w unc e.1 e.2 k) _ h

/-! ### Translation -/

theorem wf_ite {b : Prop} [Decidable b] {s t : State} (h : s.mem.wf = true) (k : t.mem.wf = true) : (if b then s else t).mem.wf = true := by
  split <;> assumption

theorem wf_walkOnce {s s1 : State} {who : Who} {acc : Acc} {va : Nat} {x : TlbEnt} (e : walkOnce s who acc va = .ok (s1, x)) (h : s.mem.wf = true) :
    s1.mem.wf = true := by
  unfold walkOnce at e
  split at e
  · cases e
  · split at e
    · cases e
    · split at e
      · cases e
      · split at e
        · cases e
        · simp only [Except.ok.injEq, Prod.mk.injEq] at e
          rw [← e.1]
          refine wf_of_bytes (fill_bytes _ _ _) ?_
          have k : ∀ pas, (s.bring pas).mem.wf = true := fun _ => wf_of_bytes (bring_bytes _ _) h
          exact wf_ite (k _) (wf_homeWrite _ _ _ (k _))

theorem noteMiss_bytes (s : State) (who : Who) (acc : Acc) (va : Nat) (e : TlbEnt) : (noteMiss s who acc va e).mem.bytes = s.mem.bytes := by
  unfold noteMiss
  dsimp only
  split <;> rfl

theorem wf_walk {s s1 : State} {who : Who} {acc : Acc} {va : Nat} {x : Xl} (e : walk s who acc va = .ok (s1, x)) (h : s.mem.wf = true) :
    s1.mem.wf = true := by
  unfold walk at e
  split at e
  · cases e
  · rename_i hw
    simp only [Except.ok.injEq, Prod.mk.injEq] at e
    rw [← e.1]
    exact wf_of_bytes (noteMiss_bytes _ _ _ _ _) (wf_walkOnce hw h)

theorem wf_translate {s s1 : State} {who : Who} {acc : Acc} {va : Nat} {x : Xl} (e : translate s who acc va = .ok (s1, x))
    (h : s.mem.wf = true) : s1.mem.wf = true := by
  unfold translate at e
  simp only at e
  split at e
  · cases e
  · split at e
    · split at e
      · simp only [Except.ok.injEq, Prod.mk.injEq] at e
        rw [← e.1]; exact h
      · cases e
    · split at e
      · split at e
        · exact wf_walk e h
        · split at e
          · cases e
          · simp only [Except.ok.injEq, Prod.mk.injEq] at e
            rw [← e.1]; exact wf_of_bytes (fill_bytes _ _ _) h
      · exact wf_walk e h

theorem wf_translatesX (n : Nat) {s s1 : State} {who : Who} {acc : Acc} {va : Nat} {xs : List Xl}
    (e : translatesX s who acc va n = .ok (s1, xs)) (h : s.mem.wf = true) : s1.mem.wf = true := by
  induction n generalizing s s1 va xs with
  | zero => simp only [translatesX, Except.ok.injEq, Prod.mk.injEq] at e; rw [← e.1]; exact h
  | succ n ih =>
    unfold translatesX at e
    split at e
    · cases e
    · rename_i s2 x hx
      split at e
      · cases e
      · rename_i s3 ps hs
        simp only [Except.ok.injEq, Prod.mk.injEq] at e
        rw [← e.1]
        exact ih hs (wf_translate hx h)

theorem wf_writeVa {s s1 : State} {who : Who} {w : Option Nat} {va : Nat} {bs : List Byte} (e : writeVa s who w va bs = .ok s1)
    (h : s.mem.wf = true) : s1.mem.wf = true := by
  unfold writeVa at e
  split at e
  · cases e
  · rename_i s2 xs hs
    simp only [Except.ok.injEq] at e
    rw [← e]
    exact wf_writeRunsUnc w _ _ bs (wf_translatesX _ hs h)

theorem wf_reachVa {s s1 : State} {who : Who} {va n : Nat} {pas : List Nat} (e : reachVa s who va n = .ok (s1, pas)) (h : s.mem.wf = true) :
    s1.mem.wf = true := by
  unfold reachVa at e
  split at e
  · cases e
  · rename_i s2 xs hs
    simp only [Except.ok.injEq, Prod.mk.injEq] at e
    rw [← e.1]
    exact wf_refresh _ (wf_of_bytes (bring_bytes _ _) (wf_translatesX _ hs h))

theorem wf_readVa {s s1 : State} {who : Who} {va n : Nat} {bs : List Byte} (e : readVa s who va n = .ok (s1, bs)) (h : s.mem.wf = true) :
    s1.mem.wf = true := by
  unfold readVa at e
  split at e
  · cases e
  · rename_i s2 pas hs
    split at e
    · cases e
    · simp only [Except.ok.injEq, Prod.mk.injEq] at e
      rw [← e.1]
      exact wf_reachVa hs h

theorem wf_ringWrite {who : Who} (fring : Nat) (recs : List (List Byte)) {at_ : Nat} {s : State} (h : s.mem.wf = true) :
    (ringWrite who fring at_ recs s).mem.wf = true := by
  induction recs generalizing at_ s with
  | nil => exact h
  | cons bs rest ih =>
    refine ih ?_
    split
    · rename_i hs
      exact wf_writeVa hs h
    · exact h

theorem wf_recThread {s : State} (tid src code kind loc : Nat) (v : W) (h : s.mem.wf = true) :
    (s.recThread tid src code kind loc v).mem.wf = true := by
  unfold State.recThread
  simp only
  split
  · exact h
  · split
    · exact h
    · rw [post_mem]
      split
      · exact wf_homeWrite _ _ _ (wf_of_bytes rfl h)
      · exact wf_homeWrite _ _ _ (wf_of_bytes rfl (wf_ringWrite _ _ h))

end Sys2Proof.Machine
end

