-- ==== Sys2Proof/Laws/Fire.lean ====
section
/-! SUPPORT. Everything one firing can do: the state it answers, or no change. -/
namespace Sys2Proof.Machine

/-- A ready firing answers its state, its invocation ended where every sink has. -/
theorem fireAny_ok {s s1 : State} {c : Ctx} {f : Ctx → Option State} (h : nodeCtx s = some c) (e : f c = some s1) :
    fireAny s f = .next (endIfDone s1 c.iid) := by
  simp [fireAny, h, e]

/-- The same of a word, no token that it takes being poisoned. -/
theorem fire_ok {s s1 : State} {c : Ctx} {f : Ctx → Option State} (h : nodeCtx s = some c)
    (p : tokPoisoned c.s c.iid c.i c.n c.tag c.nd = false) (e : f c = some s1) : fire s f = .next (endIfDone s1 c.iid) :=
  fireAny_ok h (by simp [p, e])

/-- One of a node that reaches memory, its requester not stopped. -/
theorem fireMem_ok {s s1 : State} {c : Ctx} {f : Ctx → Option State} (h : nodeCtx s = some c)
    (p : tokPoisoned c.s c.iid c.i c.n c.tag c.nd = false) (r : requesterStopped c = false) (e : f c = some s1) :
    fireMem s f = .next (endIfDone s1 c.iid) :=
  fire_ok h p (by simp [r, e])

/-- One of a match node. -/
theorem matchFire_ok {s s1 : State} {c : Ctx} {net : Net} {f : Ctx → Net → Except ReadErr (Option State)} (h : nodeCtx s = some c)
    (p : tokPoisoned c.s c.iid c.i c.n c.tag c.nd = false) (n : c.s.net c.iid = some net) (e : f c net = .ok (some s1)) :
    matchFire s f = .next (endIfDone s1 c.iid) :=
  fire_ok h p (by simp [n, e])

/-- A firing answers a next state and nothing else. -/
theorem fireAny_cases (s : State) (f : Ctx → Option State) :
    fireAny s f = .next s ∨ ∃ c s1, nodeCtx s = some c ∧ f c = some s1 ∧ fireAny s f = .next (endIfDone s1 c.iid) := by
  unfold fireAny
  split
  · exact .inl rfl
  · rename_i c h
    split
    · rename_i s1 e; exact .inr ⟨c, s1, h, e, rfl⟩
    · exact .inl rfl

/-- One of a word: what it does, or the end that a poisoned token brings (R162). -/
theorem fire_cases (s : State) (f : Ctx → Option State) :
    fire s f = .next s ∨ ∃ c s1, nodeCtx s = some c ∧ f c = some s1 ∧
      fire s f = .next (endIfDone (if tokPoisoned c.s c.iid c.i c.n c.tag c.nd then poisonEnd c.s c else s1) c.iid) := by
  rcases fireAny_cases s fun c => (f c).map fun s1 => if tokPoisoned c.s c.iid c.i c.n c.tag c.nd then poisonEnd c.s c else s1 with h | ⟨c, s1, h, e, k⟩
  · exact .inl h
  · obtain ⟨s2, e2, rfl⟩ := Option.map_eq_some_iff.mp e
    exact .inr ⟨c, s2, h, e2, k⟩

/-- What a firing sees is the state before it. -/
theorem nodeCtx_s {s : State} {c : Ctx} (h : nodeCtx s = some c) : c.s = s := by
  unfold nodeCtx at h
  dsimp only at h
  split at h
  · cases h
  · split at h
    · cases h
    · split at h <;> cases h; rfl

/-- The shape of most firings. -/
theorem pass_def (c : Ctx) (fs : List Nat) (outs : List Emit) : c.pass fs outs = c.done c.s (c.i.clearFields c.n c.tag fs) outs := rfl

end Sys2Proof.Machine
end

