-- ==== Sys2Proof/Laws/Ops.lean ====
section
/-! SUPPORT. The frame of a thread-form word: everything `runBody` can do, once. -/
namespace Sys2Proof.Machine

/-- A word whose predicate reads false only moves the pc (R55). -/
theorem runBody_skip {past : Bool} {pg : BitVec 4} {srcs dsts : List Spec} {body : Body} {s : State} (h : predTrue pg s.me = false) :
    runBody past pg srcs dsts body s = .next (advance s) := by simp [runBody, h]

/-- A word that issues does what its body does. -/
theorem runBody_issues {past : Bool} {pg : BitVec 4} {srcs dsts : List Spec} {body : Body} {s : State} (h : Issues pg srcs dsts s) :
    runBody past pg srcs dsts body s =
      match body s with
      | .ok s1 => .next (if past then advance s1 else s1)
      | .error (.trap c v) => .next (takeTrap s.cur c s.me.pc v s)
      | .error (.trapOpen c) => .next (takeTrap s.cur c s.me.pc (Config.freeValue s.fresh) { s with fresh := s.fresh + 1 })
      | .error (.stall w) => .next (stallOn w s) := by
  obtain ⟨h1, h2, h3⟩ := h
  cases hb : body s with
  | ok s1 => simp [runBody, h1, h2, h3, hb]
  | error e => cases e <;> simp [runBody, h1, h2, h3, hb]

theorem issue_ok {pg : BitVec 4} {srcs dsts : List Spec} {body : Body} {s s1 : State} (h : Issues pg srcs dsts s) (hb : body s = .ok s1) :
    issue pg srcs dsts body s = .next (advance s1) := by
  rw [issue, runBody_issues h, hb]; rfl

theorem issueJump_ok {pg : BitVec 4} {srcs dsts : List Spec} {body : Body} {s s1 : State} (h : Issues pg srcs dsts s) (hb : body s = .ok s1) :
    issueJump pg srcs dsts body s = .next s1 := by
  rw [issueJump, runBody_issues h, hb]; rfl

theorem issueJump_trap {pg : BitVec 4} {srcs dsts : List Spec} {body : Body} {s : State} {c : Nat} {v : W} (h : Issues pg srcs dsts s)
    (hb : body s = .error (.trap c v)) : issueJump pg srcs dsts body s = .next (takeTrap s.cur c s.me.pc v s) := by
  rw [issueJump, runBody_issues h, hb]

theorem issue_trap {pg : BitVec 4} {srcs dsts : List Spec} {body : Body} {s : State} {c : Nat} {v : W} (h : Issues pg srcs dsts s)
    (hb : body s = .error (.trap c v)) : issue pg srcs dsts body s = .next (takeTrap s.cur c s.me.pc v s) := by
  rw [issue, runBody_issues h, hb]

theorem issue_stall {pg : BitVec 4} {srcs dsts : List Spec} {body : Body} {s : State} {w : Why} (h : Issues pg srcs dsts s)
    (hb : body s = .error (.stall w)) : issue pg srcs dsts body s = .next (stallOn w s) := by
  rw [issue, runBody_issues h, hb]

/-- Every way a word can end (R55, R62, R72, R316): it is skipped, it traps, it waits, or its body took effect. -/
theorem runBody_cases {past : Bool} {pg : BitVec 4} {srcs dsts : List Spec} {body : Body} {s t : State}
    (h : runBody past pg srcs dsts body s = .next t) :
    t = advance s ∨ (∃ c v, t = takeTrap s.cur c s.me.pc v s) ∨
    (∃ c, t = takeTrap s.cur c s.me.pc (Config.freeValue s.fresh) { s with fresh := s.fresh + 1 }) ∨ (∃ w, t = stallOn w s) ∨
    (Issues pg srcs dsts s ∧ ∃ s1, body s = .ok s1 ∧ t = if past then advance s1 else s1) := by
  unfold runBody at h
  split at h
  · cases h; exact .inl rfl
  · rename_i hp
    split at h
    · cases h; exact .inr (.inl ⟨_, _, rfl⟩)
    · rename_i hu
      split at h
      · cases h; exact .inr (.inr (.inr (.inl ⟨_, rfl⟩)))
      · rename_i hh
        split at h
        · rename_i s1 hb
          cases h
          exact .inr (.inr (.inr (.inr ⟨⟨by simpa using hp, hu, hh⟩, s1, hb, rfl⟩)))
        · cases h; exact .inr (.inl ⟨_, _, rfl⟩)
        · cases h; exact .inr (.inr (.inl ⟨_, rfl⟩))
        · cases h; exact .inr (.inr (.inr (.inl ⟨_, rfl⟩)))

end Sys2Proof.Machine
end

