-- ==== Sys2Proof/Laws/Frame.lean ====
section
/-! SUPPORT. Frames: what a word that computes a value leaves alone, said once for the frame it runs in and for its three forms. -/
namespace Sys2Proof.Machine

/-- What the body of a word that computes a value may change: its listed registers, its flags, its q bindings, its pc and the fabric. -/
def BodyFrame (gs ps : List Nat) (s t : State) : Prop :=
  OnlyThread s t ∧ KeepsRegs gs ps s.me (t.th s.cur) ∧ (t.th s.cur).sys = { s.me.sys with fflags := (t.th s.cur).sys.fflags } ∧
  (t.th s.cur).sys.fflags = s.me.sys.fflags ||| (t.th s.cur).sys.fflags

theorem onlyThread_refl (s : State) : OnlyThread s s := by simp [OnlyThread]

theorem onlyThread_trans {a b c : State} (h : OnlyThread a b) (k : OnlyThread b c) : OnlyThread a c := by
  obtain ⟨h1, h2, h3, h4, h5, h6, h7, h8, h9, h10, h11, h12, h13⟩ := h
  obtain ⟨k1, k2, k3, k4, k5, k6, k7, k8, k9, k10, k11, k12, k13⟩ := k
  refine ⟨k1.trans h1, k2.trans h2, k3.trans h3, k4.trans h4, k5.trans h5, k6.trans h6, k7.trans h7, k8.trans h8, k9.trans h9, k10.trans h10,
    k11.trans h11, ?_, ?_⟩
  · intro tid ht; rw [k12 tid (by rw [h11]; exact ht), h12 tid ht]
  · rw [← h13, ← k13]

theorem th_onTh_self (s : State) (tid : Nat) (f : Thread → Thread) : (s.onTh tid f).th tid = f (s.th tid) := by
  simp [State.onTh, State.putTh, State.th]

theorem th_onTh_ne (s : State) {tid u : Nat} (f : Thread → Thread) (h : u ≠ tid) : (s.onTh tid f).th u = s.th u := by
  simp only [State.onTh, State.putTh, State.th]; exact Tab.getD_put_ne _ _ _ h

theorem onlyThread_onMe (s : State) (f : Thread → Thread) : OnlyThread s (s.onMe f) := by
  refine ⟨rfl, rfl, rfl, rfl, rfl, rfl, rfl, rfl, rfl, rfl, rfl, ?_, rfl⟩
  intro tid h; exact th_onTh_ne s f h

theorem onlyThread_fab {s t : State} (h : t = { s with fab := t.fab, shot := t.shot }) : OnlyThread s t := by
  rw [h]; exact ⟨rfl, rfl, rfl, rfl, rfl, rfl, rfl, rfl, rfl, rfl, rfl, fun _ _ => rfl, rfl⟩

theorem keepsRegs_refl (gs ps : List Nat) (a : Thread) : KeepsRegs gs ps a a := by simp [KeepsRegs]

theorem onInv_eq (s : State) (iid : Nat) (f : Inv → Inv) :
    s.onInv iid f = { s with fab := (s.onInv iid f).fab, shot := (s.onInv iid f).shot } := by
  unfold State.onInv; split <;> rfl

theorem qPut_eq (s : State) (tid : Nat) (sp : Spec) (v : W) :
    qPut s tid sp v = { s with fab := (qPut s tid sp v).fab, shot := (qPut s tid sp v).shot } := by
  unfold qPut markQueued
  split
  · rfl
  · split
    · rfl
    · split <;> rfl


theorem bodyFrame_refl (gs ps : List Nat) (s : State) : BodyFrame gs ps s s :=
  ⟨onlyThread_refl s, keepsRegs_refl gs ps _, rfl, by simp [State.me]⟩

theorem bodyFrame_trans {gs ps : List Nat} {a b c : State} (h : BodyFrame gs ps a b) (k : BodyFrame gs ps b c) : BodyFrame gs ps a c := by
  obtain ⟨h1, ⟨g1, p1, r1, -, -, n1, c1, k1, q1⟩, s1, f1⟩ := h
  obtain ⟨h2, ⟨g2, p2, r2, -, -, n2, c2, k2, q2⟩, s2, f2⟩ := k
  have e : b.cur = a.cur := h1.2.2.2.2.2.2.2.2.2.2.1
  simp only [State.me, e] at *
  have s3 : (c.th a.cur).sys = { (a.th a.cur).sys with fflags := (c.th a.cur).sys.fflags } := by rw [s2, s1]
  refine ⟨onlyThread_trans h1 h2, ⟨?_, ?_, ?_, ?_, ?_, n2.trans n1, c2.trans c1, k2.trans k1, q2.trans q1⟩, s3, ?_⟩
  · intro n hn; exact (g2 n hn).trans (g1 n hn)
  · intro n hn; exact (p2 n hn).trans (p1 n hn)
  · intro n; exact (r2 n).trans (r1 n)
  · intro _; exact s3
  · rw [s3]; rfl
  · change _ = (a.th a.cur).sys.fflags ||| _
    rw [f2, f1, ← BitVec.or_assoc, ← BitVec.or_assoc, BitVec.or_self]

/-- Only the fabric, and what the cycle has seen, differ. -/
theorem bodyFrame_fab {gs ps : List Nat} {s t : State} (h : t = { s with fab := t.fab, shot := t.shot }) : BodyFrame gs ps s t := by
  refine ⟨onlyThread_fab h, ?_⟩
  rw [h]
  exact (bodyFrame_refl gs ps s).2

/-- Only the thread that issued differs, within the frame. -/
theorem bodyFrame_onMe {gs ps : List Nat} {s : State} {f : Thread → Thread} (h : KeepsRegs gs ps s.me (f s.me))
    (k : (f s.me).sys = { s.me.sys with fflags := (f s.me).sys.fflags }) (l : (f s.me).sys.fflags = s.me.sys.fflags ||| (f s.me).sys.fflags) :
    BodyFrame gs ps s (s.onMe f) := by
  have e : (s.onMe f).th s.cur = f s.me := th_onTh_self s s.cur f
  exact ⟨onlyThread_onMe s f, by rw [e]; exact h, by rw [e]; exact k, by rw [e]; exact l⟩

/-- The thread that traps, after it; the other threads. -/
theorem th_takeTrap_self (s : State) (tid c : Nat) (pc v : W) :
    (takeTrap tid c pc v s).th tid =
      { s.th tid with sys := { (s.th tid).sys with xpc := pc, xcause := w64 c, xval := v }, st := .trapped, why := .none } :=
  th_onTh_self s tid fun t => { t with sys := { t.sys with xpc := pc, xcause := w64 c, xval := v }, st := .trapped, why := .none }

theorem th_takeTrap_ne (s : State) {tid u : Nat} (c : Nat) (pc v : W) (h : u ≠ tid) : (takeTrap tid c pc v s).th u = s.th u :=
  th_onTh_ne s (fun t => { t with sys := { t.sys with xpc := pc, xcause := w64 c, xval := v }, st := .trapped, why := .none }) h

theorem rg_wg_ne (t : Thread) {n m : Nat} (v : W) (h : m ≠ n) : (t.wg n v).rg m = t.rg m := by
  unfold Thread.wg Thread.rg; split
  · rfl
  · split
    · rfl
    · exact Tab.getD_set_ne _ _ _ h

theorem rp_wp_ne (t : Thread) {n m : Nat} (v : Bool) (h : m ≠ n) : (t.wp n v).rp m = t.rp m := by
  unfold Thread.wp Thread.rp; split
  · rfl
  · split
    · rfl
    · exact Tab.getD_set_ne _ _ _ h

theorem keepsRegs_wg (ps : List Nat) (t : Thread) (n : Nat) (v : W) : KeepsRegs [n] ps t (t.wg n v) := by
  refine ⟨fun m hm => rg_wg_ne t v (by simpa using hm), ?_⟩
  unfold Thread.wg; split <;> simp [Thread.rp, Thread.rh]

theorem wg_sys (t : Thread) (n : Nat) (v : W) : (t.wg n v).sys = t.sys := by unfold Thread.wg; split <;> rfl

theorem bodyFrame_qDeq (gs ps : List Nat) (s : State) (sp : Spec) : BodyFrame gs ps s (qDeq s sp) := by
  unfold qDeq
  split
  · exact bodyFrame_refl _ _ _
  · split
    · exact bodyFrame_refl _ _ _
    · split
      · exact bodyFrame_refl _ _ _
      · dsimp only
        split
        · refine bodyFrame_trans (b := s.putInv _ _) (bodyFrame_fab rfl) (bodyFrame_onMe ?_ rfl ?_)
          · simp [KeepsRegs, unbindQ, Thread.rg, Thread.rp, Thread.rh]
          · simp [unbindQ]
        · exact bodyFrame_fab rfl

theorem bodyFrame_deqAll (gs ps : List Nat) (sps : List Spec) (s : State) : BodyFrame gs ps s (deqAll sps s) := by
  have deqs : ∀ (l : List Spec) (s : State), BodyFrame gs ps s (l.foldl qDeq s) := by
    intro l
    induction l with
    | nil => exact fun s => bodyFrame_refl _ _ _
    | cons a l ih => exact fun s => bodyFrame_trans (bodyFrame_qDeq gs ps s a) (ih _)
  have sync : BodyFrame gs ps s (s.onMe (Thread.sync true)) :=
    bodyFrame_onMe (by simp [KeepsRegs, Thread.sync, Thread.rg, Thread.rp, Thread.rh]) rfl (by simp [Thread.sync])
  unfold deqAll
  split
  · exact bodyFrame_refl _ _ _
  · exact bodyFrame_trans sync (deqs _ _)

theorem bodyFrame_putV {gs ps : List Nat} {d : Spec} {v : W} {s t : State} (h : putV d v s = .ok t) (hd : d.toNat ∈ gs) : BodyFrame gs ps s t := by
  unfold putV at h
  split at h
  · split at h
    · cases h
      refine bodyFrame_trans (b := qReserve s d) ?_ ?_
      · unfold qReserve; split
        · exact bodyFrame_refl _ _ _
        · exact bodyFrame_fab (onInv_eq ..)
      · exact bodyFrame_fab (qPut_eq ..)
    · cases h
    · cases h
  · cases h
    refine bodyFrame_onMe ?_ (by rw [wg_sys]) (by rw [wg_sys]; simp)
    obtain ⟨h1, h2⟩ := keepsRegs_wg ps s.me d.toNat v
    exact ⟨fun n hn => h1 n (by simp; rintro rfl; exact hn hd), h2⟩

theorem bodyFrame_flags (gs ps : List Nat) (s : State) (f : Nat) : BodyFrame gs ps s (s.onMe fun t => t.orFlags f) := by
  refine bodyFrame_onMe ?_ rfl ?_
  · simp [KeepsRegs, Thread.orFlags, Thread.rg, Thread.rp, Thread.rh]
  · simp [Thread.orFlags, ← BitVec.or_assoc]

/-- The frame of a word whose body keeps the frame: skipped, trapped, waiting or done. -/
theorem runBody_frame {past : Bool} {pg : BitVec 4} {srcs dsts : List Spec} {body : Body} {s t : State} {gs ps : List Nat}
    (h : runBody past pg srcs dsts body s = .next t) (hb : ∀ s1, body s = .ok s1 → BodyFrame gs ps s s1) :
    OnlyThread s t ∧ KeepsRegs gs ps s.me (t.th s.cur) ∧ s.me.sys.fflags &&& (t.th s.cur).sys.fflags = s.me.sys.fflags := by
  have adv : ∀ u : State, BodyFrame gs ps u (advance u) := fun u => bodyFrame_onMe (by simp [KeepsRegs, Thread.rg, Thread.rp, Thread.rh]) rfl (by simp)
  have fin : ∀ u : State, BodyFrame gs ps s u → OnlyThread s u ∧ KeepsRegs gs ps s.me (u.th s.cur) ∧
      s.me.sys.fflags &&& (u.th s.cur).sys.fflags = s.me.sys.fflags := by
    intro u hu
    refine ⟨hu.1, hu.2.1, ?_⟩
    rw [hu.2.2.2]
    ext i hi
    simp only [BitVec.getElem_and, BitVec.getElem_or]
    cases (s.me.sys.fflags)[i] <;> simp
  have trap : ∀ (c : Nat) (v : W) (u : State), u.threads = s.threads → u.well = s.well → u.mem = s.mem → u.tab = s.tab → u.eng = s.eng →
      u.out = s.out → u.tasks = s.tasks → u.bts = s.bts → u.cid = s.cid → u.gtsc = s.gtsc → u.cycle = s.cycle → u.agenda = s.agenda →
      u.cur = s.cur → OnlyThread s (takeTrap s.cur c s.me.pc v u) ∧ KeepsRegs gs ps s.me ((takeTrap s.cur c s.me.pc v u).th s.cur) ∧
      s.me.sys.fflags &&& ((takeTrap s.cur c s.me.pc v u).th s.cur).sys.fflags = s.me.sys.fflags := by
    intro c v u ht hw h1 h2 h3 h4 h5 h6 h7 h8 h9 h10 h11
    have e : (takeTrap s.cur c s.me.pc v u).th s.cur =
        { s.me with sys := { s.me.sys with xpc := s.me.pc, xcause := w64 c, xval := v }, st := .trapped, why := .none } := by
      rw [th_takeTrap_self]
      simp [State.me, State.th, ht]
    refine ⟨⟨h1, h2, h3, h4, h5, h6, h7, h8, h9, h10, h11, ?_, ?_⟩, ?_, ?_⟩
    · intro tid hn
      rw [th_takeTrap_ne u c _ _ hn]
      simp [State.th, ht]
    · simp [takeTrap, State.logRec, State.onTh, State.putTh, hw]
    · rw [e]; simp [KeepsRegs, Thread.rg, Thread.rp, Thread.rh]
    · rw [e]; simp
  obtain rfl | ⟨c, v, rfl⟩ | ⟨c, rfl⟩ | ⟨w, rfl⟩ | ⟨-, s1, hs, rfl⟩ := runBody_cases h
  · exact fin _ (adv s)
  · exact trap c v s rfl rfl rfl rfl rfl rfl rfl rfl rfl rfl rfl rfl rfl
  · exact trap c _ _ rfl rfl rfl rfl rfl rfl rfl rfl rfl rfl rfl rfl rfl
  · exact fin _ (bodyFrame_onMe (by simp [KeepsRegs, Thread.rg, Thread.rp, Thread.rh]) rfl (by simp))
  · split
    · exact fin _ (bodyFrame_trans (hb s1 hs) (adv s1))
    · exact fin _ (hb s1 hs)


theorem except_bind_ok {ε α β : Type} {x : Except ε α} {f : α → Except ε β} {b : β} (h : (x >>= f) = .ok b) :
    ∃ a, x = .ok a ∧ f a = .ok b := by
  cases x with
  | error e => cases h
  | ok a => exact ⟨a, rfl, h⟩

/-- The three frames of a word that computes a value: its D, its flags, its q registers. -/
theorem computeT3_frame {f : Pure3} {useC : Bool} {x : T3} {s t : State} (h : computeT3 f useC x s = .next t) :
    OnlyThread s t ∧ KeepsRegs [x.d.toNat] [] s.me (t.th s.cur) ∧ s.me.sys.fflags &&& (t.th s.cur).sys.fflags = s.me.sys.fflags := by
  unfold computeT3 issue at h
  dsimp only at h
  refine runBody_frame h fun s1 hb => ?_

  obtain ⟨_, _, hb⟩ := except_bind_ok hb
  obtain ⟨a, _, hb⟩ := except_bind_ok hb
  obtain ⟨b, _, hb⟩ := except_bind_ok hb
  have key : ∀ (r : W × Nat) (srcs : List Spec),
      (do let s1 ← putV x.d r.1 (deqAll srcs s); Except.ok (s1.onMe fun t => t.orFlags r.2)) = Except.ok s1 →
      BodyFrame [x.d.toNat] [] s s1 := by
    intro r srcs hb
    obtain ⟨s2, h2, hb⟩ := except_bind_ok hb
    cases hb
    exact bodyFrame_trans (bodyFrame_deqAll _ _ _ _) (bodyFrame_trans (bodyFrame_putV h2 (by simp)) (bodyFrame_flags _ _ _ _))
  split at hb
  · obtain ⟨c, _, hb⟩ := except_bind_ok hb
    exact key _ _ hb
  · obtain ⟨c, _, hb⟩ := except_bind_ok hb
    exact key _ _ hb

theorem computeTI_frame {f : Nat → Nat → W → W × Nat} {x : TI} {s t : State} (h : computeTI f x s = .next t) :
    OnlyThread s t ∧ KeepsRegs [x.d.toNat] [] s.me (t.th s.cur) ∧ s.me.sys.fflags &&& (t.th s.cur).sys.fflags = s.me.sys.fflags := by
  unfold computeTI issue at h
  dsimp only at h
  refine runBody_frame h fun s1 hb => ?_
  obtain ⟨_, _, hb⟩ := except_bind_ok hb
  obtain ⟨a, _, hb⟩ := except_bind_ok hb
  obtain ⟨s2, h2, hb⟩ := except_bind_ok hb
  cases hb
  exact bodyFrame_trans (bodyFrame_deqAll _ _ _ _) (bodyFrame_trans (bodyFrame_putV h2 (by simp)) (bodyFrame_flags _ _ _ _))

theorem compareT3_frame {f : Nat → Nat → Nat → W → W → Bool × Nat} {x : T3} {s t : State} (h : compareT3 f x s = .next t) :
    OnlyThread s t ∧ KeepsRegs [] [x.d.toNat - 64] s.me (t.th s.cur) ∧ s.me.sys.fflags &&& (t.th s.cur).sys.fflags = s.me.sys.fflags := by
  unfold compareT3 issue at h
  dsimp only at h
  refine runBody_frame h fun s1 hb => ?_
  obtain ⟨_, _, hb⟩ := except_bind_ok hb
  obtain ⟨a, _, hb⟩ := except_bind_ok hb
  obtain ⟨b, _, hb⟩ := except_bind_ok hb
  cases hb
  refine bodyFrame_trans (bodyFrame_deqAll _ _ _ _) (bodyFrame_onMe ⟨?_, ?_, ?_, ?_, ?_, ?_⟩ ?_ ?_)
  all_goals simp only [Thread.orFlags]
  · intro n _; unfold Thread.wp; split <;> rfl
  · intro n hn; exact rp_wp_ne _ _ (by simpa using hn)
  · intro n; unfold Thread.wp; split <;> rfl
  · intro _; unfold Thread.wp; split <;> rfl
  · unfold Thread.wp; split <;> rfl
  · unfold Thread.wp; split <;> simp
  · unfold Thread.wp; split <;> rfl
  · unfold Thread.wp; split <;> simp [← BitVec.or_assoc]

end Sys2Proof.Machine
end

