-- ==== Sys2Proof/Laws/Layout.lean ====
section
/-! SUPPORT. What pools show: keys stay within the pool of their core, frames and queues show on their cores alone, and a byte reads the same
where memory, partitions and invocations agree. -/
namespace Sys2Proof.Machine

theorem inPool_iff (pa : Nat) : inPool pa = true ↔ poolBase ≤ pa ∧ pa < poolBase + 8 * gib ∧ (pa - poolBase) % (2 * gib) < 0x60000000 := by
  simp only [inPool, Bool.and_eq_true, decide_eq_true_eq, and_assoc]

theorem kind_pool (m : Mem) (pa : Nat) : m.kind pa = .pool ↔ inPool pa = true := by
  unfold Mem.kind
  constructor
  · intro h
    split at h
    · split at h <;> cases h
    · split at h
      · assumption
      · split at h
        · cases h
        · split at h <;> cases h
  · intro h
    have : ¬ pa < 768 * gib := by
      have := ((inPool_iff pa).mp h).1
      unfold poolBase at this
      unfold gib
      omega
    rw [if_neg this, if_pos h]

theorem key_outside (m : Mem) {pa : Nat} (h : inPool pa = false) : m.key pa = pa := by simp [Mem.key, h]

/-- A bank and byte of a pool lie in the pool. -/
theorem bankByte_lt (part : Nat) {p : Nat} (h : p < 0x400000) : (bankByte part p).1 < 16 ∧ (bankByte part p).2 < 262144 := by
  unfold bankByte
  dsimp only
  generalize partRF part = rf
  generalize partSP part = sp
  have hi : 0 < 2 ^ partSPI part := Nat.two_pow_pos _
  generalize 2 ^ partSPI part = i at hi
  split
  · simp only; omega
  · rename_i hc
    generalize hg : 4 * ((rf + 3) / 4) = g0 at hc ⊢
    generalize hn : (rf + sp - g0) / (4 * i) = n at hc
    have h1 : g0 * 65536 ≤ p ∧ p < (g0 + 4 * i * n) * 65536 ∧ g0 + 4 * i * n ≤ 64 := by omega
    obtain ⟨h1, h2, h3⟩ := h1
    have hq : p - g0 * 65536 < n * (i * 262144) := by
      have : n * (i * 262144) = 4 * i * n * 65536 := by ring
      omega
    generalize p - g0 * 65536 = q at hq
    have hgrp : q / (i * 262144) < n := Nat.div_lt_of_lt_mul (by rw [Nat.mul_comm]; exact hq)
    have hl : q % (i * 262144) / 64 < i * 4096 := by
      have : q % (i * 262144) < i * 262144 := Nat.mod_lt _ (by omega)
      omega
    generalize q % (i * 262144) / 64 = l at hl
    generalize q / (i * 262144) = grp at hgrp
    have hm : l % i < i := Nat.mod_lt _ hi
    have hd : l / i < 4096 := Nat.div_lt_of_lt_mul hl
    have hgi : grp * i + i ≤ n * i := by
      calc grp * i + i = (grp + 1) * i := by ring
        _ ≤ n * i := Nat.mul_le_mul_right _ hgrp
    have hni : 4 * i * n = 4 * (n * i) := by ring
    constructor
    · simp only; omega
    · simp only; omega

theorem inPool_poolPa {c p : Nat} (hc : c < 1536) (h : p < 0x400000) : inPool (poolPa c p) = true ∧ poolAt (poolPa c p) = (c, p) := by
  have e : poolPa c p - poolBase = c / 384 * (2 * gib) + c % 384 * 0x400000 + p := by unfold poolPa; omega
  have b : poolBase ≤ poolPa c p := by unfold poolPa; omega
  constructor
  · rw [inPool_iff, e]
    refine ⟨b, ?_, ?_⟩
    · unfold poolPa gib; omega
    · unfold gib; omega
  · unfold poolAt
    rw [e]
    unfold gib
    refine Prod.ext ?_ ?_ <;> dsimp only <;> omega

theorem poolAt_lt {pa : Nat} (h : inPool pa = true) : (poolAt pa).1 < 1536 ∧ (poolAt pa).2 < 0x400000 := by
  rw [inPool_iff] at h
  unfold gib at h
  unfold poolAt gib
  dsimp only
  omega

/-- A pool byte is kept within the pool of its core. -/
theorem key_inside (m : Mem) {pa : Nat} (h : inPool pa = true) : inPool (m.key pa) = true ∧ (poolAt (m.key pa)).1 = (poolAt pa).1 := by
  obtain ⟨h1, h2⟩ := poolAt_lt h
  obtain ⟨h3, h4⟩ := bankByte_lt (m.partOf (poolAt pa).1) h2
  simp only [Mem.key, h, if_true]
  have := inPool_poolPa h1 (p := (bankByte (m.partOf (poolAt pa).1) (poolAt pa).2).1 * 262144 + (bankByte (m.partOf (poolAt pa).1) (poolAt pa).2).2) (by omega)
  exact ⟨this.1, by rw [this.2]⟩

/-- Addresses outside the pools read as memory holds them. -/
theorem byteAt_outside (s : State) {pa : Nat} (h : inPool pa = false) : s.byteAt pa = s.mem.rd pa := by
  unfold State.byteAt
  rw [refresh_of_no_pool]
  intro p hp
  rw [List.mem_singleton] at hp
  subst hp
  rw [ne_eq, kind_pool, h]; simp


@[simp] theorem toBytes_length (n x : Nat) : (toBytes n x).length = n := by
  induction n generalizing x with
  | zero => rfl
  | succ n ih => simp [toBytes, ih]

/-- Frame slots and queue entries are aligned: none crosses the end of a pool. -/
def Aligned (y : Nat × List Byte) : Prop := (y.2.length = 16 ∧ y.1 % 16 = 0) ∨ (y.2.length = 32 ∧ y.1 % 32 = 0)

theorem scratchNeed_mod (nd : Node) : scratchNeed nd % 16 = 0 := by
  unfold scratchNeed
  split <;> first | omega | (rw [Nat.mul_assoc]; omega)

theorem sumOver_mod {f : Node → Nat} (h : ∀ nd, f nd % 16 = 0) (t : Tab Node) : sumOver t f % 16 = 0 :=
  foldl_keeps (P := fun a : Nat => a % 16 = 0) (fun a e k => by have := h e.2; omega) t rfl

theorem packFrom_mod (here : Tab Node) : packFrom here % 16 = 0 := by
  unfold packFrom
  dsimp only
  split <;> omega

theorem lineAt_mod {i : Inv} {core n p cap : Nat} {nd : Node} (h : lineAt i core n nd = some (p, cap)) : p % 16 = 0 := by
  unfold lineAt Inv.scratch at h
  dsimp only at h
  split at h
  · cases h; omega
  · split at h
    · cases h
      have := sumOver_mod scratchNeed_mod (before (packed (i.nodesOn core)) n)
      have := packFrom_mod (i.nodesOn core)
      unfold Inv.scratchAt
      omega
    · cases h

theorem queueAt_mod (i : Inv) (nd : Node) (d : Nat) : queueAt i nd d % 16 = 0 := by
  unfold queueAt Inv.scratch
  omega

theorem ringItems_aligned {at_ cap head : Nat} {line : List Tok} {y : Nat × List Byte} (h : y ∈ ringItems at_ cap head line) (k : at_ % 16 = 0) :
    Aligned y := by
  simp only [ringItems, List.mem_map] at h
  obtain ⟨x, -, rfl⟩ := h
  refine .inl ⟨by simp [tokBytes], ?_⟩
  simp only; omega

theorem poolItems_aligned {iid : Nat} {i : Inv} {core : Nat} {y : Nat × List Byte} (h : y ∈ poolItems iid i core) : Aligned y := by
  simp only [poolItems, List.mem_flatMap, List.mem_append, List.mem_map] at h
  obtain ⟨e, -, (⟨j, -, rfl⟩ | h) | h⟩ := h
  · refine .inr ⟨by simp [slotBytes], ?_⟩
    simp only [Inv.slotAt]; omega
  · split at h
    · rename_i p cap hl
      exact ringItems_aligned h (lineAt_mod hl)
    · cases h
  · split at h
    · obtain ⟨q, -, hq⟩ := List.mem_flatMap.mp h
      exact ringItems_aligned hq (queueAt_mod ..)
    · cases h

/-- The parts of pools that addresses lie in: a core that one of them names, offsets within its pool. -/
theorem spansOf_mem {m : Mem} {pas : List Nat} {x : Span} (h : x ∈ spansOf m pas) :
    x.hi < 0x400000 ∧ ∃ p ∈ pas, inPool p = true ∧ (poolAt p).1 = x.core := by
  have key : ∀ (l : List Nat) (xs : List Span), (∀ p ∈ l, p ∈ pas ∧ inPool p = true) →
      (∀ x ∈ xs, x.hi < 0x400000 ∧ ∃ p ∈ pas, inPool p = true ∧ (poolAt p).1 = x.core) →
      ∀ x ∈ l.foldl (fun xs p =>
        let (c, o) := poolAt p
        if xs.any fun x => decide (x.core = c) then xs.map fun x => if x.core = c then { x with lo := min x.lo o, hi := max x.hi o } else x
        else xs ++ [⟨c, o, o⟩]) xs, x.hi < 0x400000 ∧ ∃ p ∈ pas, inPool p = true ∧ (poolAt p).1 = x.core := by
    intro l
    induction l with
    | nil => intro xs _ h; exact h
    | cons p l ih =>
      intro xs hl hxs
      refine ih _ (fun q hq => hl q (List.mem_cons_of_mem _ hq)) ?_
      obtain ⟨hp, hin⟩ := hl p (List.mem_cons_self ..)
      have hlt := (poolAt_lt hin).2
      intro x hx
      dsimp only at hx
      split at hx
      · obtain ⟨y, hy, rfl⟩ := List.mem_map.mp hx
        obtain ⟨h1, h2⟩ := hxs y hy
        split
        · refine ⟨?_, h2⟩
          simp only; omega
        · exact ⟨h1, h2⟩
      · rcases List.mem_append.mp hx with hx | hx
        · exact hxs x hx
        · rw [List.mem_singleton] at hx
          subst hx
          exact ⟨hlt, p, hp, hin, rfl⟩
  refine key _ [] ?_ (by simp) x h
  intro p hp
  rw [List.mem_filter] at hp
  exact ⟨hp.1, (kind_pool m p).mp (by simpa using hp.2)⟩

theorem holdsEntries_items {s : State} {core : Nat} (h : s.holdsEntries core = false) {e : Nat × Inv} (he : e ∈ s.fab.invs)
    (ho : e.2.phase ≠ .out) : poolItems e.1 e.2 core = [] := by
  unfold State.holdsEntries at h
  rw [List.any_eq_false] at h
  have := h e he
  simp only [ho, ne_eq, not_false_eq_true, decide_true, Bool.true_and, decide_eq_true_eq, Classical.not_not] at this
  simp [poolItems, this]

/-- Bytes written to other keys leave a key. -/
theorem getD_wrs_ne (bs : List Byte) (m : Mem) (pa k : Nat) (h : ∀ i < bs.length, k ≠ m.key (pa + i)) :
    Tab.getD (m.wrs pa bs).bytes k unlisted = Tab.getD m.bytes k unlisted := by
  induction bs generalizing m pa with
  | nil => rfl
  | cons b bs ih =>
    rw [Mem.wrs, ih]
    · exact Tab.getD_set_ne m.bytes b unlisted (by simpa using h 0 (by simp))
    · intro i hi
      have := h (i + 1) (by simpa using hi)
      simpa [wr_key, Nat.add_assoc, Nat.add_comm, Nat.add_left_comm] using this

/-- Bytes written as they stood under a PART leave an address that none of them is the key of. -/
theorem rd_wrsLaid_ne (m : Mem) (core part o : Nat) (bs : List Byte) (q : Nat)
    (h : ∀ i < bs.length, m.key q ≠ (m.asLaid core part).key (poolPa core o + i)) : (m.wrsLaid core part o bs).rd q = m.rd q := by
  have e := getD_wrs_ne bs (m.asLaid core part) (poolPa core o) (m.key q) h
  simp only [Mem.rd, key_of_part (wrsLaid_part m core part o bs) q]
  exact e

/-- What the pools show of frames and queues stands on cores that some address names and that hold them: no other byte differs. -/
theorem rd_refresh (s : State) (pas : List Nat) (q : Nat)
    (h : inPool q = true → (∀ p ∈ pas, inPool p = true → (poolAt p).1 ≠ (poolAt q).1) ∨ s.holdsEntries (poolAt q).1 = false) :
    (s.refresh pas).mem.rd q = s.mem.rd q ∧ (s.refresh pas).mem.part = s.mem.part := by
  have hs : ∀ x ∈ spansOf s.mem pas, inPool q = true → x.core ≠ (poolAt q).1 ∨ s.holdsEntries x.core = false := by
    intro x hx hq
    obtain ⟨-, p, hp, hin, e⟩ := spansOf_mem hx
    rcases h hq with k | k
    · exact .inl (by rw [← e]; exact k p hp hin)
    · by_cases c : x.core = (poolAt q).1
      · exact .inr (by rw [c]; exact k)
      · exact .inl c
  have hlo : ∀ x ∈ spansOf s.mem pas, x.core < 1536 ∧ x.hi < 0x400000 := by
    intro x hx
    obtain ⟨k, p, -, hin, e⟩ := spansOf_mem hx
    exact ⟨by rw [← e]; exact (poolAt_lt hin).1, k⟩
  unfold State.refresh
  dsimp only
  have fold : ∀ {β : Type} (f : Mem → β → Mem) (l : List β) (P : Mem → Prop), (∀ b ∈ l, ∀ m, P m → P (f m b)) → ∀ m, P m → P (l.foldl f m) := by
    intro β f l P
    induction l with
    | nil => intro _ m k; exact k
    | cons b l ih => intro h m k; exact ih (fun c hc => h c (List.mem_cons_of_mem _ hc)) _ (h b (List.mem_cons_self ..) m k)
  refine fold _ _ (fun m => m.rd q = s.mem.rd q ∧ m.part = s.mem.part) (fun x hx m k => ?_) s.mem ⟨rfl, rfl⟩
  refine fold _ _ (fun m => m.rd q = s.mem.rd q ∧ m.part = s.mem.part) (fun e he m k => ?_) m k
  rw [List.mem_filter] at he
  obtain ⟨he, ho⟩ := he
  refine fold _ _ (fun m => m.rd q = s.mem.rd q ∧ m.part = s.mem.part) (fun y hy m k => ?_) m k
  rw [List.mem_filter] at hy
  obtain ⟨hy, hm⟩ := hy
  refine ⟨?_, k.2⟩
  rw [rd_wrsLaid_ne, k.1]
  intro j hj hk
  obtain ⟨hc, hh⟩ := hlo x hx
  have hin : poolPa x.core y.1 + j = poolPa x.core (y.1 + j) := by unfold poolPa; omega
  have hlt : y.1 + j < 0x400000 := by
    simp only [Span.sees, Bool.and_eq_true, decide_eq_true_eq] at hm
    omega
  obtain ⟨h1, h2⟩ := inPool_poolPa hc hlt
  rw [hin] at hk
  obtain ⟨h3, h4⟩ := key_inside (m.asLaid x.core e.2.region.laid) h1
  by_cases hq : inPool q = true
  · obtain ⟨h5, h6⟩ := key_inside m hq
    rcases hs x hx hq with k | k
    · exact k (by rw [← h6, hk, h4, h2])
    · rw [holdsEntries_items k he (by simpa using ho)] at hy
      cases hy
  · rw [key_outside m (by simpa using hq)] at hk
    rw [hk] at hq
    exact hq h3

/-- A core that holds no frames and queues reads as memory holds it, as does every address outside the pools. -/
theorem byteAt_plain (s : State) {q : Nat} (h : inPool q = true → s.holdsEntries (poolAt q).1 = false) : s.byteAt q = s.mem.rd q :=
  (rd_refresh s [q] q fun k => .inr (h k)).1

theorem wrs_part (bs : List Byte) (m : Mem) (pa : Nat) : (m.wrs pa bs).part = m.part := by
  induction bs generalizing m pa with
  | nil => rfl
  | cons b bs ih => rw [Mem.wrs, ih, wr_part]

/-- The same bytes written to two memories of one PART that agree at a key. -/
theorem getD_wrs_agree (bs : List Byte) {m m' : Mem} (k pa : Nat) (h : Tab.getD m'.bytes k unlisted = Tab.getD m.bytes k unlisted)
    (p : m'.part = m.part) : Tab.getD (m'.wrs pa bs).bytes k unlisted = Tab.getD (m.wrs pa bs).bytes k unlisted := by
  induction bs generalizing m m' pa with
  | nil => exact h
  | cons b bs ih =>
    refine ih (pa + 1) ?_ p
    have e : m'.key pa = m.key pa := key_of_part p pa
    simp only [Mem.wr, e]
    by_cases c : k = m.key pa
    · rw [c, Tab.getD_set_self, Tab.getD_set_self]
    · rw [Tab.getD_set_ne _ _ _ c, Tab.getD_set_ne _ _ _ c, h]

/-- The same bytes written as they stood under a PART. -/
theorem rd_wrsLaid_agree {m m' : Mem} (core part o : Nat) (bs : List Byte) (q : Nat) (h : m'.rd q = m.rd q) (p : m'.part = m.part) :
    (m'.wrsLaid core part o bs).rd q = (m.wrsLaid core part o bs).rd q := by
  have e : m'.key q = m.key q := key_of_part p q
  simp only [Mem.rd, key_of_part (wrsLaid_part _ core part o bs) q, e] at h ⊢
  exact getD_wrs_agree bs (m.key q) (poolPa core o) (m := m.asLaid core part) (m' := m'.asLaid core part) h (by simp [Mem.asLaid, p])

/-- A byte reads the same in two states that agree on it in memory, on the partitions and on the invocations. -/
theorem byteAt_congr {s t : State} {q : Nat} (h : t.mem.rd q = s.mem.rd q) (p : t.mem.part = s.mem.part) (i : t.fab.invs = s.fab.invs) :
    t.byteAt q = s.byteAt q := by
  unfold State.byteAt State.refresh
  have e : spansOf t.mem [q] = spansOf s.mem [q] := by
    have f : ([q].filter fun p => decide (t.mem.kind p = .pool)) = [q].filter fun p => decide (s.mem.kind p = .pool) :=
      List.filter_congr fun x _ => by rw [decide_eq_decide, kind_pool, kind_pool]
    unfold spansOf
    rw [f]
  rw [e, i]
  have fold : ∀ {β : Type} (f g : Mem → β → Mem) (l : List β) (P : Mem → Mem → Prop), (∀ b m m', P m m' → P (f m b) (g m' b)) →
      ∀ m m', P m m' → P (l.foldl f m) (l.foldl g m') := by
    intro β f g l P h
    induction l with
    | nil => intro m m' k; exact k
    | cons b l ih => intro m m' k; exact ih _ _ (h b m m' k)
  refine (fold _ _ _ (fun m' m : Mem => m'.rd q = m.rd q ∧ m'.part = m.part) (fun x m m' k => ?_) _ _ ⟨h, p⟩).1
  refine fold _ _ _ (fun m' m : Mem => m'.rd q = m.rd q ∧ m'.part = m.part) (fun e m m' k => ?_) _ _ k
  have f : ((poolItems e.1 e.2 x.core).filter fun y => Span.sees t.mem x e.2.region.laid y.1 y.2.length) =
      (poolItems e.1 e.2 x.core).filter fun y => Span.sees s.mem x e.2.region.laid y.1 y.2.length := by
    have g : t.mem.partOf x.core = s.mem.partOf x.core := by unfold Mem.partOf; rw [p]
    refine List.filter_congr fun y _ => ?_
    unfold Span.sees
    rw [g]
  rw [f]
  refine fold _ _ _ (fun m' m : Mem => m'.rd q = m.rd q ∧ m'.part = m.part) (fun y m m' k => ?_) _ _ k
  exact ⟨rd_wrsLaid_agree _ _ _ _ q k.1 k.2, k.2⟩

end Sys2Proof.Machine
end

