-- ==== Sys2Proof/Laws/Home.lean ====
section
/-! SUPPORT. Everything a write performed at home does: memory, partitions, invocations, threads; and what retiring an access leaves alone. -/
namespace Sys2Proof.Machine

/-! ### Memory and partitions -/

theorem rd_of_bytes {m m' : Mem} (h : m'.bytes = m.bytes) (p : m'.part = m.part) (q : Nat) : m'.rd q = m.rd q := by
  unfold Mem.rd; rw [h, key_of_part p]

theorem refresh_part (s : State) (pas : List Nat) : (s.refresh pas).mem.part = s.mem.part :=
  (rd_refresh s pas 0 (by intro h; exact absurd h (by decide))).2

theorem store_part (m : Mem) (pa : Nat) (bs : List Byte) : (m.store pa bs).part = m.part := by
  unfold Mem.store
  split
  · rfl
  exact (foldl_same Mem.part (fun (m : Mem) (a : Nat) => (rfl : (m.setBad a false).part = m.part)) _ _).trans (wrs_part _ _ _)

theorem bring_part (s : State) (pas : List Nat) : (s.bring pas).mem.part = s.mem.part :=
  foldl_same Mem.part (fun (m : Mem) (p : Nat) => (rfl : (m.touch p _).part = m.part)) _ _

theorem homeWriteUnc_part (s : State) (w : Option Nat) (unc : List Nat) (pa : Nat) (bs : List Byte) :
    (homeWriteUnc s w unc pa bs).mem.part = s.mem.part := by
  unfold homeWriteUnc
  rw [bring_part, homeStore_mem, store_part, refresh_part]

/-- Every byte but those written reads in memory as before; of a pool, on a core that holds frames or queues, only where none of those
written lies in the pool of that core. -/
theorem rd_homeWriteUnc (s : State) (w : Option Nat) (unc : List Nat) (pa : Nat) (bs : List Byte) {q : Nat}
    (h : ∀ i < bs.length, s.mem.key q ≠ s.mem.key (pa + i))
    (k : inPool q = true → (∀ p ∈ upto pa bs.length, inPool p = true → (poolAt p).1 ≠ (poolAt q).1) ∨ s.holdsEntries (poolAt q).1 = false) :
    (homeWriteUnc s w unc pa bs).mem.rd q = s.mem.rd q := by
  rw [rd_of_bytes (homeWriteUnc_bytes s w unc pa bs) (by rw [homeWriteUnc_part, store_part, refresh_part])]
  cases c : (s.refresh (upto pa bs.length)).mem.away pa
  case true => rw [store_away bs c, (rd_refresh s _ q k).1]
  rw [rd_of_bytes (store_bytes bs c) (by rw [store_part, wrs_part]), rd_wrs_ne, (rd_refresh s _ q k).1]
  intro i hi
  rw [key_of_part (refresh_part s _), key_of_part (refresh_part s _)]
  exact h i hi

/-! ### Invocations -/

theorem holdsEntries_congr {s t : State} (h : t.fab.invs = s.fab.invs) (core : Nat) : t.holdsEntries core = s.holdsEntries core := by
  unfold State.holdsEntries; rw [h]

theorem abortReaders_invs (s : State) (w : Option Nat) (ls : List Nat) : (abortReaders s w ls).fab.invs = s.fab.invs := by
  have rr : ∀ (ds : List Delta) (s : State), (returnReservations s ds).fab.invs = s.fab.invs := fun ds s =>
    foldl_same (fun s : State => s.fab.invs) (fun s d => by dsimp only; split <;> (try split) <;> rfl) ds s
  have aa : ∀ (s : State) (t : Task), (abortAndReturn s t).fab.invs = s.fab.invs := by
    intro s t
    unfold abortAndReturn abortTask
    dsimp only
    split
    · exact rr _ _
    · exact rr _ _
  unfold abortReaders
  exact foldl_same (fun s : State => s.fab.invs) (fun s d => by split; exact aa _ _; rfl) _ s

/-- A relation that every step of a fold keeps. -/
theorem foldl_both {α β : Type} {P : α → α → Prop} {f : α → β → α} (h : ∀ c a b, P a b → P (f a c) (f b c)) (xs : List β) {a b : α}
    (k : P a b) : P (xs.foldl f a) (xs.foldl f b) := by
  induction xs generalizing a b with
  | nil => exact k
  | cons c xs ih => exact ih (h c a b k)

/-- What a store brings to frames and queues depends on memory and the fabric alone. -/
theorem absorb_fab_congr {s t : State} (pas : List Nat) (h : s.mem = t.mem) (k : s.fab = t.fab) : (s.absorb pas).fab = (t.absorb pas).fab := by
  unfold State.absorb
  rw [h]
  refine (foldl_both (P := fun s t : State => s.mem = t.mem ∧ s.fab = t.fab) (f := State.absorbSpan) (fun x a b e => ⟨e.1, ?_⟩) _ ⟨h, k⟩).2
  simp only [State.absorbSpan, e.1, e.2]

/-- What stands in pools after a write is what memory then holds there. -/
theorem homeWriteUnc_invs (s : State) (w : Option Nat) (unc : List Nat) (pa : Nat) (bs : List Byte) :
    (homeWriteUnc s w unc pa bs).fab.invs =
      (({ s with mem := (s.refresh (upto pa bs.length)).mem.store pa bs } : State).absorb (upto pa bs.length)).fab.invs := by
  have e : (homeWriteUnc s w unc pa bs).fab.invs = (abortReaders (({ (s.logAway pa).refresh (upto pa bs.length) with
      mem := ((s.logAway pa).refresh (upto pa bs.length)).mem.store pa bs } : State).absorb (upto pa bs.length)) w
      (lineKeys s.mem pa bs.length)).fab.invs := rfl
  rw [e, abortReaders_invs]
  refine congrArg Fabric.invs (absorb_fab_congr _ ?_ (logAway_fab s pa))
  dsimp only
  rw [refresh_mem_congr _ (logAway_mem s pa) (logAway_fab s pa)]

theorem absorb_outside (s : State) {pas : List Nat} (h : ∀ p ∈ pas, inPool p = false) : s.absorb pas = s := by
  have f : (pas.filter fun p => decide (s.mem.kind p = .pool)) = [] := by
    rw [List.filter_eq_nil_iff]
    intro p hp
    rw [decide_eq_true_eq, kind_pool, h p hp]; simp
  have sp : spansOf s.mem pas = [] := by unfold spansOf; rw [f]; rfl
  unfold State.absorb
  rw [sp]; rfl

/-- A write outside the pools changes no invocation. -/
theorem homeWriteUnc_invs_outside (s : State) (w : Option Nat) (unc : List Nat) {pa : Nat} {bs : List Byte}
    (h : ∀ p ∈ upto pa bs.length, inPool p = false) : (homeWriteUnc s w unc pa bs).fab.invs = s.fab.invs := by
  rw [homeWriteUnc_invs, absorb_outside _ h]

theorem absorbInv_frame (m : Mem) (iid : Nat) (i : Inv) (x : Span) : (absorbInv m iid i x).nodes = i.nodes ∧ (absorbInv m iid i x).phase = i.phase := by
  unfold absorbInv
  refine foldl_keeps (P := fun j : Inv => j.nodes = i.nodes ∧ j.phase = i.phase) (fun j e k => ?_) _ ⟨rfl, rfl⟩
  dsimp only
  have k1 : ∀ (l : List Nat) (f : Inv → Nat → Inv), (∀ (j : Inv) (y : Nat), (f j y).nodes = j.nodes ∧ (f j y).phase = j.phase) →
      (l.foldl f j).nodes = i.nodes ∧ (l.foldl f j).phase = i.phase := fun l f h =>
    foldl_keeps (P := fun j : Inv => j.nodes = i.nodes ∧ j.phase = i.phase) (fun a y k => ⟨(h a y).1.trans k.1, (h a y).2.trans k.2⟩) l k
  have k2 := k1 (upto 0 (2 ^ j.k)) (fun i' y => i'.putSlot e.1 ((baseTag iid + y) % 65536)
    (slotRead m x i.region.laid (i'.slotAt e.1 x.core y) (i'.slot e.1 ((baseTag iid + y) % 65536)))) (fun _ _ => ⟨rfl, rfl⟩)
  have st : ∀ (j : Inv) (n : Nat) (f : NodeSt → NodeSt), j.nodes = i.nodes ∧ j.phase = i.phase → (j.onSt n f).nodes = i.nodes ∧ (j.onSt n f).phase = i.phase :=
    fun _ _ _ k => k
  split
  · refine st _ _ _ ?_
    split
    · split
      · exact k2
      · exact st _ _ _ k2
    · exact k2
  · split
    · split
      · exact k2
      · exact st _ _ _ k2
    · exact k2

theorem absorb_holdsEntries (s : State) (pas : List Nat) (c : Nat) (h : s.holdsEntries c = false) : (s.absorb pas).holdsEntries c = false := by
  unfold State.absorb
  refine foldl_keeps (P := fun t : State => t.holdsEntries c = false) (fun t x k => ?_) _ h
  unfold State.holdsEntries State.absorbSpan at *
  rw [List.any_eq_false] at *
  intro e he
  dsimp only at he
  obtain ⟨e', he', rfl⟩ := List.mem_map.mp he
  have := k e' he'
  split
  · exact this
  · obtain ⟨a, b⟩ := absorbInv_frame t.mem e'.1 e'.2 x
    have n : (absorbInv t.mem e'.1 e'.2 x).nodesOn c = e'.2.nodesOn c := by unfold Inv.nodesOn; rw [a]
    dsimp only
    rw [b, n]; exact this

/-- A write makes no core hold frames or queues. -/
theorem homeWriteUnc_holdsEntries (s : State) (w : Option Nat) (unc : List Nat) (pa : Nat) (bs : List Byte) (c : Nat) (h : s.holdsEntries c = false) :
    (homeWriteUnc s w unc pa bs).holdsEntries c = false := by
  rw [holdsEntries_congr (homeWriteUnc_invs s w unc pa bs)]
  exact absorb_holdsEntries ({ s with mem := _ }) _ c h

/-! ### Retiring -/

theorem retireOne_mem (tid : Nat) (s : State) (e : Pend) : (retireOne tid s e).mem = s.mem := by
  unfold retireOne
  split
  · dsimp only; split
    · split
      · unfold State.onInv; split <;> rfl
      · rfl
    · rfl
  · dsimp only
    split
    · split
      · unfold qPut markQueued
        (repeat' split) <;> rfl
      · rfl
    all_goals rfl

/-- An access that goes into no q register leaves every invocation alone. -/
theorem retireOne_invs (tid : Nat) (s : State) (e : Pend) (h : isQ (BitVec.ofNat 7 e.d) = false) : (retireOne tid s e).fab.invs = s.fab.invs := by
  unfold retireOne
  split
  · dsimp only; rw [h]; rfl
  · dsimp only
    split
    · rw [h]; rfl
    all_goals rfl

theorem retire_mem (tid : Nat) (s : State) : (retire tid s).mem = s.mem := by
  unfold retire
  exact foldl_same State.mem (fun a b => retireOne_mem tid a b) _ _

theorem retireSplit_mem : ∀ (k l : List Pend) (e : Pend), e ∈ (retireSplit k l).1 → e ∈ l := by
  intro k l
  induction l generalizing k with
  | nil => intro e h; cases h
  | cons a l ih =>
    intro e h
    unfold retireSplit at h
    split at h
    · simp only [List.mem_cons] at h ⊢
      rcases h with h | h
      · exact .inl h
      · exact .inr (ih _ _ h)
    · exact List.mem_cons_of_mem _ (ih _ _ h)

theorem retire_invs (tid : Nat) (s : State) (h : noQueue (s.th tid).pend = true) : (retire tid s).fab.invs = s.fab.invs := by
  unfold retire
  have : ∀ (l : List Pend) (s : State), (∀ e ∈ l, isQ (BitVec.ofNat 7 e.d) = false) → (l.foldl (retireOne tid) s).fab.invs = s.fab.invs := by
    intro l
    induction l with
    | nil => intro s _; rfl
    | cons a l ih =>
      intro s h
      rw [List.foldl_cons, ih _ (fun e he => h e (List.mem_cons_of_mem _ he)), retireOne_invs _ _ _ (h a (List.mem_cons_self ..))]
  dsimp only
  rw [this]
  · rfl
  · intro e he
    have := List.all_eq_true.mp h e (retireSplit_mem _ _ _ he)
    simpa using this


/-- A read notes its lines and changes neither memory nor the fabric. -/
theorem noteRead_frame (s : State) (tid : Nat) (unc pas : List Nat) :
    (noteRead s tid unc pas).mem.bytes = s.mem.bytes ∧ (noteRead s tid unc pas).mem.part = s.mem.part ∧ (noteRead s tid unc pas).fab = s.fab := by
  unfold noteRead
  dsimp only
  split
  · exact ⟨bring_bytes _ _, bring_part _ _, rfl⟩
  · exact ⟨bring_bytes _ _, bring_part _ _, rfl⟩

end Sys2Proof.Machine
end

