-- ==== Sys2Proof/Tests/Slice0.lean ====
section
/-! SUPPORT. The model's own tests: words of the spec decode, ill-formed words are refused, one step at a time does what a rule's own example
says, and every statement's hypotheses are met by a state written here. -/
namespace Sys2Proof.Tests
open Sys2Proof Sys2Proof.Machine

set_option Elab.async false

/-! ### Decoding: words that the spec's own tables write out (R48 to R63 and the chapters) -/

theorem test_decode_integer : decodeWord 0x000001830a008000#64 = .ok (.add ⟨0, 0, 3, 3, 5, 0, 0x8000⟩) ∧
    decodeWord 0x1c1c058828000000#64 = .ok (.hash ⟨7, 0, 11, 8, 20, 0, 0⟩) ∧
    decodeWord 0x171c210714140000#64 = .ok (.cmp ⟨7, 0, 66, 7, 10, 5, 0⟩) ∧
    decodeWord 0x190c438000000001#64 = .ok (.addi ⟨3, 1, 7, 0, 1⟩) := by decide +kernel

theorem test_decode_register : decodeWord 0x210002803fc00000#64 = .ok (.movi ⟨0, 0, 5, 0, 0x3fc00000⟩) ∧
    decodeWord 0x2000245900000000#64 = .ok (.mov ⟨0, 0, 72, 89, 0, 0, 0⟩) ∧
    decodeWord 0x2000034900000000#64 = .ok (.mov ⟨0, 0, 6, 73, 0, 0, 0⟩) ∧
    decodeWord 0x200002c800000000#64 = .ok (.mov ⟨0, 0, 5, 72, 0, 0, 0⟩) := by decide +kernel

theorem test_decode_float : decodeWord 0x3620208600100000#64 = .ok (.fcmp ⟨8, 0, 65, 6, 0, 4, 0⟩) ∧
    decodeWord 0x332002050c1d0000#64 = .ok (.fma ⟨8, 0, 4, 5, 6, 7, 0x10000⟩) ∧
    decodeWord 0x33200b1028584000#64 = .ok (.fma ⟨8, 0, 22, 16, 20, 22, 0x4000⟩) ∧
    decodeWord 0x402c040900208000#64 = .ok (.fcvt ⟨11, 0, 8, 9, 0, 8, 0x8000⟩) ∧
    decodeWord 0x41200306001c0000#64 = .ok (.icvt ⟨8, 0, 6, 6, 0, 7, 0⟩) := by decide +kernel

theorem test_decode_control : decodeWord 0x4800407ffffffffa#64 = .ok (.br ⟨0, 1, 0, 0x7ffffffffa⟩) ∧
    decodeWord 0x4a001f8000000002#64 = .ok (.call ⟨0, 0, 63, 2⟩) ∧
    decodeWord 0x4d000b0f30000000#64 = .ok (.waita ⟨0, 0, 22, 15, 1, 1, 0, 0, 0⟩) := by decide +kernel

theorem test_decode_memory : decodeWord 0x501c018570000000#64 = .ok (.ld ⟨7, 0, 3, 5, 3, 1, 0, 0, 0⟩) ∧
    decodeWord 0x520c030498000008#64 = .ok (.atom ⟨3, 0, 6, 4, 4, 1, 1, 0, 8⟩) ∧
    decodeWord 0x54000403ab000000#64 = .ok (.stb ⟨0, 0, 8, 3, 5, 0, 1, 3, 0⟩) ∧
    decodeWord 0x5700000800000000#64 = .ok (.pref ⟨0, 0, 0, 8, 0, 0, 0, 0, 0⟩) := by decide +kernel

theorem test_decode_tasks_counters : decodeWord 0x6000020000000005#64 = .ok (.tspawn ⟨0, 0, 4, 5⟩) ∧
    decodeWord 0x68003c3fc0000000#64 = .ok (.wait ⟨0, 0, 15, 0, 15, 15, 0⟩) ∧
    decodeWord 0x680003ffc0000000#64 = .ok (.wait ⟨0, 0, 0, 15, 15, 15, 0⟩) ∧
    decodeWord 0x6900028691000000#64 = .ok (.waitm ⟨0, 0, 5, 6, 4, 1, 0, 1, 0⟩) ∧
    decodeWord 0x6d00040490000020#64 = .ok (.bwait ⟨0, 0, 8, 4, 4, 1, 0, 0, 32⟩) ∧
    decodeWord 0x6d000601b0000080#64 = .ok (.bwait ⟨0, 0, 12, 1, 5, 1, 0, 0, 128⟩) := by decide +kernel

theorem test_decode_engines : decodeWord 0x7400020028000000#64 = .ok (.xtask ⟨0, 0, 4, 0, 1, 0, 1, 0, 0⟩) ∧
    decodeWord 0x7300025998000000#64 = .ok (.xcoll ⟨0, 0, 4, 89, 4, 1, 1, 0, 0⟩) := by decide +kernel

theorem test_decode_rules : decodeWord 0xb100030500000000#64 = .ok (.wmretract ⟨0, 0, 6, 5, 0, 0, 0, 0, 0⟩) ∧
    decodeWord 0xb900020500000003#64 = .ok (.cssel ⟨0, 0, 4, 5, 0, 0, 0, 0, 3⟩) := by decide +kernel

theorem test_decode_directory : decodeWord 0xc200010388000000#64 = .ok (.dbind ⟨0, 0, 2, 3, 4, 0, 1, 0, 0⟩) ∧
    decodeWord 0xc200028089000000#64 = .ok (.dbindSet ⟨0, 0, 5, 0, 4, 0, 1, 1, 0⟩) ∧
    decodeWord 0xc000015990000000#64 = .ok (.dopen ⟨0, 0, 2, 89, 4, 1, 0, 0, 0⟩) := by decide +kernel

theorem test_decode_graphs_system : decodeWord 0xc800020600000000#64 = .ok (.glaunch ⟨0, 0, 4, 6, 0, 0, 0, 0, 0⟩) ∧
    decodeWord 0xca00048800000000#64 = .ok (.gsnap ⟨0, 0, 9, 8, 0, 0, 0, 0, 0⟩) ∧
    decodeWord 0xcb00048a00000000#64 = .ok (.grest ⟨0, 0, 9, 10, 0, 0, 0, 0, 0⟩) ∧
    decodeWord 0xd000000000000005#64 = .ok (.trap ⟨0, 0, 0, 0, 5⟩) ∧
    decodeWord 0xd400028400000000#64 = .ok (.ctxsave ⟨0, 0, 5, 4, 0, 0, 0, 0, 0⟩) ∧
    decodeWord 0xd600038680000000#64 = .ok (.tlbinv ⟨0, 0, 7, 6, 4, 0, 0, 0, 0⟩) ∧
    decodeWord 0xd300020088000007#64 = .ok (.msgi ⟨0, 0, 4, 0, 4, 0, 1, 0, 7⟩) := by decide +kernel

theorem test_decode_arith_nodes : decodeWord 0x32a00070000c0000#64 = .ok (.nodeArithFire 0x32 ⟨8, 0x1c, 3, 0, 0, 0, 0, 0⟩) ∧
    decodeWord 0x008c0040000c0000#64 = .ok (.nodeArithFire 0x00 ⟨3, 0x10, 3, 0, 0, 0, 0, 0⟩) ∧
    decodeWord 0x41a000b000b40003#64 = .ok (.nodeArithFire 0x41 ⟨8, 0x2c, 0x2d, 0, 0, 0, 0, 3⟩) := by decide +kernel

theorem test_decode_flow_nodes : decodeWord 0x868c007000800002#64 = .ok (.accum ⟨3, 0x1c, 0x20, 0, 0, 0, 0, 2⟩) ∧
    decodeWord 0x85800090000c0001#64 = .ok (.delay ⟨0, 0x24, 3, 0, 0, 0, 0, 1⟩) ∧
    decodeWord 0x89840150000c0000#64 = .ok (.src ⟨1, 0x54, 3, 0, 0, 0, 0, 0⟩) ∧
    decodeWord 0x8f980000000c0000#64 = .ok (.merge2 ⟨6, 0, 3, 0, 0, 0, 0, 0⟩) ∧
    decodeWord 0x9680000c000c0000#64 = .ok (.chan ⟨0, 3, 3, 0, 0, 0, 0, 0⟩) := by decide +kernel

theorem test_decode_memory_nodes : decodeWord 0x8b9c0330000c0000#64 = .ok (.mload ⟨7, 0xcc, 3, 0, 0, 0, 0, 0⟩) ∧
    decodeWord 0x8a840250000c0001#64 = .ok (.agen ⟨1, 0x94, 3, 0, 0, 0, 0, 1⟩) := by decide +kernel

theorem test_decode_match_tile_nodes : decodeWord 0xb880000000940488#64 = .ok (.score ⟨0, 0, 0x25, 0, 0, 0, 0, 0x488⟩) ∧
    decodeWord 0xb780000c000c1003#64 = .ok (.term ⟨0, 3, 3, 0, 0, 0, 0, 0x1003⟩) ∧
    decodeWord 0xa1800050000c0000#64 = .ok (.tileNodeFire 0xa1 ⟨0, 0x14, 3, 0, 0, 0, 0, 0⟩) := by decide +kernel

/-- Words the spec calls illegal: a g register in FCMP's D, ACQ on STB, REL on LD, a scope on GSNAP, an integer source of FCVT, the other
form. -/
theorem test_decode_refuses : decodeWord 0x3620008600100000#64 = .error .illegalFields ∧ decodeWord 0x54000403bb000000#64 = .error .illegalFields ∧
    decodeWord 0x501c018578000000#64 = .error .illegalFields ∧ decodeWord 0xca00048880000000#64 = .error .illegalFields ∧
    decodeWord 0x402c040900088000#64 = .error .illegalFields ∧ decodeThread 0x32a00070000c0000#64 = .error .wrongForm ∧
    decodeNode 0x48804000000000fa#64 = .error .noSuchOpcode ∧ decodeThread 0x1d00000000000000#64 = .error .noSuchOpcode := by decide +kernel

/-- A table word is laid out least significant byte first and decodes to the same instruction. -/
theorem test_decode_table_word : decodeTableWord 64 0x190c438000000001 = some (.addi ⟨3, 1, 7, 0, 1⟩) ∧
    decodeBytes (toBytes 8 0xd000000000000005 ++ [7]) = .ok (.trap ⟨0, 0, 0, 0, 5⟩, [7]) := by decide +kernel

/-- The encoder writes the spec's words. -/
theorem test_encode : encode (.fma ⟨8, 0, 4, 5, 6, 7, 0x10000⟩) = some 0x332002050c1d0000#64 ∧
    encode (.bwait ⟨0, 0, 8, 4, 4, 1, 0, 0, 32⟩) = some 0x6d00040490000020#64 ∧
    encode (.nodeArithFire 0x41 ⟨8, 0x2c, 0x2d, 0, 0, 0, 0, 3⟩) = some 0x41a000b000b40003#64 ∧ encode .taskCommit = none := by decide +kernel

/-! ### Well-formedness: one ill-formed term for each check -/

/-- PG, register roles, FN, MD and CIMM (R52, R54, R55, R57, R86, R123). -/
theorem smoke_operands : Machine.legal (.add ⟨0, 8, 1, 2, 3, 0, 0⟩) = false ∧ Machine.legal (.add ⟨0, 0, 64, 2, 3, 0, 0⟩) = false ∧
    Machine.legal (.add ⟨0, 0, 1, 2, 3, 1, 0⟩) = false ∧ Machine.legal (.add ⟨8, 0, 1, 2, 3, 0, 0⟩) = false ∧
    Machine.legal (.and ⟨0, 0, 1, 2, 3, 0, 0x8000⟩) = false ∧ Machine.legal (.cmp ⟨0, 0, 65, 2, 3, 6, 0⟩) = false ∧
    Machine.legal (.satn ⟨3, 0, 1, 2, 0, 0, 0⟩) = false ∧ Machine.legal (.hash ⟨3, 0, 1, 2, 3, 0, 0⟩) = false ∧
    Machine.legal (.sel ⟨0, 0, 1, 2, 3, 4, 0⟩) = false ∧ Machine.legal (.fadd ⟨7, 0, 1, 2, 3, 0, 0⟩) = false ∧
    Machine.legal (.bri ⟨0, 0, 0, 0⟩) = false ∧ Machine.legal (.waita ⟨0, 0, 3, 4, 0, 0, 0, 0, 0⟩) = false ∧
    Machine.legal (.csrw ⟨0, 0, 104, 2, 0, 0, 0⟩) = false ∧ Machine.legal (.mov ⟨0, 0, 88, 2, 0, 0, 0⟩) = false ∧
    Machine.legal (.qpeek ⟨0, 0, 1, 2, 0, 0, 0⟩) = false ∧ Machine.legal (.leaIndexed ⟨16, 0, 1, 2, 3, 4, 0⟩) = false := by decide +kernel

/-- Immediate fields, formats, order fields and reserved bits (R51, R90, R130, R131, R164, R256, R339). -/
theorem smoke_fields : Machine.legal (.bfx ⟨0, 0, 1, 2, 0x0405⟩) = false ∧ Machine.legal (.bfi ⟨0, 0, 1, 2, 0⟩) = false ∧
    Machine.legal (.fcvt ⟨11, 0, 8, 9, 0, 2, 0⟩) = false ∧ Machine.legal (.icvt ⟨8, 0, 6, 6, 0, 9, 0⟩) = false ∧
    Machine.legal (.bxpack ⟨0x19, 0, 6, 6, 0, 8, 0⟩) = false ∧ Machine.legal (.mxunpk ⟨8, 0, 6, 6, 0, 0x11, 0⟩) = false ∧
    Machine.legal (.ld ⟨0, 0, 1, 2, 3, 0, 0, 0, 0⟩) = false ∧ Machine.legal (.ld ⟨0, 0, 1, 2, 6, 1, 0, 0, 0⟩) = false ∧
    Machine.legal (.st ⟨0, 0, 1, 2, 0, 1, 0, 0, 0⟩) = false ∧ Machine.legal (.lea ⟨0, 0, 1, 2, 1, 0, 0, 0, 0⟩) = false ∧
    Machine.legal (.ptsync ⟨0, 0, 1, 0, 2, 0, 0, 0, 0⟩) = false ∧ Machine.legal (.atom ⟨29, 0, 1, 2, 0, 0, 0, 0, 0⟩) = false ∧
    Machine.legal (.cas ⟨5, 0, 2, 2, 0, 0, 0, 0, 0⟩) = false ∧ Machine.legal (.stm ⟨0, 0, 2, 3, 0, 0, 0, 0, 64⟩) = false ∧
    Machine.legal (.wait ⟨0, 0, 0, 0, 0, 0, 1⟩) = false ∧ Machine.legal (.waitt ⟨0, 0, 1, 2, 0, 0, 0, 4, 0⟩) = false ∧
    Machine.legal (.dopen ⟨0, 0, 2, 3, 0, 0, 0, 0, 0⟩) = false ∧ Machine.legal (.trap ⟨0, 0, 1, 0, 0⟩) = false := by decide +kernel

/-- Targets, LIT13 and node fields (R58, R63, R218, R227, R229, R271, R313). -/
theorem smoke_nodes : Machine.legal (.steer ⟨0, 7, 3, 0, 0, 0, 0, 0⟩) = false ∧ Machine.legal (.steer ⟨0, 4, 3, 0, 0, 0, 0, 1⟩) = false ∧
    Machine.legal (.sink ⟨0, 4, 3, 0, 0, 0, 0, 0⟩) = false ∧ Machine.legal (.mload ⟨17, 4, 3, 0, 0, 0, 0, 0⟩) = false ∧
    Machine.legal (.mload ⟨0, 4, 3, 0, 0, 0, 0, 2⟩) = false ∧ Machine.legal (.fsm ⟨0, 4, 3, 0, 0, 0, 0, 63 * 16⟩) = false ∧
    Machine.legal (.joinb ⟨0, 4, 3, 0, 0, 0, 0, 3 * 2048⟩) = false ∧ Machine.legal (.nodeArithFire 0x19 ⟨0, 4, 3, 0, 0, 0, 0, 0⟩) = false ∧
    Machine.legal (.nodeArithFire 0x00 ⟨0, 4, 3, 0, 0, 0, 0, 1⟩) = false ∧ Machine.legal (.tileNodeFire 0xa0 ⟨1, 4, 3, 0, 0, 0, 0, 0⟩) = false ∧
    Machine.legal (.tileNodeFire 0xac ⟨0, 4, 3, 0, 0, 0, 0, 0⟩) = false ∧ Machine.legal (.route ⟨0, 4, 3, 0, 0, 0, 0, 64⟩) = false ∧
    Machine.legal (.delay ⟨0, 4, 3, 1, 0, 0, 0, 0⟩) = false := by decide +kernel

/-! ### States that meet the hypotheses of the statements -/

/-- Thread 0, privileged, RUNNABLE, its page 0 mapped and writable, a few registers set. -/
def base : State :=
  let s := loadThread .reset 0
  { s with agenda := [], threads := Tab.put [] 0 { s.th 0 with
      g := [(1, 7), (2, 0x1000), (3, 2), (4, 0x2000), (5, 0x2040)], sys := { (s.th 0).sys with ctx := 0x8000000000000000 } } }

/-- The same thread without privilege. -/
def user : State := base.onTh 0 fun t => { t with sys := { t.sys with ctx := 0 } }

/-- A task that thread 0 runs. -/
def aTask : Task := ⟨0, 65536, some 0, 0, 0, 0, 0, false, [], [], [], none, none, false, 0, 0⟩
def inTask : State := { base with tasks := [aTask] }
def inIrrevTask : State := { base with tasks := [{ aTask with irrev := true }] }

/-- Every thread of shard 0 runs. -/
def allBusy : State := { base with threads := (List.range 8).map fun n => (n, base.th 0) }

/-- Invocation 0 of thread 0, on core 0, with some nodes, frame slots and node states. -/
def someInv (nodes : Tab Node) (frames : Tab Slot) (nst : Tab NodeSt) : Inv :=
  ⟨0, 0, 0, 0, 0, 0, [], false, false, ⟨0, 0, 0, 1, 1, 1, 1, 1000000, 0, false, 0, 0, partReset, 0, 0, partReset⟩, .run, nodes, frames, [], [], [], [], nst, [],
   (0, 0, 0), 0, 0, false, 0, none, .none, [], []⟩

/-- A token with no flag, with EOS. -/
def plain (v : W) : Tok := ⟨v, 0, .zero, 0⟩
def atEnd (v : W) : Tok := ⟨v, 0, ⟨false, true, false, false, false⟩, 0⟩

/-- An invocation of thread 0 whose channel, node 0, is q0: two tokens stand in it. -/
def qBase : State :=
  let i := someInv [(0, ⟨0x9680000c000c0000, [0x2000], ⟨0, 0, 0, 0, 0⟩⟩)] [] [(0, { NodeSt.zero with line := [plain 5, plain 6] })]
  { base with fab := { base.fab with invs := [(0, i)] }, threads := Tab.put [] 0 { base.th 0 with q := [(0, ⟨false, 0, 0, 0⟩)] } }

/-- The state in a result. -/
def stateIn {ε α : Type} (e : Except ε (State × α)) : State := match e with
  | .ok r => r.1
  | .error _ => .reset

/-! ### Their hypotheses are met -/

theorem witness_IntegerWordsCompute : Issues 0 [2, 3] [1] base ∧ needQ [1, 2, 3] base = .ok () ∧ srcV base 2 = .ok 0x1000 ∧ srcV base 3 = .ok 2 ∧
    ∀ e ∈ integerResults 3 0 0x1000 2, (putV 1 e.2.1 (deqAll [2, 3] base)).isOk = true := by unfold Issues; decide +kernel

/-- The same with a queue register as a source. -/
theorem witness_IntegerWordsCompute_queue : Issues 0 [72, 3] [1] qBase ∧ needQ [1, 72, 3] qBase = .ok () ∧ srcV qBase 72 = .ok 5 ∧
    srcV qBase 3 = .ok 2 ∧ (putV 1 7 (deqAll [72, 3] qBase)).isOk = true := by unfold Issues; decide +kernel

theorem witness_MaddSelComplete : Issues 0 [2, 3, 4] [1] base ∧ needQ [1, 2, 3, 4] base = .ok () ∧ srcV base 2 = .ok 0x1000 ∧
    srcV base 3 = .ok 2 ∧ srcV base 4 = .ok 0x2000 ∧ (putV 1 0x4000 (deqAll [2, 3, 4] base)).isOk = true ∧
    Issues 0 [2, 3] [1] base ∧ needQ [1, 2, 3] base = .ok () ∧ (putV 1 0x1000 (deqAll [2, 3] base)).isOk = true := by unfold Issues; decide +kernel

theorem witness_ImmediateWordsCompute : Issues 0 [2] [1] base ∧ needQ [1, 2] base = .ok () ∧ srcV base 2 = .ok 0x1000 ∧
    bits 0x4000 5 0 + bits 0x4000 14 8 ≤ iw 3 ∧ 1 ≤ bits 0x4000 14 8 ∧ (putV 1 0x1000 (deqAll [2] base)).isOk = true ∧
    Issues 0 [2, 1] [1] base ∧ needQ [2] base = .ok () := by unfold Issues; decide +kernel

theorem witness_CompareWordsWritePredicate : Issues 0 [2, 3] [] base ∧ needQ [2, 3] base = .ok () ∧ srcV base 2 = .ok 0x1000 ∧
    srcV base 3 = .ok 2 ∧ Issues 0 [] [] base := by unfold Issues; decide +kernel

theorem witness_FloatWordsCompute : Issues 0 [2, 3] [1] base ∧ needQ [1, 2, 3] base = .ok () ∧ srcV base 2 = .ok 0x1000 ∧ srcV base 3 = .ok 2 ∧
    (∀ e ∈ floatResults 8 0 8 0x1000 2, (putV 1 e.2.1 (deqAll [2, 3] base)).isOk = true) ∧
    Issues 0 [2, 3, 4] [1] base ∧ needQ [1, 2, 3, 4] base = .ok () ∧ srcV base 4 = .ok 0x2000 ∧
    (putV 1 0 (deqAll [2, 3, 4] base)).isOk = true := by unfold Issues; decide +kernel

theorem witness_RegisterWordsMove : Issues 0 [72] [1] qBase ∧ needQ [1, 72] qBase = .ok () ∧ srcV qBase 72 = .ok 5 ∧
    (putV 1 5 (deqAll [72] qBase)).isOk = true ∧ isH 88 = true ∧ (putV 1 0 (deqAll [88] base)).isOk = true ∧
    Issues 0 [] [1] base ∧ needQ [1] base = .ok () ∧ needFlags 109 base = .ok () ∧ Issues 0 [1] [1] base ∧ Issues 0 [2] [1] base ∧ Issues 0 [2, 3] [1] base ∧
    (putV 1 0 base).isOk = true ∧ base.me.l = 0 ∧ base.me.s = 0 ∧ Issues 0 [] [1] qBase ∧ needQ [72] qBase = .ok () ∧
    qHead qBase 72 = .ok ⟨5, 0, .zero, 0⟩ ∧ (putV 1 5 qBase).isOk = true := by unfold Issues; decide +kernel

theorem witness_CsrwWritesOneSystemValue : Issues 0 [2] [] base ∧ needQ [2] base = .ok () ∧ srcV base 2 = .ok 0x1000 ∧
    base.me.prv = true ∧ needFlags 109 base = .ok () ∧ sysPriv 109 = false ∧ sysPriv 119 = false ∧ Issues 0 [2] [] user ∧ needQ [2] user = .ok () ∧ sysPriv 110 = true ∧
    sysPriv 118 = false ∧ sysPriv 117 = true ∧ user.me.prv = false := by unfold Issues; decide +kernel

theorem witness_BranchesSetThePc : Issues 0 [] [] base ∧ Issues 0 [] [2] base ∧ Issues 0 [2] [] base ∧ (base.me.rg 2).toNat % 8 = 0 ∧
    Issues 0 [1] [] base ∧ (base.me.rg 1).toNat % 8 ≠ 0 := by unfold Issues; decide +kernel

theorem witness_ThreadsStartYieldHalt : Issues 0 [] [] base ∧ base.taskOf 0 = none ∧ base.me.l = 0 ∧ base.me.s = 0 ∧ base.specul 0 = none ∧
    Issues 0 [1] [1] base ∧ haltedThread base 0 = some 1 ∧ Issues 0 [1] [1] allBusy ∧ allBusy.specul 0 = none ∧
    haltedThread allBusy 0 = none := by unfold Issues; decide +kernel

/-- WAITA of g4 (its word equal, then not), BWAIT with the registers g2, g3, IDLE with and without a vector. -/
theorem witness_ParkingWordsPark : Issues 0 [4, 6, 7] [6] base ∧ addrTM ⟨0, 0, 6, 4, 0, 0, 0, 0, 0⟩ base % 8 = 0 ∧ base.specul 0 = none ∧
    (xlate .read 0x2000 8 base).isOk = true ∧ settled base.me false (upto 0x2000 8) = true ∧
    (stateIn (xlate .read 0x2000 8 base)).mem.bad 0x2000 = false ∧ base.me.intReady = false ∧
    (stateIn (xlate .read 0x2000 8 base)).mem.word 0x2000 8 = (base.me.rg 0).toNat ∧ base.me.rg 1 ≠ 0 ∧ base.me.rg 7 = 0 ∧
    (stateIn (xlate .read 0x2000 8 base)).mem.word 0x2000 8 ≠ (base.me.rg 2).toNat ∧
    Issues 0 [4, 6, 7] [6, 7] base ∧ (xlate .read 0x2000 32 base).isOk = true ∧ settled base.me false (upto 0x2000 32) = true ∧
    (let s := { base with mem := base.mem.store 0x2008 [4] }
     base.me.rg 5 ≠ 0 ∧ s.mem.word (0x2000 + 16) 4 = (s.me.rg 6).toNat % 2 ^ 32 ∧ s.mem.word 0x2000 8 < s.mem.word (0x2000 + 8) 8) ∧
    Issues 0 [] [] base ∧ (let s := base.onMe fun t => { t with sys := { t.sys with intmask := 1, intpend := 1 } }
      Issues 0 [] [] s ∧ s.me.intReady = true) := by unfold Issues; decide +kernel

theorem witness_LoadsAndStoresIssue : needQ [1] base = .ok () ∧ (xlate .read 0x1000 (2 ^ (3 % 4)) base).isOk = true ∧
    needCached true base = .ok () ∧ base.me.l < 63 ∧ Issues 0 [2] [] base ∧ addrTM ⟨3, 0, 1, 2, 0, 0, 0, 0, 0⟩ base = 0x1000 ∧
    Issues 0 [2, 0] [] base ∧ addrT3 ⟨19, 0, 1, 2, 0, 0, 0⟩ base = 0x1000 ∧ srcV base 1 = .ok 7 ∧ (xlate .write 0x1000 (2 ^ (3 % 4)) base).isOk = true ∧
    base.me.s < 63 ∧ (takeLines [0x1000 / 64] (stateIn (xlate .write 0x1000 8 base))).isOk = true ∧ Issues 0 [2, 1] [] base ∧
    Issues 0 [2, 0, 1] [] base := by unfold Issues; decide +kernel

theorem witness_AtomicWordsIssue : base.specul 0 = none ∧ (xlate .write 0x1000 8 base).isOk = true ∧
    (upto 0x1000 8).any (stateIn (xlate .write 0x1000 8 base)).mem.bad = false ∧ base.me.l < 63 ∧ base.me.s < 63 ∧
    (∀ k ∈ [PKind.atom, .cas, .signal], needHost (decide (k ≠ .atom) || decide (3 / 4 = 0) || decide (3 / 4 = 6)) 0x1000 0x1000 base = .ok ()) ∧
    addrTM ⟨3, 0, 4, 2, 0, 0, 0, 0, 0⟩ base = 0x1000 ∧ Issues 0 [2, 4] [] base ∧ atomN 3 = 8 ∧ Issues 0 [2, 4, 4 + 1] [] base ∧
    bit (base.me.rg 5).toNat 63 = false ∧ needPost 1 base = .ok () ∧ (xlate .write 0x1000 32 base).isOk = true ∧
    (upto 0x1000 32).any (stateIn (xlate .write 0x1000 32 base)).mem.bad = false ∧
    needHost false 0x1000 0x1000 base = .ok () ∧ Issues 0 [2] [] base := by unfold Issues; decide +kernel

/-- STB of g3 at g4 with the barrier at g5, STM of a list at g2, the fences, PREF of a mapped and of an unmapped address. -/
theorem witness_WideStoresFencesPrefetchIssue : Issues 0 [4, 4 + 1, 3] [] base ∧ base.specul 0 = none ∧ srcV base 3 = .ok 2 ∧
    needAll [(.write, 0x2000, 8, 8), (.write, 0x2040, 32, 32)] base = .ok () ∧ (xlate .write 0x2000 8 base).isOk = true ∧
    needHost false 0x2000 0x2000 base = .ok () ∧ (xlate .write 0x2040 32 (stateIn (xlate .write 0x2000 8 base))).isOk = true ∧
    needHost false 0x2040 0x2040 base = .ok () ∧ base.me.s < 63 ∧ Issues 0 [2, 3] [] base ∧ (destList 0x1000 (bits 0 5 0 + 1) base).isOk = true ∧
    (xlateDests true 8 [0x2000] (stateIn (destList 0x1000 1 base))).isOk = true ∧
    (xlateDests false (atomN 3) [0x2000] (stateIn (destList 0x1000 1 base))).isOk = true ∧
    (upto 0x2000 8).any (stateIn (xlateDests false (atomN 3) [0x2000] (stateIn (destList 0x1000 1 base)))).mem.bad = false ∧
    Issues 0 [] [] base ∧ (base.taskOf 0).isSome = false ∧ fenceMet base.me true true = true ∧ Issues 0 [] [] inTask ∧
    (inTask.taskOf 0).isSome = true ∧ Issues 0 [2] [] base ∧ (translate base (base.whoOf 0) .read 0x1000).isOk = true ∧
    missBlocked base (base.whoOf 0) 0x1000 = none ∧ missBlocked base (base.whoOf 0) 0x10000 = none ∧
    (translate base (base.whoOf 0) .read 0x10000).isOk = false := by unfold Issues; decide +kernel

theorem witness_BlockConversionsIssue : Issues 0 [2, 4] [] base ∧ base.specul 0 = none ∧ base.me.l < 63 ∧ base.me.s < 63 ∧
    needAll [(.read, 0x1000, 32 * unitBytes 8, unitBytes 8), (.write, 0x2000, unitBytes 0x18, 1)] base = .ok () ∧
    (xlatesX .read 0x1000 (32 * unitBytes 8) base).isOk = true ∧
    (xlatesX .write 0x2000 (unitBytes 0x18) (stateIn (xlatesX .read 0x1000 (32 * unitBytes 8) base))).isOk = true ∧
    (takeLines [0x80] base).isOk = true ∧ needAll [(.read, 0x1000, unitBytes 0x18, 1), (.write, 0x2000, 32 * unitBytes 8, unitBytes 8)] base = .ok () ∧
    (xlatesX .read 0x1000 (unitBytes 0x18) base).isOk = true ∧
    (xlatesX .write 0x2000 (32 * unitBytes 8) (stateIn (xlatesX .read 0x1000 (unitBytes 0x18) base))).isOk = true := by unfold Issues; decide +kernel

theorem witness_TaskWordsComplete : Issues 0 [2, 2 + 1] [2] base ∧ base.specul 0 = none ∧ needRel base = .ok () ∧ tasksOfDie base 0 < 4096 ∧ haltedThread base 0 = some 1 ∧
    Issues 0 [2, 2 + 1] [2] allBusy ∧ allBusy.specul 0 = none ∧ tasksOfDie allBusy 0 < 4096 ∧ haltedThread allBusy 0 = none ∧
    Issues 0 [] [1] base ∧ base.taskOf 0 = none ∧ Issues 0 [] [1] inTask ∧ inTask.taskOf 0 = some aTask ∧ inTask.me.l = 0 ∧ inTask.me.s = 0 ∧
    aTask.irrev = false ∧ Issues 0 [] [1] inIrrevTask ∧ inIrrevTask.taskOf 0 = some { aTask with irrev := true } ∧ inIrrevTask.me.l = 0 ∧
    inIrrevTask.me.s = 0 ∧ Issues 0 [2] [1] base ∧ gvtMet base 0 0x1000 = true ∧ base.me.prv = true ∧ ckptRuns base = false := by
  unfold Issues; decide +kernel

/-- WAIT with every limit, WAITM and WAITT on a tile of core 0 that thread 0 may reach by its region, CNTRD. -/
theorem witness_CounterWordsComplete : Issues 0 [] [] base ∧ (∀ e ∈ [(0, base.me.l), (15, base.me.s), (0, base.me.c), (15, base.me.k)],
      e.1 = 15 ∨ e.2 ≤ e.1) ∧ trefKey qBase qBase.me.own 0 = some 0 ∧ Issues 0 [0, 6] [6] qBase ∧ (qBase.tile 0).poison = false ∧
    chunksMet (qBase.tile 0) 0 (qBase.me.rg 6) = true ∧ Issues 0 [0] [6] qBase ∧ (qBase.tile 0).st.code = 0 ∧
    Issues 0 [0] [1] base ∧ needQ [1] base = .ok () ∧ counterOf base 4 0 = .ok 0 ∧ (putV 1 0 base).isOk = true := by unfold Issues; decide +kernel

theorem witness_EngineCommandsAreSent : base.specul 0 = none ∧ (engineMsg 0x70 ⟨0, 0, 2, 0, 0, 0, 0, 0, 0⟩ base).isOk = true ∧
    (engineMsg 0x74 ⟨0, 0, 2, 0, 0, 0, 0, 0, 0⟩ base).isOk = true ∧ base.me.c < 63 ∧ base.me.k < 63 ∧ base.me.prv = true ∧
    (∀ op ∈ [0x71, 0x72, 0x73, 0x75, 0x76], (engineMsg op ⟨0, 0, 2, 89, 0, 0, 0, 0, 0⟩ base).isOk = true) ∧
    Issues 0 [2] [] base ∧ Issues 0 [2, 89] [] base ∧ Issues 0 [2, 3] [] base := by unfold Issues; decide +kernel

theorem witness_RuleCommandsAreSent : needDelta base = .ok () ∧ base.me.c < 63 ∧ Issues 0 [2, 3] [] base ∧ (readImage 0x1000 base).isOk = true ∧
    Issues 0 [2, 2 + 1, 3] [] base ∧ base.specul 0 = none ∧ Issues 0 [4, 3] [3] base ∧
    needAll [(.write, 0x2000, 64 * (0 % 64 + 1), 64)] base = .ok () ∧ needAll [(.write, 0x2000, 64, 64)] base = .ok () ∧
    Issues 0 [3] [3] base := by unfold Issues; decide +kernel

theorem witness_DirectoryCommandsAreSent : base.specul 0 = none ∧ base.me.c < 63 ∧ needAll [(.read, 0x1000, 32, 8)] base = .ok () ∧
    Issues 0 [2] [] base ∧ Issues 0 [2, 2 + 1] [] base ∧ Issues 0 [2] [3] base ∧ Issues 0 [88] [] base ∧ inboxRoom base srcDir = true ∧
    needAll [(.read, 0x1000, 32, 8), (.read, 0x2000, 64, 8)] base = .ok () ∧ Issues 0 [2, 4] [] base ∧
    needAll [(.read, 0x1000, 32 * (0 % 16 + 1), 8)] base = .ok () ∧ (xlatesX .read 0x1000 (32 * (0 % 16 + 1)) base).isOk = true ∧
    cmdSettled base.me (upto 0x1000 32) = true ∧ needAll (listChecks (listRecs ((upto 0x1000 32).map base.mem.rd) (0 % 16 + 1))) base = .ok () ∧
    needAll [(.write, 0x1000, 64, 64)] base = .ok () ∧ Issues 0 [2, 89] [] base := by unfold Issues; decide +kernel

theorem witness_GraphCommandsAreSent : base.specul 0 = none ∧ base.me.c < 63 ∧ needRel base = .ok () ∧ Issues 0 [0] [3] base ∧ Issues 0 [2] [3] base ∧
    (readAtIssue 0x1000 32 base).isOk = true ∧ Issues 0 [2, 3] [3] base ∧ Issues 0 [0, 3] [3] base ∧ (xlates .write 0x1000 64 base).isOk = true ∧
    (readAtIssue 0x1000 64 base).isOk = true ∧ (readAtIssue 0x1000 16 base).isOk = true := by unfold Issues; decide +kernel

/-- TRAP and BRK; ERET to an aligned and to a misaligned pc, and without the right; the resolutions of a trapped thread, with and without a task. -/
theorem witness_ExceptionsAreTaken : Issues 0 [] [] base ∧ base.me.prv = true ∧ base.me.sys.xpc.toNat % 8 = 0 ∧
    Issues 0 [] [] user ∧ user.me.hnd = false ∧ user.me.prv = false ∧
    (let s := base.onMe fun t => { t with sys := { t.sys with xpc := 4 } }
     Issues 0 [] [] s ∧ s.me.prv = true ∧ s.me.sys.xpc.toNat % 8 ≠ 0) ∧
    (let s := { base.onMe fun t => { t with st := .trapped } with mem := { base.mem with ctx := [(0, ⟨0, 0, 0x3000, 0, 0, 0, 0, 0, 0, 0⟩)] } }
     (s.th 0).st = .trapped ∧ portHolds s 0 = false ∧ hvecOf s 0 ≠ 0 ∧ (s.th 0).hnd = false ∧ s.taskOf 0 = none ∧
     { s with tasks := [aTask] }.taskOf 0 = some aTask ∧ aTask.irrev = false ∧
     { s with tasks := [{ aTask with irrev := true }] }.taskOf 0 = some { aTask with irrev := true }) := by unfold Issues; decide +kernel

theorem witness_TrapEntrySavesWhatR325Says : base.well.log.length < 2097152 := by decide +kernel

theorem witness_SystemWordsComplete_1 : Issues 0 [3] [] base ∧ base.specul 0 = none ∧ needPost ((base.me.rg 3).toNat % 65536) base = .ok () ∧
    fenceMet base.me true true = true ∧ base.me.prv = true ∧ Issues 0 [2, 3] [] base ∧ fld (base.me.rg 3) 63 18 = 0 ∧ base.me.c < 63 ∧
    fenceMet base.me false true = true ∧ user.me.prv = false ∧ Issues 0 [2, 3] [] user ∧ Issues 0 [3] [] user := by unfold Issues; decide +kernel

/-- CTXSAVE of a running thread into page 0, CTXREST of an empty block into HALTED thread 2. -/
theorem witness_SystemWordsComplete_2 : addrTM ⟨0, 0, 3, 2, 0, 0, 0, 0, 0⟩ base % 64 = 0 ∧ (allBusy.th 2).st ≠ .halted ∧
    (xlates .write 0x1000 1024 allBusy).isOk = true ∧ (base.th (shardOf 0 * 8 + 2 % 8)).st = .halted ∧
    (readAtIssue 0x1000 1024 base).isOk = true ∧ wrongThread base (List.replicate 1024 0) 2 = false ∧
    (readAtIssue (0x1000 + 1024) (64 * (leAt (List.replicate 1024 0) 816 1 % 64)) (stateIn (readAtIssue 0x1000 1024 base))).isOk = true := by
  decide +kernel

/-- Invocation 0 with one node 0, the fields that stand in its frame slot for tag 0, its node state; the turn is the node's. -/
def nodeBase (word : W) (ext : List W) (l r p : Option Tok) (st : NodeSt) : State :=
  let put := fun (f : Nat) (t : Option Tok) (x : Slot) => match t with
    | some t => x.set f t
    | none => x
  { base with
    site := (0, 0, 0),
    fab := { base.fab with invs := [(0, someInv [(0, ⟨word, ext, ⟨0, 0, 0, 0, 0⟩⟩)] [(0, put 2 p (put 1 r (put 0 l .zero)))] [(0, st)])] } }

/-- May this firing go on: no token that it takes is poisoned, and there is space at its targets. -/
def mayGo (c : Ctx) (s1 : State) (i : Inv) (outs : List Emit) : Bool :=
  !tokPoisoned c.s c.iid c.i c.n c.tag c.nd && canSend s1 i c.n c.nd c.tag outs

/-- What the firing sees. -/
def seen (s : State) : Ctx := (nodeCtx s).getD ⟨s, 0, someInv [] [] [], 0, ⟨0, [], ⟨0, 0, 0, 0, 0⟩⟩, 0⟩

/-- An unflagged and a flagged operand for two and three fields; a node word with T1 node 1 field L. -/
def wordTo (op : Nat) : W := w64 (op * 2 ^ 56 + 2 ^ 55 + 4 * 2 ^ 34 + 3 * 2 ^ 18)
def twoOps (op : Nat) : State := nodeBase (wordTo op) [] (some (plain 7)) (some (plain 2)) none .zero
def threeOps (op : Nat) (p : W) : State := nodeBase (wordTo op) [] (some (plain 7)) (some (plain 2)) (some (plain p)) .zero
def endedOps (op : Nat) (p : W) : State := nodeBase (wordTo op) [] (some (atEnd 7)) (some (plain 2)) (some (plain p)) .zero

/-- Every arithmetic opcode finds its operands on three fields; ADD to CTZ pass the value of their thread form. -/
theorem witness_ArithNodesFire :
    (∀ op ∈ [0x00, 0x13, 0x15, 0x17, 0x18, 0x1c, 0x20, 0x30, 0x33, 0x3e, 0x40, 0x45, 0x47], let c := seen (threeOps op 3)
      nodeCtx (threeOps op 3) = some c ∧ (∀ f ∈ arithFields c.nd.op, c.has f = true) ∧
      (let v := ((if c.nd.op < 0x30 then arithInt c.nd.op (c.lit % 128) else arithFlt c.nd.op (c.lit % 128)) c.fn (c.lit / 128 * 4096) (c.val 0)
          (c.val 1) (c.val 2)).1
       mayGo c c.s (taken c (arithFields c.nd.op)) [⟨none, ⟨v, c.outTag c.tag v, resFlg (arithScl c.nd.op (c.flg 0)) ((arithFields c.nd.op).map c.flg), 0⟩⟩] = true)) ∧
    (let c := seen (twoOps 0x14)
     nodeCtx (twoOps 0x14) = some c ∧ (∀ f ∈ arithFields c.nd.op, c.has f = true) ∧ c.nd.op ≤ 0x14 ∧
     ((integerResults c.fn (c.lit / 128 * 4096) (c.val 0) (c.val 1))[c.nd.op]?).isSome = true ∧
     mayGo c c.s (taken c (arithFields c.nd.op)) [⟨none, ⟨8, c.outTag c.tag 8, resFlg (c.flg 0).scl ((arithFields c.nd.op).map c.flg), 0⟩⟩] = true) := by
  decide +kernel

/-- STEER, GATE and FCOMP with P true and false, flagged and not; MERGE from both sides; REPEAT in its three turns; ROUTE and SINK. -/
theorem witness_FlowNodesFire :
    (∀ s ∈ [threeOps 0x80 1, threeOps 0x80 0, endedOps 0x80 1, endedOps 0x80 0], let c := seen s
      nodeCtx s = some c ∧ c.has 0 = true ∧ c.has 2 = true ∧
      (let t := passTok c 0 [0, 2]
       let u := { t with tag := laneTag c.base c.i.k c.st.cnt }
       let ends := fun (x : Nat) => if t.flg.ends then [only x (endTok t)] else []
       mayGo c c.s (taken c [0, 2]) (if bit (c.val 2).toNat 0 then only 0 t :: ends 1 else only 1 t :: ends 0) = true ∧
       mayGo c c.s (taken c [0, 2]) (if bit (c.val 2).toNat 0 then [⟨none, t⟩] else if t.flg.ends then [⟨none, endTok t⟩] else []) = true ∧
       mayGo c c.s (takenSt c [0, 2] (fun x => { x with cnt := (x.cnt + 1) % 65536 })) [⟨none, u⟩] = true ∧
       mayGo c c.s (taken c [0, 2]) (if u.flg.ends then [⟨none, endTok u⟩] else []) = true)) ∧
    (∀ e ∈ [(threeOps 0x81 1, 0), (threeOps 0x81 0, 1)], let c := seen e.1
      c.has 2 = true ∧ (if bit (c.val 2).toNat 0 then 0 else 1) = e.2 ∧ c.has e.2 = true ∧
      mayGo c c.s (taken c [e.2, 2]) [⟨none, passTok c e.2 [e.2, 2]⟩] = true) ∧
    (∀ e ∈ [((0 : W), 0), (1, 1), (2, 2)], let s := nodeBase (wordTo 0x84) [] (some (plain 7)) (some (plain e.1)) none .zero
      let c := seen s
      nodeCtx s = some c ∧ c.has 0 = true ∧ c.has 1 = true ∧ (if c.st.busy then c.st.cnt else (c.val 1).toNat % 65536) = e.2 ∧
      mayGo c c.s (taken c [0, 1]) [] = true ∧ mayGo c c.s (takenSt c [0, 1] (fun x => { x with busy := false, cnt := 0 })) [⟨none, passTok c 0 [0]⟩] = true ∧
      mayGo c c.s (takenSt c [] (fun x => { x with busy := true, cnt := 1 })) [⟨none, plain 7⟩] = true) ∧
    (∀ s ∈ [twoOps 0x8e, endedOps 0x8e 0], let c := seen s
      nodeCtx s = some c ∧ c.has 0 = true ∧ 
      (let t := passTok c 0 [0]
       let x := if bit (c.val 0).toNat (0 % 64) then 1 else 0
       mayGo c c.s (taken c [0]) (only x t :: if t.flg.ends then [only (1 - x) (endTok t)] else []) = true) ∧
      mayGo c c.s (taken c [0]) [] = true) := by decide +kernel

theorem witness_TagAndSourceNodesFire :
    (let c := seen (twoOps 0x92)
     nodeCtx (twoOps 0x92) = some c ∧ c.has 0 = true ∧ c.has 1 = true ∧
     mayGo c c.s (taken c [0, 1]) [⟨none, { passTok c 0 [0, 1] with tag := laneTag c.base c.i.k (c.val 1).toNat }⟩] = true ∧
     mayGo c c.s (taken c [0]) [⟨none, ⟨0, c.outTag c.tag 0, resFlg false [c.flg 0], 0⟩⟩] = true ∧
     mayGo c c.s (taken c [0]) [⟨none, passTok c 0 [0]⟩] = true ∧ c.st.sent = false ∧
     mayGo c c.s (takenSt c [0] (fun x => { x with acc := 8, cnt := 0, busy := false })) [⟨none, ⟨7, c.outTag c.tag 7, ⟨false, false, true, false, false⟩, 0⟩⟩] = true ∧
     mayGo c c.s (takenSt c [] (fun x => { x with sent := true, emits := x.emits + 1 })) [⟨none, ⟨0, c.outTag (laneTag c.base c.i.k c.st.emits) 0, ⟨false, true, false, false, false⟩, 0⟩⟩] = true) ∧
    (let s := nodeBase (wordTo 0x87) [] none none none { NodeSt.zero with cnt := 1 }
     let c := seen s
     nodeCtx s = some c ∧ c.st.cnt ≠ 0 ∧
     mayGo c c.s (takenSt c [] (fun x => { x with acc := x.acc + 1, cnt := x.cnt - 1, emits := x.emits + 1 })) [⟨none, ⟨0, c.outTag (laneTag c.base c.i.k c.st.emits) 0, ⟨false, true, false, false, false⟩, 0⟩⟩] = true) := by decide +kernel

/-- DELAY: empty, at its depth 1, flushing; ACCUM open and closing; MERGE2 with no end, one end, two ends; LUT6; FSM; TOPK, 3 of 4 held and none. -/
theorem witness_StateNodesFire :
    (let s := nodeBase (wordTo 0x85) [] (some (plain 7)) none none .zero
     let c := seen s
     nodeCtx s = some c ∧ c.has 0 = true ∧ c.st.flush = false ∧ c.st.line = [] ∧
     mayGo c c.s (takenSt c [0] (fun x => { x with line := [c.tok 0], flush := (c.flg 0).ends })) [] = true) ∧
    (let s := nodeBase (wordTo 0x85) [] (some (plain 7)) none none { NodeSt.zero with line := [plain 1] }
     let c := seen s
     nodeCtx s = some c ∧ c.has 0 = true ∧ c.st.flush = false ∧ c.st.line = plain 1 :: [] ∧ 0 % 32 + 1 ≤ c.st.line.length ∧
     mayGo c c.s (takenSt c [0] (fun x => { x with line := [c.tok 0], head := 0, flush := (c.flg 0).ends })) [⟨none, plain 1⟩] = true) ∧
    (let s := nodeBase (wordTo 0x85) [] none none none { NodeSt.zero with line := [plain 1, plain 2], flush := true }
     let c := seen s
     nodeCtx s = some c ∧ c.st.flush = true ∧ c.st.line = plain 1 :: [plain 2] ∧
     mayGo c c.s (takenSt c [] (fun x => { x with line := [plain 2], flush := true })) [⟨none, plain 1⟩] = true) ∧
    (∀ e ∈ [(twoOps 0x86, false), (endedOps 0x86 0, true)], let c := seen e.1
      nodeCtx e.1 = some c ∧ c.has 0 = true ∧ (c.flg 0).ends = e.2 ∧
      mayGo c c.s (takenSt c [0] (fun x => { x with acc := 0, cnt := 0 })) [⟨none, ⟨accumAdd c, c.outTag c.tag (accumAdd c), ⟨false, (c.flg 0).eos, (c.flg 0).eor, false, false⟩, 0⟩⟩] = true ∧
      mayGo c c.s (takenSt c [0] (fun x => { x with acc := accumAdd c, cnt := (x.cnt + 1) % 2 ^ 32 })) [] = true) ∧
    (∀ e ∈ [(plain 7, plain 2), (atEnd 7, plain 2), (plain 7, atEnd 2), (atEnd 7, atEnd 2)],
      let s := nodeBase (wordTo 0x8f) [] (some e.1) (some e.2) (some (plain 0)) .zero
      let c := seen s
      nodeCtx s = some c ∧ c.has 0 = true ∧ c.has 1 = true ∧ c.has 2 = true ∧ (c.flg 0).ends = e.1.flg.ends ∧ (c.flg 1).ends = e.2.flg.ends ∧
      mayGo c c.s (taken c [0]) [⟨none, passTok c 0 [0]⟩] = true ∧ mayGo c c.s (taken c [1]) [⟨none, passTok c 1 [1]⟩] = true ∧
      mayGo c c.s (taken c [0, 1]) [⟨none, ⟨0, c.outTag c.tag 0, ⟨(c.flg 0).scl, true, true, false, false⟩, 0⟩⟩] = true ∧
      mayGo c c.s (taken c [0, 1, 2]) [⟨none, ⟨0, c.outTag c.tag 0, resFlg false [c.flg 0, c.flg 1, c.flg 2], 0⟩⟩] = true) ∧
    (let s := nodeBase (wordTo 0x91) [2 ^ 12, 0, 0, 0] (some (plain 3)) none none .zero
     let c := seen s
     nodeCtx s = some c ∧ c.has 0 = true ∧ bits (c.nd.ext.getD 0 0).toNat 15 12 ≠ c.st.st ∧
     mayGo c c.s (takenSt c [0] (fun x => { x with st := 1, acc := c.val 0 })) [⟨none, ⟨3, c.outTag c.tag 3, resFlg false [c.flg 0], 0⟩⟩] = true) ∧
    (∀ e ∈ [([plain 1, plain 2, plain 3], true), ([], false)],
      let s := nodeBase (wordTo 0x9a) [] (some (plain 7)) none none { NodeSt.zero with line := e.1 }
      let c := seen s
      nodeCtx s = some c ∧ c.has 0 = true ∧ c.st.flush = false ∧ decide ((c.st.line ++ [c.tok 0]).length = (topkNM 0).2) = e.2 ∧ (c.flg 0).ends = false ∧
      mayGo c c.s (takenSt c [0] (fun x => { x with line := topkOut 8 (topkNM 0).1 (c.st.line ++ [c.tok 0]), flush := true })) [] = true ∧
      mayGo c c.s (takenSt c [0] (fun x => { x with line := c.st.line ++ [c.tok 0] })) [] = true) := by decide +kernel

theorem witness_QueueNodesFire :
    (let s := nodeBase (wordTo 0x94) [] (some (plain 7)) none none .zero
     let c := seen s
     nodeCtx s = some c ∧ c.has 0 = true ∧ laneOwner c.i = some 0 ∧ ((upto 0 (2 ^ c.i.k)).find? fun l => !decide (l ∈ (c.i.st 0).lanes)) = some 0 ∧
     mayGo c c.s ((c.i.clearFields c.n c.tag [0]).onSt 0 fun x => { x with lanes := (c.i.st 0).lanes ++ [0] }) [⟨none, { passTok c 0 [0] with tag := laneTag c.base c.i.k 0 }⟩] = true ∧
     mayGo c c.s ((c.i.clearFields c.n c.tag [0]).onSt 0 fun x => { x with lanes := x.lanes.filter fun l => decide (l ≠ 0) }) [⟨none, passTok c 0 [0]⟩] = true) ∧
    (let s := nodeBase (wordTo 0x96) [0] none none none { NodeSt.zero with line := [plain 1] }
     let c := seen s
     nodeCtx s = some c ∧ c.nd.targets ≠ [] ∧ aaDests c.nd = 0 ∧ justQueued c.s c.iid c.n 0 = false ∧ c.st.line = plain 1 :: [] ∧ (plain 1).flg.frs = false ∧
     mayGo c c.s ((c.i.popChan c.n (dropAt c.st.line 0)).freeChan c.n 0) [⟨none, plain 1⟩] = true) ∧
    (let s := nodeBase (wordTo 0x97) [0] (some (plain 7)) none none .zero
     let c := seen s
     nodeCtx s = some c ∧ c.has 0 = true ∧ fld c.nd.ext1 15 0 = weirFrom c ∧ fld c.nd.ext1 63 48 = 0 ∧
     mayGo c c.s (takenSt c [0] (fun x => { x with senders := Tab.del x.senders c.tag, sends := c.s.cycle :: c.st.sends.filter fun t => decide (c.s.cycle ≤ t + 1024) })) [⟨none, passTok c 0 [0]⟩] = true) ∧
    (let s := nodeBase (wordTo 0x97) [2 ^ 32 + 5 * 65536] (some (plain 7)) none none { NodeSt.zero with senders := [(0, 5)] }
     let c := seen s
     nodeCtx s = some c ∧ c.has 0 = true ∧ bit c.nd.ext1.toNat 32 = true ∧ fld c.nd.ext1 31 16 = weirFrom c ∧ weirFrom c ≠ c.i.owner ∧
     mayGo c c.s (takenSt c [0] (fun x => { x with senders := Tab.del x.senders c.tag, sends := [c.s.cycle] })) [⟨none, passTok c 0 [0]⟩] = true) ∧
    (∀ e ∈ [plain 7, atEnd 7], let s := nodeBase (wordTo 0x99) [0] (some e) none (some (plain 0)) .zero
     let c := seen s
     nodeCtx s = some c ∧ c.st.outs = [] ∧ c.has 1 = false ∧ c.has 0 = true ∧ c.has 2 = true ∧ (exArrivals c).any (exWaits c.nd c.st) = false ∧
     exMode c.nd ≠ 2 ∧ mayGo c c.s (takenSt c [0, 2] fun x => (exArrivals c).foldl (fun x e => exEnter c.nd e.1 e.2 x) x) [] = true) ∧
    (let s := nodeBase (wordTo 0x99) [0x200] (some (plain 7)) none (some (plain 0)) { NodeSt.zero with queues := [(0, [plain 1])] }
     let c := seen s
     nodeCtx s = some c ∧ c.st.outs = [] ∧ c.has 1 = false ∧ c.has 0 = true ∧ c.has 2 = true ∧ (exArrivals c).any (exWaits c.nd c.st) = false ∧
     exMode c.nd = 2 ∧ exFull c.nd c.st (exDest c.nd (c.val 2)) = true ∧
     mayGo c c.s (takenSt c [0, 2] fun x => { x with drops := Tab.put x.drops 0 1 }) [] = true) ∧
    (let s := nodeBase (wordTo 0x99) [0] none none none { NodeSt.zero with queues := [(0, [plain 1])] }
     let c := seen { s with site := (0, 0, 0) }
     nodeCtx { s with site := (0, 0, 0) } = some c ∧ c.nd.op = 0x99 ∧ exNext c.s c.iid c.n c.nd c.st = some 0 ∧ exQ c.st 0 = plain 1 :: [] ∧ queuePoisoned c.s c.i c.nd 0 = false ∧
     mayGo c c.s (takenSt c [] (fun x => { x with queues := Tab.set x.queues [] 0 [], rr := (0 + 1) % exDests c.nd })) [only 0 (plain 1)] = true) := by
  decide +kernel

/-- The result of a write, of a read. -/
def written (e : Except (XKind × Nat) State) : State := match e with
  | .ok s => s
  | .error _ => .reset

theorem witness_MemoryNodesFire :
    (let s := nodeBase (wordTo 0x8a) [0, 0] (some (plain 7)) (some (plain 2)) none .zero
     let c := seen s
     nodeCtx s = some c ∧ requesterStopped c = false ∧ c.has 0 = true ∧ c.st.run = none ∧
     mayGo c c.s (takenSt c [0] (fun x => { x with run := some ⟨0, (c.val 0).toNat % 4096, c.tok 0⟩ })) [] = true) ∧
    (let s := nodeBase (w64 (0x8b * 2 ^ 56 + 2 ^ 55 + 7 * 2 ^ 50 + 4 * 2 ^ 34 + 3 * 2 ^ 18)) [] (some (plain 0x1000)) (some (plain 2)) none .zero
     let c := seen s
     nodeCtx s = some c ∧ requesterStopped c = false ∧ c.has 0 = true ∧ c.has 1 = true ∧ isVoid (c.val 0) = false ∧
     missBlocked c.s c.i.who (tokVa (c.val 0)) = none ∧ (readVa c.s c.i.who (tokVa (c.val 0)) (unitBytes c.fn)).isOk = true ∧
     mayGo c (stateIn (readVa c.s c.i.who 0x1000 8)) (c.i.clearFields c.n c.tag [0]) [⟨none, ⟨0, c.outTag c.tag 0, resFlg false [c.flg 0], 0⟩⟩] = true ∧
     (writeVa c.s c.i.who none (tokVa (c.val 0)) (storeBytes c.fn (c.val 1))).isOk = true ∧
     (let s2 := written (writeVa c.s c.i.who none (tokVa (c.val 0)) (storeBytes c.fn (c.val 1)))
      let out : List Emit := [⟨none, ⟨0, c.outTag c.tag 0, resFlg (c.flg 1).scl [c.flg 0, c.flg 1], 0⟩⟩]
      s2.inv c.iid = some c.i ∧ canSend c.s c.i c.n c.nd c.tag out = true ∧ mayGo c s2 (c.i.clearFields c.n c.tag [0, 1]) out = true)) ∧
    (let s := nodeBase (wordTo 0x9b) [w64 (2 ^ 51 + 0x1000)] (some (plain 7)) none none .zero
     let c := seen s
     nodeCtx s = some c ∧ requesterStopped c = false ∧ c.has 0 = true ∧ (c.tag + 65536 - c.base) % 65536 = 0 ∧ (Tab.getD c.st.spill 0 []).length < spillCap c ∧
     (let s2 := written (writeVa c.s c.i.who none (spillVa c 0 0) (tokBytes (c.tok 0)))
      (writeVa c.s c.i.who none (spillVa c 0 0) (tokBytes (c.tok 0))).isOk = true ∧ s2.inv c.iid = some c.i ∧
      mayGo c s2 ((c.i.clearFields c.n c.tag [0]).onSt c.n fun x => { x with spill := Tab.put x.spill 0 [c.tok 0], wrote := Tab.put x.wrote 0 1 }) [] = true)) ∧
    (let s := nodeBase (wordTo 0x8d) [] (some (plain 0)) none none .zero
     let c := seen s
     let pa := poolPa 0 (16 * 65536)
     nodeCtx s = some c ∧ c.has 0 = true ∧ fld (c.val 0) 63 32 % 4 = 0 ∧ partRF (c.s.mem.partOf 0) = 16 ∧ 0 < partSP (c.s.mem.partOf 0) * 65536 ∧
     bankHeld c.s c.iid 0 (16 * 65536 + 0) = true ∧ c.s.mem.bad pa = false ∧
     (let out : List Emit := [⟨none, ⟨0, c.outTag c.tag 0, resFlg false [c.flg 0], 0⟩⟩]
      let s2 := homeWrite c.s none pa (toBytes 4 (atomOp 0 ((c.s.refresh (upto pa 4)).mem.word pa 4) 0).1)
      canSend c.s c.i c.n c.nd c.tag out = true ∧ s2.inv c.iid = some c.i ∧ mayGo c s2 (c.i.clearFields c.n c.tag [0]) out = true)) ∧
    (let s := nodeBase (wordTo 0x8b) [] none none none { NodeSt.zero with retained := some (plain 1) }
     (s.inv 0).isSome = true ∧ ((seen s).i.st 0).retained = some (plain 1)) := by decide +kernel

/-- A network of invocation 0: its Mere stands at 0x1000, its score table at 0x2000. -/
def someNet : Net := ⟨0x1000, 64, 0x2000, 16, 0, [⟨1, 0, 0⟩], 0, [], [], [], 0, 0, 64, 0, [], []⟩
def matchBase (word : W) (l r : Option Tok) (st : NodeSt) : State :=
  let s := nodeBase word [] l r none st
  { s with fab := { s.fab with nets := [(0, someNet)] } }

/-- A plus match of one WME, wid 0, on L; for the reply a scorer's result on R. -/
theorem witness_MatchNodesFire_1 :
    (let one := plain (w64 (2 ^ 60))
     let s := matchBase (wordTo 0xb3) (some one) none .zero
     let c := seen s
     let v := c.val 0
     nodeCtx s = some c ∧ c.s.net c.iid = some someNet ∧ c.has 0 = true ∧ mKind v = 0 ∧ mN v ≠ 3 ∧
     (attrAt c.s c.i someNet (mWid v (mN v - 1)) 0).isOk = true ∧
     (let s2 := stateIn (attrAt c.s c.i someNet (mWid v (mN v - 1)) 0)
      mayGo c s2 (c.i.clearFields c.n c.tag [0]) [only 0 (passTok c 0 [0])] = true) ∧
     c.st.outs = [] ∧ c.st.beta.length < membCap 0 ∧ (ttsOf c.i someNet (mWids v) c.s).isOk = true ∧
     (let s2 := stateIn (ttsOf c.i someNet (mWids v) c.s)
      mayGo c s2 ((c.i.onSt c.n fun x => { x with beta := x.beta ++ [⟨v, [0], 0, 0⟩] }).clearFields c.n c.tag [0]) [⟨none, ⟨v, c.tag, resFlg false [c.flg 0], 0⟩⟩] = true) ∧
     (leftKey c someNet v c.s).isOk = true ∧
     (let s2 := stateIn (leftKey c someNet v c.s)
      (matching (rightKey c someNet) 0 (below (c.tok 0).seq (sideOf c 1).2) s2).isOk = true ∧
      (sendOuts c s2 c.i 0 []).isSome = true ∧ (sendOuts c s2 (recount c (fun _ => 0) [(c.tok 0).seq]) 0 [(v, 0)]).isSome = true)) := by
  decide +kernel

theorem witness_MatchNodesFire_2 :
    (let s := matchBase (wordTo 0xb8) (some (plain (w64 (2 ^ 60)))) none .zero
     let c := seen s
     nodeCtx s = some c ∧ c.s.net c.iid = some someNet ∧ c.has 0 = true ∧ mKind (c.val 0) = 0 ∧ Tab.look c.st.score c.tag = none ∧
     (match scoreLook c someNet (c.tok 0) with
      | .ok (some _) => true
      | _ => false) = true) ∧
    (let s := matchBase (w64 (0xb7 * 2 ^ 56 + 2 ^ 55 + 3 * 2 ^ 34 + 3 * 2 ^ 18)) (some (plain (w64 (2 ^ 60)))) none .zero
     let c := seen s
     nodeCtx s = some c ∧ c.s.net c.iid = some someNet ∧ c.has 0 = true ∧ mKind (c.val 0) = 0 ∧ bit c.lit 12 = false ∧
     freeBasin c.s c.i.region.die = some 0 ∧ (ttsOf c.i someNet (mWids (c.val 0)) c.s).isOk = true ∧
     basinOf c.s c.iid (fun b => decide (b.rule = 1) && decide (b.m = c.val 0)) = [] ∧
     (let s2 := stateIn (ttsOf c.i someNet (mWids (c.val 0)) c.s)
      mayGo c ((s2.putBasin (Tab.put s2.fab.basin 0 ⟨1, 0, 0, .ready, 1, c.iid, c.val 0, [0], 0⟩)).onNet c.iid
        fun n => { n with full := n.full.filter fun k => decide (k ≠ c.n) }) (c.i.clearFields c.n c.tag [0]) [] = true)) ∧
    (let s := matchBase (wordTo 0xb8) none (some (plain 9)) { NodeSt.zero with score := [(0, 3)] }
     let c := seen { s with site := (0, 0, 0) }
     let out := [only 1 ⟨9, c.tag, resFlg false [c.flg 1], 0⟩]
     nodeCtx { s with site := (0, 0, 0) } = some c ∧ c.s.net c.iid = some someNet ∧ c.nd.op = 0xb8 ∧ Tab.look c.st.score c.tag = some 3 ∧ c.has 1 = true ∧
     canSend c.s c.i c.n c.nd c.tag out = true ∧ (readVa c.s c.i.who (scoreVa someNet 3) 16).isOk = true ∧
     (scorePut (stateIn (readVa c.s c.i.who (scoreVa someNet 3) 16)) c someNet 3 (toBytes 8 (scoreWord true false 0) ++ toBytes 4 9)).isOk = true ∧
     mayGo c c.s ((c.i.clearFields c.n c.tag [1]).onSt c.n fun n => { n with score := Tab.del n.score c.tag }) out = true) := by decide +kernel


/-- TERM with SC, its saliency 5 on R. -/
theorem witness_MatchNodesFire_3 :
    let s := matchBase (w64 (0xb7 * 2 ^ 56 + 2 ^ 55 + 3 * 2 ^ 34 + 3 * 2 ^ 18 + 2 ^ 12)) (some (plain (w64 (2 ^ 60)))) (some (plain 5)) .zero
    let c := seen s
    nodeCtx s = some c ∧ c.s.net c.iid = some someNet ∧ c.has 0 = true ∧ c.has 1 = true ∧ mKind (c.val 0) = 0 ∧ bit c.lit 12 = true ∧
    freeBasin c.s c.i.region.die = some 0 ∧ (ttsOf c.i someNet (mWids (c.val 0)) c.s).isOk = true ∧
    basinOf c.s c.iid (fun b => decide (b.rule = 1) && decide (b.m = c.val 0)) = [] ∧
    (let s2 := stateIn (ttsOf c.i someNet (mWids (c.val 0)) c.s)
     mayGo c ((s2.putBasin (Tab.put s2.fab.basin 0 ⟨1, 0, fld (c.val 1) 31 0, .ready, 1, c.iid, c.val 0, [0], 0⟩)).onNet c.iid
       fun n => { n with full := n.full.filter fun k => decide (k ≠ c.n) }) (c.i.clearFields c.n c.tag [0, 1]) [] = true) := by decide +kernel

/-- JOINB and NEGJ with a right match alone: one left match of one WME stands in memory. -/
theorem witness_MatchNodesFire_4 :
    ∀ op ∈ [0xb4, 0xb5], let s := matchBase (wordTo op) none (some (plain (w64 (2 ^ 60)))) { NodeSt.zero with beta := [⟨w64 (2 ^ 60), [0], 0, 0⟩] }
    let c := seen s
    nodeCtx s = some c ∧ tokPoisoned s c.iid c.i c.n c.tag c.nd = false ∧ s.net c.iid = some someNet ∧ c.st.outs = [] ∧ c.has 0 = false ∧ c.has 1 = true ∧
    mKind (c.val 1) = 0 ∧ (rightKey c someNet (c.val 1) s).isOk = true ∧
    (let s2 := stateIn (rightKey c someNet (c.val 1) s)
     let bs : List Beta := [⟨w64 (2 ^ 60), [0], 0, 0⟩]
     (matching (leftKey c someNet) 0 (below (c.tok 1).seq (sideOf c 0).2) s2).isOk = true ∧ (∀ b ∈ bs, mN b.m ≠ 3) ∧ (∀ b ∈ bs, b.count < 65535) ∧
     (sendOuts c s2 c.i 1 (bs.map fun b => (plusTok (mWids b.m ++ [mWid (c.val 1) 0]), 0))).isSome = true ∧
     (sendOuts c s2 (recount c (fun n => n + 1) (bs.map Beta.seq)) 1 ((bs.filter fun b => decide (b.count = 0)).map fun b => (minusOf b.m, 0))).isSome = true) := by
  decide +kernel
/-! ### Tile tasks and engines -/

/-- A message of thread 0 with an opcode and the six operand words of its descriptor. -/
def aMsg (op : Nat) (opnd : List W) : Msg := ⟨op, 0, 0, 0, 0, false, false, 0, 0, 0, true, 0, 0, 0, opnd, 0, false, 0, 0, 0, 0, 0⟩

/-- A tile-task record: TOP, FN, I, J, K, ARG, and the tiles 1, 2 and 3 of core 0 where it uses them. -/
def tileRec (top fn ti tj tk arg : Nat) (ta tb : W) : Msg :=
  aMsg 0x74 [w64 (top * 2 ^ 56 + fn * 2 ^ 51 + 2 ^ 48 * b2n (top = 0xa0 || top = 0xa1 || top = 0xa3) + (ti - 1) * 2 ^ 38 + (tj - 1) * 2 ^ 32 +
    (tk - 1) * 2 ^ 24 + arg), ta, tb, 3, 0, 0]

/-- A descriptor with a format and a sparsity field. -/
def aDesc (fmt sparse : Nat) : Desc := ⟨0x8000, 4096, true, fmt, 2, [32, 32], [32, 1], 0x7f, sparse, 0, 1⟩

/-- Tiles 1, 2 (READY) and 3 (EMPTY) of core 0, with handles 1, 2 and 3 of formats fa, fb and fc; an invocation gives owner 0 the core. -/
def tileBase (fa fb fc sparse : Nat) : State :=
  let e := fun (n : Nat) (st : TileSt) => (⟨0, 0, n, 3, 2048 + 4 * n, 0, false, st⟩ : TileEnt)
  { qBase with tab := { qBase.tab with
      tiles := [(1, e 1 .ready), (2, e 2 .ready), (3, e 3 .empty)],
      handles := [(1, ⟨aDesc fa sparse, 0⟩), (2, ⟨aDesc fb 0, 0⟩), (3, ⟨aDesc fc 0, 0⟩)] } }

/-- A dot engine 0 that has started a record. -/
def running (m : Msg) (s : State) : State := startRun 0 m none ((descsOf s m).getD []) s

/-- Does a computation give a result? -/
def gives (x : Option (State × Comp)) : Bool := match x with
  | some (_, .out _) => true
  | _ => false

/-- A row of the statement, with the state and the record that meet it. -/
def computes (n : Nat) (m : Msg) (s : State) : Bool :=
  tileInstrs[n]?.any fun e => match Tab.look (running m s).eng.dots 0 with
    | some r => decide (r.msg = m) && decide (m.top = e.2.1) && decide (∀ n, e.2.2.1 = some n → m.tfn = n) && !r.computed && r.stop.isNone &&
        !acqHeld m (running m s) && (recCheck s 0 m).isNone && gives (e.2.2.2 r.descs r.msg (running m s))
    | none => false

/-- A record for each tile instruction, and a state of formats that it may run on. -/
def tileRows : List (Nat × Msg × State) :=
  [(0, tileRec 0xa0 0 2 2 32 0 1 2, tileBase 0x14 0x14 8 0), (1, tileRec 0xa1 0 2 2 32 0 1 2, tileBase 0x14 0x14 8 1),
   (2, tileRec 0xa2 0 2 1 32 0 1 0, tileBase 0x14 0x14 8 1), (3, tileRec 0xa2 1 2 1 32 0 1 0, tileBase 0x14 0x14 8 1),
   (4, tileRec 0xa3 0 2 2 32 0 1 2, tileBase 0x14 0x14 8 1), (5, tileRec 0xa4 0 2 2 1 0 0 0, tileBase 8 8 8 0),
   (6, tileRec 0xa5 0 2 2 1 0 1 0, tileBase 8 8 8 0), (7, tileRec 0xa6 0 2 2 1 127 1 0, tileBase 8 8 8 0),
   (8, tileRec 0xa7 0 2 2 1 0 1 0, tileBase 8 8 8 0), (9, tileRec 0xa8 0 2 2 1 0 1 0, tileBase 8 8 8 0),
   (10, tileRec 0xa9 0 2 1 4 1 1 0, tileBase 8 8 8 0), (11, tileRec 0xab 0 2 2 1 0 1 0, tileBase 8 8 8 0)]

theorem witness_TileInstructionsCompute :
    ((upto 0 12).all fun n => tileRows.any fun e => decide (e.1 = n) && computes e.1 e.2.1 e.2.2) = true := by decide +kernel

/-- A TZERO node whose record stands at 0x1000. -/
def tileNode : State :=
  let s := nodeBase (wordTo 0xa4) [] (some (plain 0x1000)) none none .zero
  { s with tab := (tileBase 8 8 8 0).tab,
           mem := s.mem.store 0x1000 (toBytes 8 0 ++ ((tileRec 0xa4 0 2 2 1 0 0 0).opnd.flatMap fun w => toBytes 8 w.toNat) ++ toBytes 8 0) }

/-- A TCVT whose source tile's first line is poisoned. -/
def poisoned : State :=
  let s := running (tileRec 0xa5 0 2 2 1 0 1 0) (tileBase 8 8 8 0)
  { s with mem := s.mem.setBad (tilePa s 1 0) true }

theorem witness_TileNodesAndFaultStops :
    (let c := seen tileNode
     nodeCtx tileNode = some c ∧ c.has 0 = true ∧ Tab.look c.s.eng.dots (engOf c.nd.place.core c.nd.place.elem) = none ∧ canSend c.s c.i c.n c.nd c.tag [] = true ∧
     (c.val 0).toNat % 64 = 0 ∧
     (match readVa c.s c.i.who (c.val 0).toNat 64 with
      | .ok (s1, bs) => let m := nodeMsg c bs
        decide (m.top = 0xa4) && (recCheck s1 (coreShard c.nd.place.core) m).isNone && !inAcc s1 (writeKey m) &&
        (match fateOf s1 m with
         | .ready _ => true
         | _ => false)
      | .error _ => false) = true) ∧
    (match Tab.look poisoned.eng.dots 0 with
     | some r => !r.computed && r.stop.isNone && !acqHeld r.msg poisoned && (match compute r.descs r.msg poisoned with
       | some (_, .stop _ _) => true
       | _ => false)
     | none => false) = true := by decide +kernel

/-- A shard's ring with one record, checked or not, and RINGDEF.tasks records that wait. -/
def ringWith (slots : List RSlot) (next : List Msg) (s : State) : State := s.putRing 0 ⟨0x2000, 0, 6, 0, slots.length, slots, next⟩

/-- RINGDEF.tiles of tile 4 (512 bytes at offset 2,100), RINGDEF.ring of tile 4 as descriptor 0, RINGDEF.tasks of 64 records. -/
def ringdef (fn arg : Nat) (ta : W) (aux : W) : Msg := aMsg 0x74 [w64 (0xaa * 2 ^ 56 + fn * 2 ^ 51 + arg), ta, 0, 0, aux, 0]

/-- Does the scheduler act next on this record, which may issue? -/
def nextReady (s : State) (m : Msg) : Bool := match nextRec s 0 with
  | some (_, m', .ready _) => decide (m' = m)
  | _ => false
def inr {α β : Type} (x : α ⊕ β) : Bool := match x with
  | .inr _ => true
  | .inl _ => false

theorem witness_TileTasksAreScheduled :
    (let m := tileRec 0xa5 0 2 2 1 0 1 0
     let s := ringWith [⟨m, false, false, false⟩] [] (tileBase 8 8 8 0)
     (windowOf s 0).find? (fun e => !e.2.checked) = some (0, ⟨m, false, false, false⟩) ∧ recCheck s 0 m = none ∧
     (let t := ringWith [⟨m, true, false, false⟩] [] (tileBase 8 8 8 0)
      nextReady t m = true ∧ m.isRingdef = false ∧ engSuits t 0 m 0 = true)) ∧
    (let m := aMsg 0x74 [w64 (0xff * 2 ^ 56)]
     let s := ringWith [⟨m, false, false, false⟩] [] base
     (windowOf s 0).find? (fun e => !e.2.checked) = some (0, ⟨m, false, false, false⟩) ∧ recCheck s 0 m = some 4) ∧
    (let m := ringdef 0 0 4 2100
     let s := ringWith [⟨m, true, false, false⟩] [] (tileBase 8 8 8 0)
     recCheck s 0 m = none ∧ nextReady s m = true ∧ m.isRingdef = true ∧ m.tfn = 0 ∧ inr (defTiles m s) = true) ∧
    (let m := ringdef 1 0 3 0
     let s := ringWith [⟨m, true, false, false⟩] [] (tileBase 8 8 8 0)
     recCheck s 0 m = none ∧ nextReady s m = true ∧ m.isRingdef = true ∧ m.tfn = 1 ∧ inr (defRing m s) = true) ∧
    (let m := ringdef 2 6 0 0x2000
     let s := ringWith [] [m] base
     (s.ring 0).next = [m] ∧ ringIdle s 0 = true ∧ fieldsOk m = true ∧ m.prv = true) ∧
    (match Tab.look (running (tileRec 0xa5 0 2 2 1 0 1 0) (tileBase 8 8 8 0)).eng.dots 0 with
     | some r => r.node.isNone && (dotReply { r with computed := true }).isSome && (dotReply { r with stop := some (2, 1, 0) }).isSome
     | none => false) = true := by decide +kernel

/-- A started XCOPY of 512 bytes from 0x1000 to 0x2000. -/
def copying : Cmd := { Cmd.start 7 0x420 (aMsg 0x70 [0x1000, 0x2000, 512, 0, 0, 0]) with total := 1 }

theorem witness_EngineEventsComplete :
    (∀ e ∈ [(0x420, aMsg 0x75 []), (0x420, aMsg 0x70 [0x1000, 0x2000, 512, 0, 0, 0]), (0x481, aMsg 0xc0 []), (0x400, aMsg 0xb9 []),
        (0x410, aMsg 0xc9 [])], let s := base.putInbox e.1 [e.2]
      s.inbox e.1 = e.2 :: [] ∧ acqHeld e.2 s = false ∧ yields s e.2 = false ∧ relHeld e.2 s = false) ∧
    (let s := { base with eng := { base.eng with cmds := [copying] } }
     s.eng.cmds.find? (fun c => decide (c.id = 7)) = some copying ∧ copying.stop = none ∧ yields s copying.msg = false ∧ bit copying.chunks 0 = false ∧ 0 < copying.total ∧
     ({ copying with chunks := 1 } : Cmd).over = some (0, 0) ∧
     (∃ e ∈ ({ s with eng := { s.eng with late := [(7, 0, [], [(0x2000, 5)])] } } : State).eng.late, e.1 = 7 ∧ e.2.1 = 0) ∧ s.eng.late = []) ∧
    (let s := running (tileRec 0xa5 0 2 2 1 0 1 0) (tileBase 8 8 8 0)
     s.eng.cmds.find? (fun c => decide (c.id = s.nextId - 1)) = none ∧ ((s.eng.dots.find? fun e => decide (e.2.id = s.nextId - 1)).isSome) = true) := by
  decide +kernel

/-! ### The fabric and the scheduler -/

/-- Invocation 0 of two nodes: node 0 with an opcode, which feeds field L of node 1, a SINK in a cell of its own or the same; the turn is node 0's. -/
def pair (op : Nat) (cell : Nat) (f : Inv → Inv) : State :=
  { base with
    site := (0, 0, 0),
    fab := { base.fab with invs := [(0, f (someInv [(0, ⟨wordTo op, [], ⟨0, 0, 0, 0, 0⟩⟩), (1, ⟨w64 (0x8e * 2 ^ 56 + 2 ^ 55 + 3 * 2 ^ 34 + 3 * 2 ^ 18), [], ⟨0, cell, 1, 0, 0⟩⟩)] [] []))] } }
def invOf (s : State) : Inv := (s.inv 0).getD (someInv [] [] [])
def aLink : Link := ⟨plain 7, 0, 0, 1, 0⟩

theorem witness_TokensMove :
    (let s := pair 0x85 1 fun i => { i with links := [aLink], tbuf := [⟨plain 7, 0, true, false⟩], credits := [0] }
     let i := invOf s
     s.inv 0 = some i ∧ i.phase ≠ .out ∧ i.links[0]? = some aLink ∧ arrivesNow s 0 i aLink = true ∧ firstLink i 0 aLink = true ∧
     i.tbuf[0]? = some ⟨plain 7, 0, true, false⟩ ∧ firstEntry i 0 0 ⟨plain 7, 0, true, false⟩ = true ∧
     linkOf i ⟨plain 7, 0, true, false⟩ 0 = some aLink ∧ sameCell i 0 1 = false ∧ i.credits[0]? = some 0 ∧ (i.ct (creditDst i 0)).hold = false) ∧
    (let s := pair 0x85 0 fun i => { i with tbuf := [⟨plain 7, 0, true, false⟩] }
     let i := invOf s
     sameCell i 0 1 = true ∧ arrivesNow s 0 i aLink = true ∧ linkOf i ⟨plain 7, 0, true, false⟩ 0 = some aLink) ∧
    (let m : Miss := ⟨0, 0x2000, false, false, true⟩
     let s := { base with mem := { (base.mem.store 0x3000 (toBytes 8 0x4001)).store 0x4000 (toBytes 8 0x5001) with
       misses := [(0, [m])], tlb := [], ctx := [(0, ⟨0x3000, 0, 0, 0, 0, 0, 0, 0, 0, 0⟩)] } }
     let t := { s with mem := (s.mem.store 0x5000 (toBytes 8 0x6001)).store 0x6000 (toBytes 8 0x3f) }
     Tab.getD s.mem.misses 0 [] = [m] ∧ Tab.getD t.mem.misses 0 [] = [m] ∧ (walkOnce s ⟨0, 0, 0, true, none⟩ .read 0x2000).isOk = false ∧
     (walkOnce t ⟨0, 0, 0, true, none⟩ .read 0x2000).isOk = true ∧ Tab.getD t.mem.tlb 0 [] = [] ∧
     (let u := { t with mem := { t.mem with tlb := [(0, [⟨0, 0, 16, 0, true, true, true, true, 0, false⟩])] } }
      ((Tab.getD u.mem.tlb 0 []).any fun e => e.covers m.ctxid m.va && (e.dirty || !m.write)) = true)) ∧
    (({ base with eng := { base.eng with arrivals := [(0x2000, none)] } } : State).eng.arrivals[0]? = some (0x2000, none)) := by decide +kernel

/-- An access of eight bytes at 0x1000 that thread 0 has issued. -/
def aPend (k : PKind) : Pend := ⟨0, k, 3, 1, 0x1000, 8, [0x1000], [], [], 5, 0, 0, false, false, 0, 0, false, 0, 0, false, []⟩
def issued (k : PKind) : State := base.onTh 0 fun t => { t with pend := [aPend k] }

theorem witness_AccessesComplete :
    (∀ k ∈ [PKind.load, .store, .atom, .cas, .stb, .stm, .stred, .binit, .barr, .signal],
      ((issued k).th 0).pend[0]? = some (aPend k) ∧ mayPerform ((issued k).th 0).pend 0 = true ∧
      ((aPend k).kind.isL = true ∨ (aPend k).kind.isS = true ∧ (aPend k).kind.isL = false)) := by decide +kernel

/-- The phase of invocation 0 of `pair`. -/
def phased (op : Nat) (p : Phase) (f : Inv → Inv) : State := pair op 1 fun i => { f i with phase := p }

theorem witness_DeltasAndWavesComplete :
    (let s := { base with mem := { base.mem with banks := [(0, ⟨0, .passing, 3, 0⟩), (1, ⟨0, .awaiting, 3, 0⟩)] } }
     (Tab.getD s.mem.banks 0 Bank.reset).st = .passing ∧ (Tab.getD s.mem.banks 0 Bank.reset).port = 0 ∧ (Tab.getD s.mem.banks 1 Bank.reset).st = .awaiting) ∧
    (let s := phased 0x85 .delta fun i => { i with words := [(0, [wordTo 0x85])] }
     s.inv 0 = some (invOf s) ∧ (invOf s).phase = .delta ∧ ((invOf s).words.all fun e => drained (invOf s) e.1) = true) ∧
    (let s := phased 0x85 .wave id
     let i := invOf s
     let nd := (Tab.look i.nodes 0).getD ⟨0, [], ⟨0, 0, 0, 0, 0⟩⟩
     s.inv 0 = some i ∧ Tab.look i.nodes 0 = some nd ∧ i.phase = .wave ∧ (i.ct 0).waved = false ∧ frsStands i 0 nd = true ∧ bareSource i 0 nd = false ∧
     canOld i 0 nd = false ∧ waveFlush ⟨s, 0, i, 0, nd, baseTag 0⟩ = none ∧ (waveTurn ⟨s, 0, i, 0, nd, baseTag 0⟩).isSome = true) := by decide +kernel

theorem witness_SavesAndStallsComplete :
    (let s := phased 0x85 .snap fun i => { i with links := [aLink], ctl := [(1, { i.ct 1 with saved := true })] }
     let i := invOf s
     let nd := (Tab.look i.nodes 0).getD ⟨0, [], ⟨0, 0, 0, 0, 0⟩⟩
     s.inv 0 = some i ∧ Tab.look i.nodes 0 = some nd ∧ i.phase = .snap ∧ (i.ct 0).saved = false ∧ dotRuns s 0 (some 0) = false ∧
     (∀ f ∈ forwardFields i 0 nd, f ∈ (i.ct 0).marks) ∧ i.links[0]? = some aLink ∧ (i.ct 1).saved = true ∧ aLink.tok.flg.mrk = false ∧
     firstLink i 0 aLink = true ∧ arrivesNow s 0 i aLink = false ∧ markerRoom s 0 0 i = true) ∧
    (let s := { phased 0x85 .snap id with cycle := 65536 }
     idleFor s (invOf s) (saveWindow (invOf s)) = true ∧ (invOf s).phase = .snap ∧ dotRuns s 0 none = false) ∧
    (let s := phased 0x85 .drain id
     (invOf s).phase = .drain ∧ drainEmpty (invOf s) = true ∧ dotRuns s 0 none = false) ∧
    (let s := { pair 0x85 1 fun i => { i with links := [aLink], region := { i.region with win := 1024 } } with cycle := 1024 }
     s.inv 0 = some (invOf s) ∧ stalledRegion s (invOf s) = true) := by decide +kernel

/-- A request of die 0 for a rectangle. -/
def aReq (w h level : Nat) (msg : Option Msg) : Request := ⟨0, none, w, h, level, 1, 1000, 0, msg, 0⟩
def asked (r : Request) (s : State) : State := { s with fab := { s.fab with reqs := [r] } }

/-- A graph section of one SINK node, and the cached placement of it on one core. -/
def aSection : List Byte :=
  toBytes 2 1 ++ toBytes 2 0 ++ List.replicate 28 0 ++ toBytes 1 0 ++ toBytes 1 1 ++ toBytes 6 0 ++ toBytes 8 (0x8e * 2 ^ 56 + 2 ^ 55 + 3 * 2 ^ 34 + 3 * 2 ^ 18)
def placedOnce (s : State) : State :=
  { s with fab := { s.fab with modules := [(0, ⟨0, 0, [(2, aSection)]⟩)], placed := [⟨imageId aSection, 1, 1, [0], 0, 0⟩] } }

theorem witness_SchedulerEventsComplete :
    (let r := aReq 1 1 1 none
     let s := { asked r base with gtsc := 100000 }
     (s.fab.reqs.filter fun r => decide (r.die = 0))[0]? = some r ∧ r.level - r.prio < s.since r.since / (16 * r.quant) ∧ r.level < 3) ∧
    (let s := { pair 0x85 1 id with gtsc := 1000000 }
     let i := invOf s
     s.inv 0 = some i ∧ i.phase = .run ∧ i.cmd = none ∧ i.region.quant ≤ s.since i.region.began ∧ (∀ r ∈ s.fab.reqs, r.die ≠ i.region.die) ∧
     ∃ r ∈ (asked (aReq 1 1 1 none) s).fab.reqs, r.die = i.region.die) ∧
    (let m := { aMsg 0xc8 [0, 0, 0, 0, 1, 1000000, w64 partReset] with imm := 0 }
     let r := aReq 1 1 1 (some m)
     let s := asked r (placedOnce base)
     served s 0 = some r ∧ r.msg = some m ∧ ((grantMsg m r (dropReq s r)).any fun t => decide (t.fab.invs.length = 1)) = true) ∧
    (let r := aReq 24 15 3 none
     let s := asked r (pair 0x85 1 fun i => { i with region := { i.region with expired := true } })
     inOrder s 0 = r :: [] ∧ spotOf s r = none ∧ (∀ e ∈ s.fab.invs, e.2.saver = .scheduler → e.2.region.die ≠ 0) ∧ preemptOrigin s r = some (0, 0) ∧
     firstVictim ((regionsOn s 0).filter fun e => overlap e.2.region 0 0 r.w r.h) = some (0, invOf s)) ∧
    (let r := aReq 1 1 1 none
     let s := asked r (phased 0x85 .out id)
     s.inv 0 = some (invOf s) ∧ served s 0 = some r ∧ r.msg = none ∧ r.iid = 0 ∧ spotOf s r = some (0, 0) ∧ freeSlot s (invOf s).ctxid = some 0) := by
  decide +kernel

/-- Thread 0 waits. -/
def waiting (st : TState) (y : Why) (s : State) : State := s.onTh 0 fun t => { t with st := st, why := y }

theorem witness_TasksAndFiringsComplete :
    (∀ y ∈ [Why.commit (some 1), .irrevocable], let s := waiting .stalled y inTask
      s.tasks = aTask :: [] ∧ aTask.tid = some 0 ∧ s.frozen 0 = false ∧ withdrawnNow s = none ∧ mayCommit s aTask = true ∧ (s.th 0).why = y ∧ (s.th 0).l = 0 ∧ (s.th 0).s = 0) ∧
    (let f : Firing := ⟨0, firingTs 1 1 0, 0x1000, aMsg 0xb9 [], 0, 0⟩
     let b : Basin := ⟨1, 0, 0, .firing, 1, 0, 0, [0], firingTs 1 1 0⟩
     let s := matchBase (wordTo 0xb3) none none .zero
     let t := { s with fab := { s.fab with firings := [f], basin := [(0, b)], nets := [(0, { someNet with fsh := 1 })] } }
     (t.fab.firings.filter fun f => decide (f.ts % 65536 = 0x400 + 0)).find? (fun f => (firingPlace t 0 f).isSome) = some f ∧ Tab.look t.fab.basin f.entry = some b ∧ (t.inv b.net).isSome = true ∧
     t.net b.net = some { someNet with fsh := 1 } ∧ (admitted 0 1).findSome? (haltedThread t) = some 1) ∧
    (let m := aMsg 0xb0 [0, 0, 0, 0, 0, 0, 0, 0]
     let s := (matchBase (wordTo 0xb3) none none .zero).putInbox 0x400 [m]
     s.inbox (basinFor (w64 0)) = m :: [] ∧ m.isDelta = true ∧ m.net = 0 ∧ (applyNow m (s.putInbox (basinFor (w64 0)) [])).isSome = true) ∧
    (let s0 := matchBase (wordTo 0xb3) none none .zero
     let n := { someNet with queue := [plusTok [1]] }
     let s := s0.putNet 0 n
     let i := invOf s
     s.net 0 = some n ∧ s.inv 0 = some i ∧ n.queue = plusTok [1] :: [] ∧ i.phase ≠ .out ∧ i.phase ≠ .drain ∧ (i.ct (n.root / 4)).saved = false ∧
     (i.ct (n.root / 4)).hold = false ∧ (i.ct (n.root / 4)).blocked = false ∧ ((Tab.look i.nodes 0).map Node.op) = some 0xb3 ∧
     (i.slot (n.root / 4) (baseTag 0)).has (n.root % 4) = false) ∧
    (let s := (matchBase (wordTo 0x96) none none .zero).putNet 0 { someNet with queue := [plusTok [1]] }
     let i := invOf s
     someNet.root / 4 = 0 ∧ (Tab.look i.nodes 0).any (fun nd => decide (nd.op = 0x96 ∧ freeSlots i (rootKey 0) (threadCap nd) ≠ 0)) = true) := by decide +kernel

theorem witness_ThreadsWake :
    (∀ y ∈ [Why.watch 0x2000 0 1 0 1 true, .barrier 0x2000 0 1 0 1 true], let s := { waiting .parked y base with gtsc := 5 }
      (s.th 0).st = .parked ∧ s.frozen 0 = false ∧ (s.th 0).why = y ∧ timedOut s 1 0 = true) ∧
    (∀ y ∈ [Why.idle, .name 3, .watch 0x2000 0 1 0 1 false, .barrier 0x2000 0 1 0 1 false],
     let s := (waiting .parked y base).onTh 0 fun t => { t with sys := { t.sys with intmask := 1, intpend := 1 } }
     (s.th 0).why = y ∧ (s.th 0).intReady = true ∧ s.frozen 0 = false) ∧
    (let w : WaitOpen := ⟨aMsg 0xc0 [], [], 1, 0⟩
     let s := { base with gtsc := 5, tab := { base.tab with waits := [w] } }
     s.tab.waits.find? (fun w => decide (w.msg.tid = 0) && timedOut s w.timeout w.start) = some w) ∧
    (let m := aMsg 0x70 []
     let s := waiting .stalled (.inbox 0x420 m) base
     (s.th 0).st = .stalled ∧ (s.th 0).why = .inbox 0x420 m ∧ inboxRoom s 0x420 = true) ∧
    (let m := tileRec 0xa5 0 2 2 1 0 1 0
     let s := waiting .stalled (.ring m) (ringWith [] [] (tileBase 8 8 8 0))
     (s.th 0).why = .ring m ∧ (arriveTask (shardOf 0) m s).isSome = true) ∧
    (let s := waiting .stalled (.barrierTs 1 9 0) base
     (s.th 0).why = .barrierTs 1 9 0 ∧ ∀ t ∈ s.tasks, (9 : W).toNat ≤ t.ts) ∧
    (let s := waiting .stalled (.counter 2) base
     (s.th 0).why = .counter 2 ∧ stallOver s 0 (.counter 2) = true ∧ s.frozen 0 = false) := by decide +kernel

/-! ### The outside -/

theorem witness_QueuePagesComplete : (0 : Nat) < 64 ∧ (Tab.getD base.out.queues 0 Queue.reset).rd = (Tab.getD base.out.queues 0 Queue.reset).wr ∧
    (let s := base.putQueue 0 { Queue.reset with wr := 1, status := 1 }
     (Tab.getD s.out.queues 0 Queue.reset).rd ≠ (Tab.getD s.out.queues 0 Queue.reset).wr ∧ (Tab.getD s.out.queues 0 Queue.reset).status ≠ 0) ∧
    queueOf base 0 3 = some 3 ∧ (3 : Nat) < 255 := by decide +kernel

/-- A ring of 16 entries at 0x2000 that holds one entry: TYPE, then 16 bytes of flags and signal, then the rest. -/
def entryOf (ty : Nat) (rest : List Byte) : List Byte := let b := toBytes 1 ty ++ zeros 15 ++ rest; b ++ zeros (64 - b.length)
def queued (bs : List Byte) : State := { base.putQueue 0 { Queue.reset with base := 0x2000, size := 4, wr := 1, ridxa := 0x3000 } with mem := base.mem.store 0x2000 bs }
def taken (s : State) : State × List Byte := match nextEntry s 0 with
  | .ok r => r
  | .error _ => (s, [])

theorem witness_QueueCommandsComplete :
    (∀ bs ∈ [entryOf 0 [], entryOf 1 (toBytes 8 0x1000 ++ zeros 16 ++ toBytes 1 0), entryOf 2 [], entryOf 3 (toBytes 8 0x4000 ++ toBytes 3 1),
        entryOf 4 (toBytes 8 0x1000), entryOf 5 (toBytes 8 0x1000 ++ toBytes 8 7)],
      queueOn (queued bs) 0 = true ∧ (nextEntry (queued bs) 0).isOk = true ∧ (taken (queued bs)).2 = bs ∧ entryOk bs = true ∧ fenceOk (queued bs) 0 bs = true ∧
      haltedThread (taken (queued bs)).1 0 = some 1 ∧ ((taken (queued bs)).1.queue 0).bufs.length < 4 ∧
      (∀ b ∈ ((taken (queued bs)).1.queue 0).bufs, b.va ≠ 0x4000) ∧
      (readVa (taken (queued bs)).1 (((taken (queued bs)).1.queue 0).who (taken (queued bs)).1) 0x1000 8).isOk = true ∧
      (writeVa (taken (queued bs)).1 (((taken (queued bs)).1.queue 0).who (taken (queued bs)).1) none 0x1000 (toBytes 8 7)).isOk = true) ∧
    (∀ b ∈ [(0, cType (entryOf 0 [])), (1, cType (entryOf 1 [])), (2, cType (entryOf 2 [])), (3, cType (entryOf 3 [])), (4, cType (entryOf 4 [])),
        (5, cType (entryOf 5 []))], b.1 = b.2) ∧ leAt (entryOf 4 (toBytes 8 0x1000)) 24 8 = 0 ∧
    entryOk (entryOf 9 []) = false ∧ (nextEntry (queued (entryOf 9 [])) 0).isOk = true ∧ queueOn (queued (entryOf 9 [])) 0 = true ∧
    (let c : HCmd := { HCmd.start 4 with bytes := entryOf 0 [], finished := true }
     let s := { base with out := { base.out with cmds := [c] } }
     s.out.cmds.find? (fun d => decide (d.id = c.id)) = some c ∧ hostDone s c = true) := by decide +kernel

theorem witness_OutsideAccessesComplete : (0 : Nat) < 17 ∧ 0x1000 + 8 ≤ 64 * gib ∧ (translates base (apertureWho base 0) .read (apertureVa base 0 0x1000) 8).isOk = true ∧
    (writeVa base (apertureWho base 0) none (apertureVa base 0 0x1000) (toBytes 8 7)).isOk = true ∧
    (writeVa base (apertureWho base 0) none (apertureVa base 0 0x100000) (toBytes 8 7)).isOk = false ∧ base.mem.kind 0x1000 = .lp6 ∧
    base.mem.bad 0x1000 = false ∧ base.mem.kind 0x7ffffffffffff ≠ .lp6 ∧ base.mem.kind 0x7ffffffffffff ≠ .pool ∧
    (let e := { aPend .load with pas := [0x8000000000000] }
     let s := base.onTh 0 fun t => { t with pend := [e] }
     (s.th 0).pend[0]? = some e ∧ e.kind.isL = true ∧ e.done = false ∧ ∃ p ∈ e.pas, s.mem.kind p = .host ∨ s.mem.kind p = .peer) := by decide +kernel

/-- The CRC-64 of zeros is zero: a flit of zeros checks. -/
theorem crc_zeros : ∀ n, crc64 (List.replicate n 0#8) = 0#64 := by
  have h : times crc64Bit 8 0#64 = 0#64 := by decide
  have z : ((BitVec.setWidth 64 (0#8)) <<< (56 : Nat)) = 0#64 := by decide
  have g : ∀ n, List.foldl (fun (c : BitVec 64) (b : Byte) => times crc64Bit 8 (c ^^^ ((BitVec.setWidth 64 b) <<< (56 : Nat)))) 0#64 (List.replicate n 0#8) = 0#64 := by
    intro n
    induction n with
    | zero => rfl
    | succ n ih => rw [List.replicate_succ, List.foldl_cons, z, BitVec.xor_zero, h, ih]
  exact g
def aFlit : List Byte := List.replicate 256 0
theorem test_flit_of_zeros_checks : flitGood aFlit = true := by
  have t : aFlit.take 248 = List.replicate 248 0#8 := by decide +kernel
  have f : BitVec.ofNat 64 (flitAt aFlit 248 8) = 0#64 := by decide +kernel
  simp only [flitGood, t, f, crc_zeros]
  decide +kernel

theorem witness_LinkAndStorageEventsComplete : flitGood aFlit = true ∧
    (Tab.getD base.out.ports 0 Port.reset).up = true ∧ flitSeq aFlit = (Tab.getD base.out.ports 0 Port.reset).expect ∧
    flitGood [] = false ∧
    (let x : Port := { Port.reset with replay := [(aFlit, 8)], outq := [⟨3, 0, 1, []⟩] }
     let s := base.putPort 0 x
     (Tab.getD s.out.ports 0 Port.reset).replay = (aFlit, 8) :: [] ∧ ∃ e ∈ (Tab.getD s.out.ports 0 Port.reset).replay, 8 ≤ e.2) ∧
    (let c : Cmd := { Cmd.start 7 srcColl (aMsg 0x73 [0, 2, 0, 0, 4, 0]) with list := [0, 1], desc := some (aDesc 8 0), total := 1 }
     let s := { base with eng := { base.eng with cmds := [c] } }
     s.eng.cmds.find? (fun d => decide (d.id = c.id) && decide (d.msg.op = 0x73) && d.stop.isNone) = some c ∧ c.msg.fn ≠ 4 ∧ 1 < c.members ∧
     1 ∉ c.covered ∧ (zeros 16).length = partBytes c.msg.fn c.members c.elems c.unit) ∧
    (Tab.getD base.out.nvme 0 NvmeQ.reset).cqSize = 0 ∧ (zeros 16).length = 16 ∧
    (let x := Tab.getD (base.putNvme 0 { NvmeQ.reset with tid := some 0, cq := 0x3000, cqSize := 4 }).out.nvme 0 NvmeQ.reset
     x.tid = some 0 ∧ x.cqSize ≠ 0) ∧ correctorOf base.mem 64 ≠ none ∧ correctorOf base.mem 64 ≠ some .wellhead ∧ atomicOn base (64 * 64) = false ∧ correctorOf base.mem (2 ^ 46) = some .wellhead :=
  ⟨test_flit_of_zeros_checks, by decide +kernel⟩

/-- The package at a stage of boot; 272 thermal readings of t tenths of a degree and four rails at their nominal voltages, or one of them at half. -/
def bootAt (b : Boot) : State := base.onWell fun w => { w with boot := b }
def readings (t : Nat) : List Nat := List.replicate 272 t ++ [750, 1050, 900, 3300]
def railOut : List Nat := List.replicate 272 0 ++ [375, 1050, 900, 3300]

theorem witness_BootAndPowerComplete : (bootAt .off).well.boot = .off ∧ (bootAt .waiting).well.boot = .waiting ∧ (bootAt .waiting).well.tripped = false ∧ (bootAt .off).well.tripped = false ∧
    ((bootAt .off).onWell fun w => { w with tripped := true }).well.tripped = true ∧ base.well.boot ≠ .dark ∧ base.mem.kind 0x1000 = .lp6 ∧
    ownMem base 0x1000 = true ∧
    (base.well.boot = .running ∨ base.well.boot = .waiting) ∧ (zeros 64).length ≤ slotSize ∧ base.well.boot ≠ .off ∧ base.well.tripped = false ∧
    (∀ t ∈ [500, 900, 960, 1100], (∀ e ∈ rails.zip ((readings t).drop 272), railBad e.1 e.2 = false) ∧ ((readings t).take 272).foldl max 0 = t) ∧
    750 < base.well.mhz ∧ (base.onWell fun w => { w with mhz := 750 }).well.mhz = 750 ∧ (base.onWell fun w => { w with mhz := 500 }).well.mhz < 750 ∧ (∃ e ∈ rails.zip (railOut.drop 272), railBad e.1 e.2 = true) ∧
    (match exec .reset base with
     | .next _ => true
     | _ => false) = true := by decide +kernel

theorem witness_SecurityEventsComplete : base.firmware = true ∧ (zeros 32).length = 32 ∧
    (let s := base.onWell fun w => { w with endSig := 1024 }
     s.well.nextSig < 2 ^ 40 ∧ s.well.nextSig < s.well.endSig) ∧ base.mailbox = true ∧
    (let s := base.onWell fun w => { w with keys := [(0, ⟨5, zeros 32⟩)] }
     s.mailbox = true ∧ Tab.look s.well.keys 0 = some ⟨5, zeros 32⟩ ∧ (6 : Nat) ≠ 5) ∧
    (let s := { base.onWell fun w => { w with debug := some (3, 0) } with gtsc := 5 }
     s.well.debug = some (3, 0) ∧ 0 < s.gtsc) ∧
    (let s := base.onWell fun w => { w with debug := some (3, 10) }
     3 ≤ debugLevel s ∧ ownMem s 0x1000 = true ∧ ownMem s 0x7ffffffffffff = false ∧
     shardOf 9 ∈ (s.onWell fun w => { w with halted := [shardOf 9] }).well.halted) ∧ debugLevel base < debugNeeds (.readTile 0) ∧
    (0x8000000 : Nat) < 0x10000000 ∧ ¬(0x8004000 ≤ (0x8000000 : Nat) ∧ (0x8000000 : Nat) < 0xc000000) := by decide +kernel

/-! ### The whole machine -/

/-- Does an outcome go on? -/
def goesOn (o : Out) : Bool := match o with
  | .next _ => true
  | _ => false

/-- Thread 0 at a word, its turn next; with the well-formed ADD of R51, and with an FCMP that R61 refuses. -/
def atWord (w : Nat) : State := loadThread .reset w

/-- Nodes 0 and 1 of one cell in slots 0 and 1, ready for tag 0; node 1 is urgent; node 0 has been ready since an earlier cycle. -/
def twoSlots (elder : List (Nat × Nat)) : State :=
  let x : Slot := (Slot.zero.set 0 (plain 7)).set 1 (plain 2)
  let i := someInv [(0, ⟨w64 (3 * 2 ^ 34 + 2 ^ 55 + 3 * 2 ^ 18), [], ⟨0, 0, 0, 0, 0⟩⟩), (1, ⟨w64 (3 * 2 ^ 34 + 2 ^ 55 + 3 * 2 ^ 18 + 2 ^ 15), [], ⟨0, 0, 1, 0, 0⟩⟩)]
    [(0, x), (65536, x)] []
  { base with fab := { base.fab with invs := [(0, i)] }, elder := elder }

theorem witness_StepRunsTheDecodedInstruction :
    (∀ e ∈ [(0x000001830a008000, true), (0x3620008600100000, false)], let s := atWord e.1
      let s0 := { s with agenda := [] }
      let s' := takeIssue 0 s0
      s.agenda = .thread 0 :: [] ∧ nextThread s0 (shardOf 0) = some 0 ∧ (s'.th 0).imp = [] ∧ s'.specul 0 = none ∧
      missBlocked s' (s'.whoOf 0) (s'.th 0).pc.toNat = none ∧
      (match translate s' (s'.whoOf 0) .fetch (s'.th 0).pc.toNat with
       | .ok (s1, x) => let s2 := reachLine s1 x; !s2.mem.bad x.pa && decide ((decodeThread (w64 (s2.mem.word x.pa 8))).isOk = e.2)
       | .error _ => false) = true) ∧
    (∀ e ∈ [([], 1, 0), ([(0, 0)], 0, 1)], let s := { twoSlots e.1 with agenda := [.fire 0 e.2.1 0] }
      let i := invOf s
      let nd := (Tab.look i.nodes e.2.1).getD ⟨0, [], ⟨0, 0, 0, 0, 0⟩⟩
      let f := (decodeNode nd.word).toOption.getD (.doorbell 0 0)
      s.agenda = .fire 0 e.2.1 0 :: [] ∧ s.inv 0 = some i ∧ Tab.look i.nodes e.2.1 = some nd ∧ (i.ct e.2.1).blocked = false ∧
      ({ s with agenda := [] } : State).powered = true ∧ decodeNode nd.word = .ok f ∧
      nodeReady f { s with agenda := [], site := (0, e.2.1, 0) } = true ∧ mayFire { s with agenda := [] } 0 e.2.1 0 = true ∧
      mayFire { s with agenda := [] } 0 e.2.2 0 = false) ∧
    (let s := { pair 0x00 1 id with agenda := [.fire 0 0 0] }
     let f := (decodeNode (wordTo 0x00)).toOption.getD (.doorbell 0 0)
     Tab.look (invOf s).nodes 0 = some ⟨wordTo 0x00, [], ⟨0, 0, 0, 0, 0⟩⟩ ∧ s.inv 0 = some (invOf s) ∧ ((invOf s).ct 0).blocked = false ∧
     decodeNode (wordTo 0x00) = .ok f ∧ nodeReady f { s with agenda := [], site := (0, 0, 0) } = false) ∧
    (chooseSlotOf (twoSlots []) 0 [⟨0, 0, false, 0⟩, ⟨1, 1, true, 0⟩]).isSome = true ∧
    (let s := { base with agenda := [.happen (.doorbell 0 1)] }
     s.agenda = .happen (.doorbell 0 1) :: [] ∧ s.dead = false ∧ (eventTurn (.doorbell 0 1) { s with agenda := [] }).isSome = true) ∧
    (base.agenda = [] ∧ base.dead = false ∧ base.powered = true) := by decide +kernel

/-- With an empty agenda a placed thread issues its word, and then a cycle passes; with no thread a cycle passes (R41; log 1). -/
theorem test_empty_agenda :
    (match step { atWord 0x000001830a008000 with agenda := [] } with
      | .next t => decide ((t.th 0).pc = 8 ∧ t.agenda.getLast? = some (.tick 0 1))
      | _ => false) = true ∧
    (match step State.reset with
      | .next t => decide (t.cycle = 1)
      | _ => false) = true := by decide +kernel

/-- The cell of R40's example at cycle 131: guard slot 3 passes slot 9, which has the older tag; at 132 the urgent slot goes first, and
without one the older tag. -/
theorem test_guard_slot :
    let rs : List Slotted := [⟨3, 3, false, 0x12⟩, ⟨7, 7, true, 0x16⟩, ⟨9, 9, false, 0x11⟩]
    (chooseSlotOf { base with cycle := 131, elder := [(0, 3)] } 0 rs).map Slotted.no = some 3 ∧
    (chooseSlotOf { base with cycle := 132 } 0 rs).map Slotted.no = some 7 ∧
    (chooseSlotOf { base with cycle := 133 } 0 [⟨9, 9, false, 0x11⟩, ⟨12, 12, false, 0x14⟩]).map Slotted.no = some 9 := by decide +kernel

theorem witness_DecodeOfEncode : decodeWord 0x000001830a008000#64 = .ok (.add ⟨0, 0, 3, 3, 5, 0, 0x8000⟩) ∧
    (Instr.add ⟨0, 0, 3, 3, 5, 0, 0x8000⟩).WF ∧ encode (.add ⟨0, 0, 3, 3, 5, 0, 0x8000⟩) = some 0x000001830a008000#64 := by
  unfold Instr.WF; decide +kernel

theorem witness_StepKeepsMemoryCanonical : State.reset.Inv ∧ goesOn (step .reset) = true ∧ (atWord 0x000001830a008000).Inv ∧
    goesOn (step (atWord 0x000001830a008000)) = true := by unfold State.Inv; decide +kernel

theorem witness_RegisterWordsFrame : (∀ c ∈ valueWords, goesOn (exec (c ⟨0, 0, 1, 2, 3, 0, 0⟩) base) = true) ∧
    (∀ c ∈ [Instr.bfx, .bfi, .addi, .movi, .movhi], goesOn (exec (c ⟨0, 0, 1, 2, 0x100⟩) base) = true) ∧
    (∀ c ∈ [Instr.cmp, .fcmp, .plog], goesOn (exec (c ⟨8, 0, 65, 2, 3, 0, 0⟩) base) = true) ∧
    ∀ c ∈ valueWords, goesOn (exec (c ⟨0, 0, 0, 2, 3, 0, 0⟩) base) = true := by decide +kernel

theorem witness_PerformedAccessesFrame : (∀ k ∈ [PKind.store, .load, .atom, .cas, .signal], ((issued k).th 0).pend[0]? = some (aPend k)) ∧
    goesOn (exec (.storeRetire 0 0) (issued .store)) = true ∧ (issued .store).specul 0 = none ∧ mayPerform ((issued .store).th 0).pend 0 = true ∧
    (issued .store).barred 0 = false ∧ 0x1000 % 64 + 8 ≤ 64 ∧ (issued .store).mem.away 0x1000 = false ∧
    (let s := { inTask with threads := (issued .store).threads }
     goesOn (exec (.storeRetire 0 0) s) = true ∧ s.specul 0 ≠ none) ∧
    ∀ k ∈ [PKind.load, .atom, .cas, .signal], goesOn (exec (.loadComplete 0 0) (issued k)) = true := by decide +kernel

theorem witness_MemoryWordsFrame : (∀ c ∈ [Instr.ld, .st, .atom, .cas], goesOn (exec (c ⟨3, 0, 4, 2, 0, 0, 0, 0, 0⟩) base) = true) ∧
    ∀ c ∈ [Instr.ldIndexed, .stIndexed], goesOn (exec (c ⟨3, 0, 1, 2, 0, 0, 0⟩) base) = true := by decide +kernel

theorem witness_DataflowNodesFrame : goesOn (exec (.nodeArithFire 0x00 (getNW (wordTo 0x00))) (twoOps 0x00)) = true ∧
    isDataflow (.steer (getNW (wordTo 0x80))) = true ∧ goesOn (exec (.steer (getNW (wordTo 0x80))) (threeOps 0x80 1)) = true := by decide +kernel

/-- SATN of 0x1000 to signed and unsigned 8 bits; HASH of two registers. -/
theorem witness_SatnClampsAsR94Says : Issues 0 [2, 3] [1] base ∧ needQ [1, 2, 3] base = .ok () ∧ srcV base 2 = .ok 0x1000 ∧
    srcV base 3 = .ok 2 ∧ ([0x1000, 0x7f, 0xff].all fun (v : W) => (putV 1 v (deqAll [2, 3] base)).isOk) = true ∧
    opOf 0x1b0c000000000000#64 = 0x1b ∧ formOf 0x1b0c000000000000#64 = 0 ∧ (0x1b0c000000000000#64).extractLsb' 50 5 = 3 := by
  unfold Issues; decide +kernel

theorem witness_HashIsTheMixOfR95 : Issues 0 [2, 3] [1] base ∧ needQ [1, 2, 3] base = .ok () ∧ srcV base 2 = .ok 0x1000 ∧ srcV base 3 = .ok 2 ∧
    (putV 1 (hash64 0x1000 2) (deqAll [2, 3] base)).isOk = true ∧ hash64 7 0 = hash64 7 0 := by unfold Issues; decide +kernel

/-- Package 3 is reached by two ports that are up; the score table at 0x2000 holds the answer 9 to the scorer's two inputs. -/
theorem witness_HashIsTheMixOfR95_2 :
    (let s := { base with out := { base.out with route := [(3, 5)] } }
     (portsOf (Tab.getD s.out.route 3 0)).filter (fun p => s.portUp p && decide (p ≠ 12)) = [0, 2]) ∧
    (let s0 := matchBase (wordTo 0xb8) (some (plain (w64 (2 ^ 60)))) none .zero
     let c0 := seen s0
     match attrAt s0 c0.i someNet (mWid (c0.val 0) 0) (bits c0.lit 5 2) with
     | .error _ => false
     | .ok (s1, x) => match attrAt s1 c0.i someNet (mWid (c0.val 0) (bits c0.lit 11 10)) (bits c0.lit 9 6) with
       | .error _ => false
       | .ok (_, y) =>
         let gen := (Tab.getD someNet.scorers (bits c0.lit 1 0) ⟨0, [], 0, 0⟩).gen
         let key := (hash64 (w64 (x % 2 ^ 24 * 2 ^ 24 + y % 2 ^ 24)) (w64 gen)).toNat % 2 ^ 56
         let s := { s0 with mem := s0.mem.store (scoreVa someNet (key % someNet.scap)) (toBytes 8 (scoreWord true false key) ++ toBytes 4 9 ++ toBytes 4 gen) }
         let c := seen s
         decide (nodeCtx s = some c) && decide (s.net c.iid = some someNet) && c.has 0 && decide (mKind (c.val 0) = 0) && decide (Tab.look c.st.score c.tag = none) &&
         match attrAt s c.i someNet (mWid (c.val 0) 0) (bits c.lit 5 2) with
         | .error _ => false
         | .ok (s1, x') => match attrAt s1 c.i someNet (mWid (c.val 0) (bits c.lit 11 10)) (bits c.lit 9 6) with
           | .error _ => false
           | .ok (s2, y') => decide (x' = x ∧ y' = y) && match readVa s2 c.i.who (scoreVa someNet (key % someNet.scap)) 16 with
             | .error _ => false
             | .ok (s3, bs) => scoreHit bs key gen && mayGo c s3 (c.i.clearFields c.n c.tag [0]) [only 1 ⟨w64 (leAt bs 8 4), (c.tok 0).tag, resFlg false [c.flg 0], 0⟩]) = true := by
  decide +kernel

theorem witness_PredicateRulesOfR55 : (Instr.add ⟨0, 1, 3, 3, 5, 0, 0x8000⟩).isThread = true ∧
    (encode (.add ⟨0, 1, 3, 3, 5, 0, 0x8000⟩)).any (fun w => !predTrue (w.extractLsb' 46 4) base.me) = true ∧
    (0x3622000000000000#64).extractLsb' 46 4 = 8 ∧ (decodeThread 0x3620008600100000#64).isOk = false := by decide +kernel

/-! ### The spec's own examples, one step each -/

/-- A register of thread 0 after a word. -/
def regAfter (n : Nat) (o : Out) : W := match o with
  | .next t => (t.th 0).rg n
  | _ => 0

/-- SAR.n8 of 0x80 by 1 is 0xc0 (R85). -/
theorem test_sar_n8 : regAfter 1 (exec (.sar ⟨4, 0, 1, 2, 3, 0, 0⟩) (base.onTh 0 fun t => (t.wg 2 0x80).wg 3 1)) = 0xc0 := by decide +kernel

/-- BFX.i16 g4, g5, #4, #8 of 0x0ff0 is −1 (R90). -/
theorem test_bfx_i16 : regAfter 4 (exec (.bfx ⟨1, 0, 4, 5, 0x804⟩) (base.onTh 0 fun t => t.wg 5 0xff0)) = 0xffffffffffffffff := by decide +kernel

/-- Pool offset 0x12_3440 of core (5, 9) on die 2 has window VA 0xffff_ff01_3752_3440 (R142). -/
theorem test_window_va : (windowXl base ⟨2, 0, 0, true, none⟩ .read 0xffffff0137523440).isOk = true ∧
    winBase + (poolPa (coreNo 2 9 5) 0x123440 - poolBase) = 0xffffff0137523440 := by decide +kernel

/-- Rank 1 of cycle 1 on die 0 has ts 0x0000_0001_0001_0400 (R282). -/
theorem test_firing_ts : firingTs 1 1 0 = 0x0000000100010400 := by decide +kernel

/-- MOVI #0x89ab_cdef then MOVHI #0x0123_4567 leaves 0x0123_4567_89ab_cdef (R84): the second word's step. -/
theorem test_movhi : regAfter 4 (exec (.movhi ⟨0, 0, 4, 0, 0x01234567⟩) (base.onTh 0 fun t => t.wg 4 0xffffffff89abcdef)) = 0x0123456789abcdef := by
  decide +kernel

/-- ADDI.i8 g3, g3, #0x100 leaves the low byte of g3 unchanged (R93). -/
theorem test_addi_i8 : regAfter 3 (exec (.addi ⟨0, 0, 3, 3, 0x100⟩) (base.onTh 0 fun t => t.wg 3 0x7e)) = 0x7e := by decide +kernel

/-- TRAP 5 at pc 0: xpc is the word's own pc, xval is 5, and the thread no longer runs (R328, R340). -/
theorem test_trap : (match exec (.trap ⟨0, 0, 0, 0, 5⟩) base with
    | .next t => ((t.th 0).sys.xpc, fld (t.th 0).sys.xval 31 0, decide ((t.th 0).st = .runnable))
    | _ => (1, 0, true)) = (0, 5, false) := by decide +kernel

end Sys2Proof.Tests
end

section
/-! PROOFS. Reset, boot, firmware update, sensors and power removal (spec 19_wellhead R361 to R365; R10, R12). -/
open Sys2Proof Sys2Proof.Machine

namespace Sys2Proof.Machine

/-! ### Filtered tables -/

/-- A filter that keeps every entry of a key leaves what the table holds there. -/
theorem Tab.look_filter_kept {α : Type} (t : Tab α) {p : Nat × α → Bool} {k : Nat} (h : ∀ v, p (k, v) = true) :
    Tab.look (t.filter p) k = Tab.look t k := by
  induction t with
  | nil => rfl
  | cons e t ih =>
    by_cases hk : k = e.1
    · subst hk
      simp [List.filter_cons_of_pos (h e.2), Tab.look]
    · by_cases hp : p e = true <;> simp [hp, Tab.look, hk, ih]

/-- A filter that drops every entry of a key leaves that key unlisted. -/
theorem Tab.look_filter_dropped {α : Type} (t : Tab α) {p : Nat × α → Bool} {k : Nat} (h : ∀ v, p (k, v) = false) :
    Tab.look (t.filter p) k = none := by
  induction t with
  | nil => rfl
  | cons e t ih =>
    by_cases hp : p e = true
    · have hk : k ≠ e.1 := by
        rintro rfl
        exact absurd hp (by simp [h e.2])
      simpa [hp, Tab.look, hk] using ih
    · simpa [hp] using ih

theorem Tab.getD_filter_kept {α : Type} (t : Tab α) {p : Nat × α → Bool} {k : Nat} (d : α) (h : ∀ v, p (k, v) = true) :
    Tab.getD (t.filter p) k d = Tab.getD t k d := by
  rw [Tab.getD, Tab.look_filter_kept t h, Tab.getD]

theorem Tab.getD_filter_dropped {α : Type} (t : Tab α) {p : Nat × α → Bool} {k : Nat} (d : α) (h : ∀ v, p (k, v) = false) :
    Tab.getD (t.filter p) k d = d := by
  rw [Tab.getD, Tab.look_filter_dropped t h, Option.getD_none]

/-! ### What a reset and a loss of VCORE leave of memory -/

theorem ownMem_iff (s : State) (pa : Nat) : ownMem s pa = true ↔ s.mem.kind pa = .lp6 ∨ inPool pa = true := by
  simp [ownMem, kind_pool]

theorem lt_of_kind_lp6 {m : Mem} {pa : Nat} (h : m.kind pa = .lp6) : pa < 768 * gib := by
  by_contra hlt
  by_cases hp : inPool pa = true
  · simp [(kind_pool m pa).mpr hp] at h
  · unfold Mem.kind at h
    rw [if_neg hlt, if_neg hp] at h
    split at h
    · cases h
    · split at h <;> cases h

theorem not_inPool_of_kind_lp6 {m : Mem} {pa : Nat} (h : m.kind pa = .lp6) : inPool pa = false := by
  rw [← Bool.not_eq_true, ← kind_pool m, h]
  simp

theorem key_of_kind_lp6 {m : Mem} (m' : Mem) {pa : Nat} (h : m.kind pa = .lp6) : m'.key pa = pa :=
  key_outside m' (not_inPool_of_kind_lp6 h)

theorem outsideAt_eq_false {m : Mem} {pa : Nat} (host : m.kind pa ≠ .host) (peer : m.kind pa ≠ .peer) (lt : pa < 2 ^ 64) :
    outsideAt m pa = false := by
  simpa [outsideAt, host, peer] using lt

theorem outsideAt_of_kind_lp6 {m : Mem} {pa : Nat} (h : m.kind pa = .lp6) : outsideAt m pa = false := by
  have lt := lt_of_kind_lp6 h
  unfold gib at lt
  exact outsideAt_eq_false (by simp [h]) (by simp [h]) (by omega)

theorem outsideAt_of_inPool (m : Mem) {pa : Nat} (h : inPool pa = true) : outsideAt m pa = false := by
  have kind := (kind_pool m pa).mpr h
  obtain ⟨-, lt, -⟩ := (inPool_iff pa).mp h
  unfold poolBase gib at lt
  exact outsideAt_eq_false (by simp [kind]) (by simp [kind]) (by omega)

/-- Every byte of the package's own memory, LP6 or pool, reads 0 once memory is cleared (log 3). -/
theorem rd_clearMem {s : State} {pa : Nat} (h : ownMem s pa = true) : (clearMem s.mem).rd pa = 0 := by
  have inside : outsideAt s.mem ((clearMem s.mem).key pa) = false := by
    rcases (ownMem_iff s pa).mp h with lp6 | pool
    · rw [key_of_kind_lp6 _ lp6]
      exact outsideAt_of_kind_lp6 lp6
    · exact outsideAt_of_inPool _ (key_inside (clearMem s.mem) pool).1
  exact Tab.getD_filter_dropped s.mem.bytes unlisted fun _ => inside

/-- LP6 memory, fed by VMEM, keeps what it holds (R10, log 82). -/
theorem rd_clearDies_lp6 {s : State} {pa : Nat} (h : s.mem.kind pa = .lp6) : (clearDies s).mem.rd pa = s.mem.rd pa := by
  unfold Mem.rd
  rw [key_of_kind_lp6 _ h, key_of_kind_lp6 _ h]
  exact Tab.getD_filter_kept s.mem.bytes unlisted fun _ => by simp [h]

/-! ### The stages of boot write the Wellhead and `fresh` alone -/

/-- What a measurement does outside the Wellhead: it draws four free values (log 2). -/
def drawFour (s : State) : State := { s with fresh := s.fresh + 4 }

theorem measure_apart (n : Nat) (s : State) (w : Wellhead) :
    (measure n s).onWell (fun _ => w) = drawFour (s.onWell fun _ => w) := rfl

/-- Of two updates of the Wellhead, one that replaces it whole hides the one before. -/
theorem onWell_replaced (s : State) (f : Wellhead → Wellhead) (w : Wellhead) :
    (s.onWell f).onWell (fun _ => w) = s.onWell fun _ => w := rfl

theorem reportGroups_apart (s : State) (w : Wellhead) : (reportGroups s).onWell (fun _ => w) = s.onWell fun _ => w := rfl

/-- What no event of the log changes, logging the channels that failed training does not change (R151). -/
theorem logChannels_same {γ : Type} (g : State → γ) (h : ∀ s code v, g (s.logEvent code v) = g s) (s : State) :
    g (logChannels s) = g s := by
  refine foldl_same g (fun s c => ?_) _ s
  split
  · rfl
  · exact h s 0x04 c

theorem logChannels_apart (s : State) (w : Wellhead) : (logChannels s).onWell (fun _ => w) = s.onWell fun _ => w :=
  logChannels_same (fun s => s.onWell fun _ => w) (fun _ _ _ => rfl) s

@[simp] theorem logChannels_mem (s : State) : (logChannels s).mem = s.mem := logChannels_same State.mem (fun _ _ _ => rfl) s

@[simp] theorem logChannels_boot (s : State) : (logChannels s).well.boot = s.well.boot :=
  logChannels_same (fun s => s.well.boot) (fun _ _ _ => rfl) s

@[simp] theorem reportGroups_boot (s : State) : (reportGroups s).well.boot = s.well.boot := rfl
@[simp] theorem reportGroups_groups (s : State) : (reportGroups s).well.groups = (upto 0 32).map s.mem.trained := rfl
@[simp] theorem measure_mem (n : Nat) (s : State) : (measure n s).mem = s.mem := rfl
@[simp] theorem measure_boot (n : Nat) (s : State) : (measure n s).well.boot = s.well.boot := rfl
@[simp] theorem measure_groups (n : Nat) (s : State) : (measure n s).well.groups = s.well.groups := rfl

/-! ### The stages that start the dies (R363) -/

/-- Apart from the Wellhead, starting the dies is clearing them, three measurements and the log of the channels. -/
theorem startDies_apart (s : State) :
    (startDies s).onWell (fun _ => s.well) = (measure 3 (measure 2 (logChannels (measure 1 (clearDies s))))).onWell fun _ => s.well := by
  simp only [startDies, measure_apart, reportGroups_apart, logChannels_apart, onWell_replaced]

theorem startDies_boot (s : State) : (startDies s).well.boot = .waiting := by
  simp only [startDies, measure_boot, reportGroups_boot, logChannels_boot, State.onWell]

theorem startDies_groups (s : State) : (startDies s).well.groups = (upto 0 32).map s.mem.trained := by
  simp only [startDies, measure_groups, reportGroups_groups, logChannels_mem, measure_mem]
  rfl

theorem execPowerOnBoot_off {s : State} (off : s.well.boot = .off) (free : s.well.tripped = false) :
    execPowerOnBoot s = .next (bootFrom s) := by
  unfold execPowerOnBoot
  rw [off, free]
  rfl

theorem execPowerOnBoot_held {s : State} (off : s.well.boot = .off) (trip : s.well.tripped = true) : execPowerOnBoot s = .next s := by
  unfold execPowerOnBoot
  rw [off, trip]
  rfl

theorem execPowerOnBoot_dark {s : State} (dark : s.well.boot = .dark) : execPowerOnBoot s = .next (startDies s) := by
  unfold execPowerOnBoot
  rw [dark]

/-! ### Kernel image and firmware update (R363, R364) -/

/-- A package that waits for its kernel, and no trip holds, takes an image by its signature alone. -/
theorem execKernelImageLoad_waiting (image : List Byte) {s : State} (boot : s.well.boot = .waiting) (free : s.well.tripped = false) :
    let rbi := slotRbi s.well s.well.slot
    let s1 := (measure 4 s).onWell fun w => { w with boot := .running }
    execKernelImageLoad image s = .next (if signedBy image (slotKey s.well s.well.slot) = true then
      (if s1.well.fuses < rbi then (s1.onWell fun w => { w with fuses := rbi }).logEvent 0x08 rbi else s1) else logBadImage s) := by
  unfold execKernelImageLoad
  rw [if_neg (by simp [boot, free])]
  cases signed : signedBy image (slotKey s.well s.well.slot) <;> rfl

/-- Outside ROM recovery an image that fits goes into the inactive slot. -/
theorem execPldmFirmwareUpdate_booted {image : List Byte} {s : State} (boot : s.well.boot = .running ∨ s.well.boot = .waiting)
    (fits : image.length ≤ slotSize) :
    execPldmFirmwareUpdate image s =
      .next (s.onWell fun w => flipMarker (1 - s.well.slot) (flashWr ((1 - s.well.slot) * slotSize) image w)) := by
  have on : s.well.boot ≠ .off := by rcases boot with h | h <;> simp [h]
  have booted : s.well.boot ≠ .recovery := by rcases boot with h | h <;> simp [h]
  unfold execPldmFirmwareUpdate
  rw [if_neg (by simp [on, fits])]
  simp only [if_neg booted]

/-! ### Sensor samples (R365) -/

/-- The highest of the 272 temperatures of a sample, in 0.1 °C (log 44). -/
def hottest (samples : List Nat) : Nat := (samples.take 272).foldl max 0

section
variable {s : State} {samples : List Nat} (on : s.well.boot ≠ .off) (lit : s.well.boot ≠ .dark) (free : s.well.tripped = false)
include on lit free

/-- A reading of 110 °C or a rail outside its range trips: the dies and the Wellhead at reset, the cause in the log, the hold of the trip. -/
theorem execSensorSample_trips (trip : 1100 ≤ hottest samples ∨ ∃ e ∈ rails.zip (samples.drop 272), railBad e.1 e.2 = true) :
    let c := tripCause samples (hottest samples)
    execSensorSample samples s = .next ((logOpen 0x02 c.1 c.2 (resetDies s)).onWell fun w => { resetWell w.boot w with tripped := true }) := by
  unfold execSensorSample
  rw [if_neg (by simp [on, lit, free])]
  exact if_pos (by simpa [hottest] using trip)

/-- With every rail in its range and less than 110 °C, the sample only sets the clock. -/
theorem execSensorSample_clock (cool : hottest samples < 1100)
    (good : ∀ e ∈ rails.zip (samples.drop 272), railBad e.1 e.2 = false) :
    execSensorSample samples s =
      if 950 ≤ hottest samples then
        .next (if max 750 (s.well.mhz - 250) = s.well.mhz then s
          else (s.onWell fun w => { w with mhz := max 750 (s.well.mhz - 250) }).logEvent 0x01 (max 750 (s.well.mhz - 250)))
      else if 900 ≤ hottest samples then .next s
      else .next (s.onWell fun w => { w with mhz := min 3000 (w.mhz + 250) }) := by
  have steady : (rails.zip (samples.drop 272)).any (fun e => railBad e.1 e.2) = false := by
    simpa using good
  unfold execSensorSample
  rw [if_neg (by simp [on, lit, free])]
  exact if_neg (by simpa [steady, hottest] using cool)

theorem execSensorSample_cool (good : ∀ e ∈ rails.zip (samples.drop 272), railBad e.1 e.2 = false)
    (cool : hottest samples < 900) :
    execSensorSample samples s = .next (s.onWell fun w => { w with mhz := min 3000 (w.mhz + 250) }) := by
  rw [execSensorSample_clock on lit free (by omega) good, if_neg (by omega), if_neg (by omega)]

theorem execSensorSample_steady (good : ∀ e ∈ rails.zip (samples.drop 272), railBad e.1 e.2 = false)
    (warm : 900 ≤ hottest samples) (below : hottest samples < 950) :
    execSensorSample samples s = .next s := by
  rw [execSensorSample_clock on lit free (by omega) good, if_neg (by omega), if_pos warm]

theorem execSensorSample_hot (good : ∀ e ∈ rails.zip (samples.drop 272), railBad e.1 e.2 = false)
    (hot : 950 ≤ hottest samples) (below : hottest samples < 1100) :
    execSensorSample samples s = .next (if max 750 (s.well.mhz - 250) = s.well.mhz then s
      else (s.onWell fun w => { w with mhz := max 750 (s.well.mhz - 250) }).logEvent 0x01 (max 750 (s.well.mhz - 250))) := by
  rw [execSensorSample_clock on lit free below good, if_pos hot]

end

/-! ### The obligation -/

/-- Settles O46: what RESET, boot, update, samples and the loss of a rail leave, each clause by the lemma above about its own instruction. -/
theorem bootAndPowerComplete : Obligations.BootAndPowerComplete := by
  unfold Obligations.BootAndPowerComplete
  intro s
  refine ⟨rfl, ?reset, ?boot, ?held, ?again, ⟨startDies_apart s, startDies_boot s, startDies_groups s⟩, ?kernel, ?update, rfl,
    fun pa => rd_clearDies_lp6, rfl, ?samples⟩
  case reset =>
    rintro t ⟨⟩
    exact ⟨fun pa own => rd_clearMem own, rfl, rfl⟩
  case boot =>
    intro off free
    rw [exec_powerOnBoot, execPowerOnBoot_off off free]
    rfl
  case held =>
    intro off trip
    rw [exec_powerOnBoot, execPowerOnBoot_held off trip]
  case again =>
    intro dark
    rw [exec_powerOnBoot, execPowerOnBoot_dark dark]
  case kernel =>
    exact fun image boot free => execKernelImageLoad_waiting image boot free
  case update =>
    exact fun image boot fits => execPldmFirmwareUpdate_booted boot fits
  case samples =>
    intro samples on lit free hot c slow
    refine ⟨execSensorSample_trips on lit free, fun good => ⟨execSensorSample_cool on lit free good,
      execSensorSample_steady on lit free good, fun h950 h1100 => ?_⟩⟩
    have step := execSensorSample_hot on lit free good h950 h1100
    rw [exec_sensorSample, step]
    refine ⟨fun above => ?_, fun lowest => ?_, fun below => ?_⟩
    · rw [if_neg (by omega)]
      rfl
    · rw [if_pos (by omega)]
    · have clamp : max 750 (s.well.mhz - 250) = 750 := by omega
      rw [clamp, if_neg (by omega)]
      rfl

end Sys2Proof.Machine
end

section
/-! PROOFS. Graph commands at issue (spec 12_nodes R236, R238 to R241, R244, R386). -/
open Sys2Proof Sys2Proof.Machine

namespace Sys2Proof.Machine

/-! ### What a graph command waits for -/

/-- Outside an unfinished task no word waits for its task to become irrevocable (R175). -/
theorem needIrrev_ok {s : State} (outside : s.specul s.cur = none) : needIrrev s = .ok () := by
  rw [needIrrev, outside]

/-- Under 63 the counter C has room (R314). -/
theorem needRoom_c_ok {s : State} (room : s.me.c < 63) : needRoom 2 s = .ok () :=
  if_neg (Nat.not_le.mpr room)

theorem graphClear_ok {s : State} (outside : s.specul s.cur = none) (room : s.me.c < 63) : graphClear s = .ok () := by
  rw [graphClear, needIrrev_ok outside]
  exact needRoom_c_ok room

/-! ### The bodies -/

/-- A step of a body that succeeds hands its result to the rest of the body. -/
theorem bind_of_ok {α β : Type} {m : Except Stop α} {a : α} (h : m = .ok a) (rest : α → Except Stop β) : m >>= rest = rest a := by
  rw [h]
  rfl

section
variable {x : TX} {s s1 : State} {bs : List Byte} (clear : graphClear s = .ok ())
include clear

/-- GLAUNCH: of A = g0 the default header with no read of memory, else the 32 bytes at A (R238). -/
theorem execGlaunch_sends (issues : Issues x.pg [x.a] [x.b] s) (rel : needRel s = .ok ())
    (header : if x.a = 0 then s1 = s ∧ bs = toBytes 32 0xffffff else readAtIssue (s.me.rg x.a.toNat).toNat 32 s = .ok (s1, bs)) :
    let bound := boundIn ((sectionOf s s.me.modul x.imm.toNat).map Prod.snd)
    let m := { msgOf 0xc8 x s with
      opnd := wordsOf bs ++ threadTerms s.me, hv := qTaken s.me bound, hreg := b2n (decide (x.a = 0)) }
    let die := fld ((wordsOf bs).headD 0) 7 0
    execGlaunch x s = .next (sentTo (srcHard (if die < 4 then die else dieOf s.cur)) m (bindImage m bound s1)) := by
  refine issueJump_ok issues ((bind_of_ok clear _).trans ((bind_of_ok rel _).trans ?_))
  by_cases g0 : x.a = 0
  · obtain ⟨rfl, rfl⟩ := (if_pos g0).mp header
    exact if_pos g0
  · exact (if_neg g0).trans (bind_of_ok ((if_neg g0).mp header) _)

theorem execGlaunchDelta_sends (issues : Issues x.pg [x.a] [x.b] s) (rel : needRel s = .ok ())
    (header : readAtIssue (s.me.rg x.a.toNat).toNat 32 s = .ok (s1, bs)) :
    execGlaunchDelta x s =
      .next (sentTo (srcHard (dieOfWord ((wordsOf bs).getD 1 0))) { msgOf 0xc8 x s with opnd := wordsOf bs } s1) :=
  issueJump_ok issues ((bind_of_ok clear _).trans ((bind_of_ok rel _).trans (bind_of_ok header _)))

/-- The save area of GSTOP and GSNAP is checked for write, but for a GSTOP whose A is g0, which discards (R239). -/
theorem saveIssue_sends {op : Nat}
    (area : if (decide (op = 0xc9) && decide (x.a = 0)) = true then s1 = s
      else ∃ pas, xlates .write (s.me.rg x.a.toNat).toNat 64 s = .ok (s1, pas)) :
    saveIssue op x s = .ok (sentTo (srcHard (dieOfWord (s.me.rg x.b.toNat)))
      { msgOf op x s with fn := b2n (decide (op = 0xc9) && decide (x.a = 0)) } s1) := by
  refine (bind_of_ok clear _).trans ?_
  by_cases discard : (decide (op = 0xc9) && decide (x.a = 0)) = true
  · obtain rfl := (if_pos discard).mp area
    exact if_pos discard
  · obtain ⟨pas, written⟩ := (if_neg discard).mp area
    exact (if_neg discard).trans (bind_of_ok written _)

theorem queryIssue_sends {pas : List Nat} (buffer : xlates .write (s.me.rg x.a.toNat).toNat 64 s = .ok (s1, pas)) :
    queryIssue x s = .ok (sentTo (srcHard (dieOfWord (s.me.rg x.b.toNat))) (msgOf 0xce x s) s1) :=
  (bind_of_ok clear _).trans (bind_of_ok buffer _)

theorem execGstop_sends (issues : Issues x.pg [x.a, x.b] [x.b] s)
    (area : x.a = 0 ∧ s1 = s ∨ x.a ≠ 0 ∧ ∃ pas, xlates .write (s.me.rg x.a.toNat).toNat 64 s = .ok (s1, pas)) :
    execGstop x s =
      .next (sentTo (srcHard (dieOfWord (s.me.rg x.b.toNat))) { msgOf 0xc9 x s with fn := b2n (decide (x.a = 0)) } s1) := by
  refine issueJump_ok issues (saveIssue_sends clear ?_)
  rcases area with ⟨g0, same⟩ | ⟨named, written⟩
  · rwa [if_pos (by simp [g0])]
  · rwa [if_neg (by simpa using named)]

theorem execGsnap_sends {pas : List Nat} (issues : Issues x.pg [x.a, x.b] [x.b] s)
    (area : xlates .write (s.me.rg x.a.toNat).toNat 64 s = .ok (s1, pas)) :
    execGsnap x s = .next (sentTo (srcHard (dieOfWord (s.me.rg x.b.toNat))) { msgOf 0xca x s with fn := 0 } s1) :=
  issueJump_ok issues (saveIssue_sends clear ⟨pas, area⟩)

/-- The four forms of GQUERY issue alike; the message's CLASS tells them apart (R241). -/
theorem execGquery_sends {pas : List Nat} (issues : Issues x.pg [x.a, x.b] [x.b] s)
    (buffer : xlates .write (s.me.rg x.a.toNat).toNat 64 s = .ok (s1, pas)) :
    let sent : Out := .next (sentTo (srcHard (dieOfWord (s.me.rg x.b.toNat))) (msgOf 0xce x s) s1)
    execGqueryStatus x s = sent ∧ execGquerySize x s = sent ∧ execGquerySpoil x s = sent ∧ execGqueryDump x s = sent := by
  have sends := issueJump_ok issues (queryIssue_sends clear buffer)
  exact ⟨sends, sends, sends, sends⟩

theorem execGrest_sends (issues : Issues x.pg [x.a, x.b] [x.b] s)
    (header : readAtIssue (s.me.rg x.a.toNat).toNat 64 s = .ok (s1, bs)) :
    let bound := match sectionById s ((bs.drop 8).take 16) with
      | some (_, kind, sec) => if kind = 3 then [] else boundIn (some sec)
      | none => []
    let m := { msgOf 0xcb x s with opnd := wordsOf bs ++ threadTerms s.me, hv := qTaken s.me bound }
    execGrest x s = .next (sentTo (srcHard (dieOfWord (s.me.rg x.b.toNat))) m (bindImage m bound s1)) :=
  issueJump_ok issues ((bind_of_ok clear _).trans (bind_of_ok header _))

theorem execGbank_sends (issues : Issues x.pg [x.a, x.b] [x.b] s) :
    execGbank x s = .next (sentTo (srcHard (dieOfWord (s.me.rg x.b.toNat))) (msgOf 0xcc x s) s) :=
  issueJump_ok issues (bind_of_ok clear _)

theorem execGpart_sends (issues : Issues x.pg [x.a, x.b] [x.b] s) :
    execGpart x s = .next (sentTo (srcHard (dieOfWord (s.me.rg x.b.toNat))) (msgOf 0xcd x s) s) :=
  issueJump_ok issues (bind_of_ok clear _)

theorem execFreshet_sends (issues : Issues x.pg [x.a, x.b] [x.b] s)
    (header : readAtIssue (s.me.rg x.a.toNat).toNat 16 s = .ok (s1, bs)) :
    execFreshet x s =
      .next (sentTo (srcHard (dieOfWord (s.me.rg x.b.toNat))) { msgOf 0xcf x s with opnd := wordsOf bs } s1) :=
  issueJump_ok issues ((bind_of_ok clear _).trans (bind_of_ok header _))

end

/-! ### The obligation -/

/-- Settles O20: outside a task and with room in C each body runs to its end, which sends the message, by the lemma above about its command. -/
theorem graphCommandsAreSent : Obligations.GraphCommandsAreSent := by
  unfold Obligations.GraphCommandsAreSent
  intro x s s1 bs outside room m a hard terms
  have clear := graphClear_ok outside room
  refine ⟨fun issues => ⟨?launch, ?delta⟩, fun issues => ⟨?stop, fun pas written => ⟨?snap, ?query⟩,
    ?rest, ?bank, ?part, ?wave⟩⟩
  case launch => exact fun header rel => execGlaunch_sends clear issues rel header
  case delta => exact fun header rel => execGlaunchDelta_sends clear issues rel header
  case stop => exact fun area => execGstop_sends clear issues area
  case snap => exact execGsnap_sends clear issues written
  case query => exact execGquery_sends clear issues written
  case rest => exact fun header => execGrest_sends clear issues header
  case bank => exact execGbank_sends clear issues
  case part => exact execGpart_sends clear issues
  case wave => exact fun header => execFreshet_sends clear issues header

end Sys2Proof.Machine
end

section
/-! PROOFS. The frame of a dataflow firing (spec 12_nodes R220, R222 to R224). -/
open Sys2Proof Sys2Proof.Machine

namespace Sys2Proof.Machine

/-! ### What one firing may change -/

/-- Nothing differs of memory, threads, tables, tasks, engines, the outside and the Wellhead, and of invocations one at most. -/
def OwnInvocation (iid : Nat) (s t : State) : Prop :=
  t.mem = s.mem ∧ t.threads = s.threads ∧ t.tab = s.tab ∧ t.tasks = s.tasks ∧ t.eng = s.eng ∧ t.out = s.out ∧ t.well = s.well ∧
  ∀ other, other ≠ iid → t.inv other = s.inv other

/-- A firing that answers a state changes its own invocation alone. -/
def OwnOnly (c : Ctx) (o : Option State) : Prop := ∀ t, o = some t → OwnInvocation c.iid c.s t

theorem ownInvocation_putInv (s : State) (iid : Nat) (i : Inv) : OwnInvocation iid s (s.putInv iid i) :=
  ⟨rfl, rfl, rfl, rfl, rfl, rfl, rfl, fun _ h => Tab.look_put_ne _ _ h⟩

theorem ownInvocation_bump {iid : Nat} {s t : State} (h : OwnInvocation iid s t) (core k n : Nat) :
    OwnInvocation iid s (bump t core k n) := h

theorem ownOnly_none (c : Ctx) : OwnOnly c none := fun _ h => by cases h

theorem ownOnly_ite {c : Ctx} {p : Prop} [Decidable p] {a b : Option State} (ha : OwnOnly c a) (hb : OwnOnly c b) :
    OwnOnly c (if p then a else b) := by
  split
  · exact ha
  · exact hb

theorem ownOnly_done (c : Ctx) (i : Inv) (outs : List Emit) : OwnOnly c (c.done c.s i outs) := by
  unfold Ctx.done
  refine ownOnly_ite ?_ (ownOnly_none c)
  rintro t ⟨⟩
  have put := ownInvocation_putInv c.s c.iid { outs.foldl (sendOne c.n c.nd) i with active := c.s.cycle, raised := false, fired := c.s.gtsc }
  split
  · exact ownInvocation_bump put _ _ _
  · split
    · exact ownInvocation_bump put _ _ _
    · exact put

theorem ownOnly_pass (c : Ctx) (fs : List Nat) (outs : List Emit) : OwnOnly c (c.pass fs outs) := ownOnly_done c _ outs

theorem ownOnly_passSt (c : Ctx) (fs : List Nat) (f : NodeSt → NodeSt) (outs : List Emit) : OwnOnly c (c.passSt fs f outs) :=
  ownOnly_done c _ outs

/-! ### Each dataflow node is such a firing -/

/-- A word whose outcome is a firing of its own invocation alone. -/
def FiresOwn (s : State) (o : Out) : Prop := ∃ f, o = fire s f ∧ ∀ c, OwnOnly c (f c)

theorem firesOwn_fire {s : State} {f : Ctx → Option State} (h : ∀ c, OwnOnly c (f c)) : FiresOwn s (fire s f) := ⟨f, rfl, h⟩

/-- Most nodes ask for their operands, and then consume and send. -/
theorem firesOwn_pass {s : State} {p : Ctx → Bool} {fs : Ctx → List Nat} {outs : Ctx → List Emit} :
    FiresOwn s (fire s fun c => if p c then c.pass (fs c) (outs c) else none) :=
  firesOwn_fire fun c => ownOnly_ite (ownOnly_pass c _ _) (ownOnly_none c)

theorem execNodeArithFire_own (op : BitVec 8) (w : NW) (s : State) : FiresOwn s (execNodeArithFire op w s) :=
  firesOwn_fire fun c => ownOnly_ite (ownOnly_none c) (ownOnly_pass c _ _)

theorem execSteer_own (w : NW) (s : State) : FiresOwn s (execSteer w s) := firesOwn_pass
theorem execMerge_own (w : NW) (s : State) : FiresOwn s (execMerge w s) := firesOwn_pass
theorem execGate_own (w : NW) (s : State) : FiresOwn s (execGate w s) := firesOwn_pass
theorem execSink_own (w : NW) (s : State) : FiresOwn s (execSink w s) := firesOwn_pass
theorem execTagset_own (w : NW) (s : State) : FiresOwn s (execTagset w s) := firesOwn_pass
theorem execTagget_own (w : NW) (s : State) : FiresOwn s (execTagget w s) := firesOwn_pass
theorem execRoute_own (w : NW) (s : State) : FiresOwn s (execRoute w s) := firesOwn_pass
theorem execBound_own (w : NW) (s : State) : FiresOwn s (execBound w s) := firesOwn_pass
theorem execLut6_own (w : NW) (s : State) : FiresOwn s (execLut6 w s) := firesOwn_pass

theorem execFcomp_own (w : NW) (s : State) : FiresOwn s (execFcomp w s) :=
  firesOwn_fire fun c => ownOnly_ite (ownOnly_ite (ownOnly_passSt c _ _ _) (ownOnly_pass c _ _)) (ownOnly_none c)

theorem execRepeat_own (w : NW) (s : State) : FiresOwn s (execRepeat w s) :=
  firesOwn_fire fun c => ownOnly_ite (ownOnly_none c)
    (ownOnly_ite (ownOnly_pass c _ _) (ownOnly_ite (ownOnly_passSt c _ _ _) (ownOnly_passSt c _ _ _)))

theorem execDelay_own (w : NW) (s : State) : FiresOwn s (execDelay w s) := by
  refine firesOwn_fire fun c => ownOnly_ite ?flushing (ownOnly_ite ?pushing (ownOnly_none c))
  case flushing => split <;> exact ownOnly_passSt c _ _ _
  case pushing =>
    dsimp only
    split
    · exact ownOnly_ite (ownOnly_passSt c _ _ _) (ownOnly_passSt c _ _ _)
    · exact ownOnly_none c

theorem execAccum_own (w : NW) (s : State) : FiresOwn s (execAccum w s) :=
  firesOwn_fire fun c => ownOnly_ite (ownOnly_ite (ownOnly_passSt c _ _ _) (ownOnly_passSt c _ _ _)) (ownOnly_none c)

theorem execGen_own (w : NW) (s : State) : FiresOwn s (execGen w s) :=
  firesOwn_fire fun c => ownOnly_ite (ownOnly_none c) (ownOnly_passSt c _ _ _)

theorem execGenTrig_own (w : NW) (s : State) : FiresOwn s (execGenTrig w s) :=
  firesOwn_fire fun c => ownOnly_ite (ownOnly_passSt c _ _ _) (ownOnly_none c)

theorem execSrc_own (w : NW) (s : State) : FiresOwn s (execSrc w s) :=
  firesOwn_fire fun c => ownOnly_ite (ownOnly_none c) (ownOnly_passSt c _ _ _)

theorem execMerge2_own (w : NW) (s : State) : FiresOwn s (execMerge2 w s) := by
  refine firesOwn_fire fun c => ?_
  split
  · exact ownOnly_pass c _ _
  · refine ownOnly_ite ?_ (ownOnly_none c)
    split <;> exact ownOnly_pass c _ _

theorem execFsm_own (w : NW) (s : State) : FiresOwn s (execFsm w s) :=
  firesOwn_fire fun c => ownOnly_ite (ownOnly_passSt c _ _ _) (ownOnly_none c)

theorem execTopk_own (w : NW) (s : State) : FiresOwn s (execTopk w s) := by
  refine firesOwn_fire fun c => ownOnly_ite ?flushing (ownOnly_ite ?gathering (ownOnly_none c))
  case flushing => split <;> exact ownOnly_passSt c _ _ _
  case gathering => exact ownOnly_ite (ownOnly_passSt c _ _ _) (ownOnly_passSt c _ _ _)

theorem exec_dataflow_own {i : Instr} (h : isDataflow i = true) (s : State) : FiresOwn s (exec i s) := by
  unfold isDataflow at h
  split at h
  case h_1 w => exact execSteer_own w s
  case h_2 w => exact execMerge_own w s
  case h_3 w => exact execGate_own w s
  case h_4 w => exact execFcomp_own w s
  case h_5 w => exact execRepeat_own w s
  case h_6 w => exact execDelay_own w s
  case h_7 w => exact execAccum_own w s
  case h_8 w => exact execGen_own w s
  case h_9 w => exact execGenTrig_own w s
  case h_10 w => exact execSink_own w s
  case h_11 w => exact execSrc_own w s
  case h_12 w => exact execTagset_own w s
  case h_13 w => exact execTagget_own w s
  case h_14 w => exact execRoute_own w s
  case h_15 w => exact execBound_own w s
  case h_16 w => exact execMerge2_own w s
  case h_17 w => exact execLut6_own w s
  case h_18 w => exact execFsm_own w s
  case h_19 w => exact execTopk_own w s
  case h_20 => cases h

/-! ### The obligation -/

/-- Settles O57: each such word is a firing of its own invocation alone, and a firing answers no change, its effect or the end of R162. -/
theorem dataflowNodesFrame : Obligations.DataflowNodesFrame := by
  unfold Obligations.DataflowNodesFrame
  intro i kind s t step
  have own : FiresOwn s (exec i s) := by
    rcases kind with flow | ⟨op, w, rfl⟩
    · exact exec_dataflow_own flow s
    · exact execNodeArithFire_own op w s
  obtain ⟨f, fires, frame⟩ := own
  rw [fires] at step
  rcases fire_cases s f with same | ⟨c, s1, ctx, effect, ends⟩
  · rw [same] at step
    cases step
    exact .inl rfl
  · have changed := frame c s1 effect
    rw [nodeCtx_s ctx] at ends changed
    rw [ends] at step
    cases step
    exact .inr ⟨c, s1, ctx, rfl, changed⟩

end Sys2Proof.Machine
end

section
/-! PROOFS. Task words complete (spec 09_memory_ops R177 to R181). -/
open Sys2Proof Sys2Proof.Machine

namespace Sys2Proof.Machine

/-! ### TSPAWN (R34, R177) -/

section
variable {x : TB} {s : State} (issues : Issues x.pg [x.a, x.a + 1] [x.a] s) (outside : s.specul s.cur = none) (rel : needRel s = .ok ())
  (room : tasksOfDie s (dieOf s.cur) < 4096)
include issues outside rel room

theorem execTspawn_noneHalted (noneHalted : haltedThread s (shardOf s.cur) = none) :
    execTspawn x s = .next (advance (s.onMe fun t => t.wg x.a.toNat allOnes)) := by
  refine issue_ok issues ((bind_of_ok (needIrrev_ok outside) _).trans ((bind_of_ok rel _).trans ((if_neg (Nat.not_le.mpr room)).trans ?_)))
  rw [noneHalted]

theorem execTspawn_starts {n : Nat} (halted : haltedThread s (shardOf s.cur) = some n) :
    let ts := stamp (s.me.rg x.a.toNat) s.cur
    let arg := s.me.rg (x.a.toNat + 1)
    let k : Task := ⟨s.nextId, ts, some n, relTarget x s, s.me.rg 1, arg, 0, false, [], [], [], none, none, false, shardOf n, 0⟩
    let s1 := startThread { s with nextId := s.nextId + 1 } n s.me (relTarget x s) (s.me.rg 1) arg (w64 ts)
    execTspawn x s = .next (advance (({ s1 with tasks := insertTask k s1.tasks } : State).onMe fun t => t.wg x.a.toNat (w64 n))) := by
  refine issue_ok issues ((bind_of_ok (needIrrev_ok outside) _).trans ((bind_of_ok rel _).trans ((if_neg (Nat.not_le.mpr room)).trans ?_)))
  rw [halted]

end

/-! ### TEND and TABORT (R179) -/

/-- What TABORT leaves of a task that it discards, its unperformed stores and its firing's entry gone too (R179, log 56). -/
def abortedBy (s : State) (k : Task) : State :=
  match k.firing with
  | some e => removeEntry (discardTask (s.onMe dropStores) k) e
  | none => discardTask (s.onMe dropStores) k

section
variable {x : T3} {s : State} (issues : Issues x.pg [] [x.d] s)
include issues

theorem execTend_outside (noTask : s.taskOf s.cur = none) : execTend x s = .next (advance (s.onMe fun t => t.wg x.d.toNat 0)) := by
  refine issue_ok issues ?_
  rw [noTask]

theorem execTend_inside {k : Task} (task : s.taskOf s.cur = some k) : execTend x s = .next (stallOn (.commit (some x.d.toNat)) s) := by
  refine issue_stall issues ?_
  rw [task]
  rfl

theorem execTabort_outside (noTask : s.taskOf s.cur = none) :
    execTabort x s = .next (advance (s.onMe fun t => t.wg x.d.toNat 0)) := by
  refine issue_ok issues ?_
  rw [noTask]

/-- An irrevocable task cannot be discarded: it ends as by TEND. -/
theorem execTabort_irrevocable {k : Task} (task : s.taskOf s.cur = some k) (irrev : k.irrev = true) :
    execTabort x s = .next (stallOn (.commit (some x.d.toNat)) s) := by
  refine issue_stall issues ?_
  rw [task]
  exact if_pos irrev

theorem execTabort_discards {k : Task} (task : s.taskOf s.cur = some k) (discardable : k.irrev = false) :
    execTabort x s = .next (advance ((abortedBy s k).onMe fun t => t.wg x.d.toNat 1)) := by
  refine issue_ok issues ?_
  rw [task]
  exact if_neg (by simp [discardable])

end

/-! ### TSTAMP, GVT and TBARRIER (R180, R181) -/

theorem needPrv_ok {s : State} (prv : s.me.prv = true) : needPrv s = .ok () := if_pos prv

section
variable {x : T3} {s : State} (issues : Issues x.pg [x.a] [x.d] s)
include issues

theorem execTstamp_writes :
    execTstamp x s = .next (advance (s.onMe fun t => t.wg x.d.toNat (w64 (stamp (s.me.rg x.a.toNat) s.cur)))) :=
  issue_ok issues rfl

theorem execGvt_met (met : gvtMet s s.cur (s.me.rg x.a.toNat) = true) :
    execGvt x s = .next (advance (s.onMe fun t => t.wg x.d.toNat s.gvt)) :=
  issue_ok issues (if_pos met)

theorem execTbarrier_exchanges (prv : s.me.prv = true) (idle : ckptRuns s = false) :
    let a := s.me.rg x.a.toNat
    execTbarrier x s = .next (if a ≠ allOnes ∧ s.tasks.any (fun t => decide (t.ts < a.toNat)) = true
      then ({ s with bts := a } : State).onMe fun t => { t with st := .stalled, why := .barrierTs x.d.toNat a s.bts }
      else advance (({ s with bts := a } : State).onMe fun t => t.wg x.d.toNat s.bts)) := by
  refine issueJump_ok issues ((bind_of_ok (needPrv_ok prv) _).trans ((if_neg (by simp [idle])).trans ?_))
  exact (apply_ite Except.ok _ _ _).symm

end

/-! ### The obligation -/

/-- Settles O15: each task word issues and its body runs to its end, or to its wait for the commit, by the lemma above about its case. -/
theorem taskWordsComplete : Obligations.TaskWordsComplete := by
  unfold Obligations.TaskWordsComplete
  refine ⟨?spawn, ?ends, ?stamps⟩
  case spawn =>
    exact fun x s issues outside rel room =>
      ⟨execTspawn_noneHalted issues outside rel room, fun n halted => execTspawn_starts issues outside rel room halted⟩
  case ends =>
    exact fun x s issues => ⟨fun noTask => ⟨execTend_outside issues noTask, execTabort_outside issues noTask⟩,
      fun k task => ⟨execTend_inside issues task, execTabort_irrevocable issues task, execTabort_discards issues task⟩⟩
  case stamps =>
    exact fun x s issues => ⟨execTstamp_writes issues, execGvt_met issues, execTbarrier_exchanges issues⟩

end Sys2Proof.Machine
end

section
/-! PROOFS. Engine commands at issue (spec 09_memory_ops R182 to R186, 15_tiles R296, 18_outside R357, R360). -/
open Sys2Proof Sys2Proof.Machine

namespace Sys2Proof.Machine

theorem sendCmd_eq_sentTo (eng : Nat) (m : Msg) (s : State) : sendCmd eng m s = sentTo eng m s := rfl

/-- Under 63 the counter K has room (R314). -/
theorem needRoom_k_ok {s : State} (room : s.me.k < 63) : needRoom 3 s = .ok () :=
  if_neg (Nat.not_le.mpr room)

/-- What XTASK does before its record goes to the ring: K rises, and the message's number is used up (R296, log 1). -/
def taskCounted (no : Nat) (s : State) : State := ({ s with nextId := no + 1 } : State).onMe fun t => { t with k := t.k + 1 }

/-! ### Commands with a descriptor (R182, R184, R296) -/

section
variable {x : TX} {s s1 : State} {m : Msg} (outside : s.specul s.cur = none)
include outside

theorem engineBody_sends {op : Nat} (desc : engineMsg op x s = .ok (s1, m)) (room : s.me.c < 63) (eng : Nat) (h : Bool) :
    engineBody op eng h x s = .ok (sentTo eng (if h then m.withH x s else m) s1) :=
  (bind_of_ok (needIrrev_ok outside) _).trans ((bind_of_ok desc _).trans (bind_of_ok (needRoom_c_ok room) _))

theorem execXcopy_sends (desc : engineMsg 0x70 x s = .ok (s1, m)) (room : s.me.c < 63) (issues : Issues x.pg [x.a] [] s) :
    execXcopy x s = .next (sentTo (srcBte s.cur) m s1) :=
  issueJump_ok issues (engineBody_sends outside desc room (srcBte s.cur) false)

theorem execXgath_sends (desc : engineMsg 0x71 x s = .ok (s1, m)) (room : s.me.c < 63) (issues : Issues x.pg [x.a, x.b] [] s) :
    execXgath x s = .next (sentTo (srcBte s.cur) (m.withH x s) s1) :=
  issueJump_ok issues (engineBody_sends outside desc room (srcBte s.cur) true)

theorem execXscat_sends (desc : engineMsg 0x72 x s = .ok (s1, m)) (room : s.me.c < 63) (issues : Issues x.pg [x.a, x.b] [] s) :
    execXscat x s = .next (sentTo (srcBte s.cur) (m.withH x s) s1) :=
  issueJump_ok issues (engineBody_sends outside desc room (srcBte s.cur) true)

theorem execXcoll_sends (desc : engineMsg 0x73 x s = .ok (s1, m)) (room : s.me.c < 63) (issues : Issues x.pg [x.a, x.b] [] s) :
    execXcoll x s = .next (sentTo srcColl (m.withH x s) s1) :=
  issueJump_ok issues (engineBody_sends outside desc room srcColl true)

theorem execXckpt_sends (desc : engineMsg 0x76 x s = .ok (s1, m)) (room : s.me.c < 63) (issues : Issues x.pg [x.a] [] s)
    (prv : s.me.prv = true) : execXckpt x s = .next (sentTo srcColl m s1) :=
  issueJump_ok issues ((bind_of_ok (needPrv_ok prv) _).trans (engineBody_sends outside desc room srcColl false))

/-- XSEND to a number that takes no active messages replies REFUSED with reason 4 at once (R184). -/
theorem execXsend_sends (desc : engineMsg 0x75 x s = .ok (s1, m)) (room : s.me.c < 63) (issues : Issues x.pg [x.a, x.b] [] s) :
    execXsend x s = .next (if takesMsgs (s.me.rg x.b.toNat).toNat then sentTo (s.me.rg x.b.toNat).toNat m s1
      else advance (writeReply m (s.me.rg x.b.toNat).toNat 3 4 0 { s1 with nextId := s.nextId + 1 })) := by
  refine issueJump_ok issues ((bind_of_ok (needIrrev_ok outside) _).trans ((bind_of_ok desc _).trans
    ((bind_of_ok (needRoom_c_ok room) _).trans ?_)))
  exact (apply_ite Except.ok _ _ _).symm

theorem execXtask_enters {s2 : State} (desc : engineMsg 0x74 x s = .ok (s1, m)) (room : s.me.k < 63) (issues : Issues x.pg [x.a] [] s)
    (enters : arriveTask (shardOf s.cur) m (taskCounted s.nextId s1) = some s2) : execXtask x s = .next (advance s2) := by
  refine issueJump_ok issues ((bind_of_ok (needIrrev_ok outside) _).trans ((bind_of_ok desc _).trans
    ((bind_of_ok (needRoom_k_ok room) _).trans ?_)))
  unfold taskCounted at enters
  dsimp only
  rw [enters]

/-- A full ring holds the thread STALLED, with K raised (R296). -/
theorem execXtask_waits (desc : engineMsg 0x74 x s = .ok (s1, m)) (room : s.me.k < 63) (issues : Issues x.pg [x.a] [] s)
    (full : arriveTask (shardOf s.cur) m (taskCounted s.nextId s1) = none) :
    execXtask x s = .next ((taskCounted s.nextId s1).onMe fun t => { t with st := .stalled, why := .ring m }) := by
  refine issueJump_ok issues ((bind_of_ok (needIrrev_ok outside) _).trans ((bind_of_ok desc _).trans
    ((bind_of_ok (needRoom_k_ok room) _).trans ?_)))
  unfold taskCounted at full
  dsimp only
  rw [full]
  rfl

end

/-! ### XCANCEL (R186) -/

theorem execXcancel_acts {x : TX} {s : State} (issues : Issues x.pg [x.a] [] s) (outside : s.specul s.cur = none) (room : s.me.c < 63) :
    execXcancel x s =
      .next (advance (cancelOf (s.cur, s.nextId) (oldestNamed s s.cur (s.me.rg x.a.toNat)) { s with nextId := s.nextId + 1 })) :=
  issue_ok issues ((bind_of_ok (needIrrev_ok outside) _).trans (bind_of_ok (needRoom_c_ok room) _))

/-! ### The obligation -/

/-- Settles O17: outside a task, with a readable descriptor and room in its counter, each body runs to its end, by the lemma above about its
command. -/
theorem engineCommandsAreSent : Obligations.EngineCommandsAreSent := by
  unfold Obligations.EngineCommandsAreSent
  refine ⟨fun x s s1 m op outside desc => ⟨fun room => ⟨?copy, ?gath, ?scat, ?coll, ?ckpt, ?send⟩, ?task⟩,
    fun x s issues outside room => execXcancel_acts issues outside room⟩
  case copy => exact fun named issues => execXcopy_sends outside (named ▸ desc) room issues
  case gath => exact fun named issues => execXgath_sends outside (named ▸ desc) room issues
  case scat => exact fun named issues => execXscat_sends outside (named ▸ desc) room issues
  case coll => exact fun named issues => execXcoll_sends outside (named ▸ desc) room issues
  case ckpt => exact fun named issues prv => execXckpt_sends outside (named ▸ desc) room issues prv
  case send => exact fun named issues => execXsend_sends outside (named ▸ desc) room issues
  case task =>
    intro named issues room raised
    split
    case h_1 s2 enters => exact execXtask_enters outside (named ▸ desc) room issues enters
    case h_2 full => exact execXtask_waits outside (named ▸ desc) room issues full

end Sys2Proof.Machine
end

section
/-! PROOFS. Tile nodes and stopped records (spec 15_tiles R299, R300, R313). -/
open Sys2Proof Sys2Proof.Machine

namespace Sys2Proof.Machine

/-- A tile node whose record passes every check, and whose tiles are ready, starts it on its own dot block (R313). -/
theorem execTileNodeFire_starts {op : BitVec 8} {w : NW} {s s1 : State} {c : Ctx} {bs : List Byte} {ds : Tab Desc}
    (ctx : nodeCtx s = some c) (present : c.has 0 = true) (clean : tokPoisoned s c.iid c.i c.n c.tag c.nd = false)
    (free : Tab.look c.s.eng.dots (engOf c.nd.place.core c.nd.place.elem) = none) (aligned : (c.val 0).toNat % 64 = 0)
    (record : readVa c.s c.i.who (c.val 0).toNat 64 = .ok (s1, bs)) (own : (nodeMsg c bs).top = op.toNat) (noRingdef : (nodeMsg c bs).top ≠ 0xaa)
    (space : canSend c.s c.i c.n c.nd c.tag [] = true) (checked : recCheck s1 (coreShard c.nd.place.core) (nodeMsg c bs) = none)
    (inCore : inAcc s1 (writeKey (nodeMsg c bs)) = true → writeKey (nodeMsg c bs) / 256 = c.nd.place.core)
    (ready : fateOf s1 (nodeMsg c bs) = .ready ds) :
    execTileNodeFire op w s = .next (endIfDone
      ((startRun (engOf c.nd.place.core c.nd.place.elem) (nodeMsg c bs) (some (c.iid, c.n, c.tag)) ds s1).active c.iid) c.iid) := by
  rw [← nodeCtx_s ctx] at clean
  refine fire_ok ctx clean ?_
  refine (if_neg (by simp [present, free, space])).trans ((if_neg (by simp [aligned])).trans ?_)
  rw [record]
  refine (if_neg (not_or.mpr ⟨not_not.mpr own, noRingdef⟩)).trans ?_
  rw [checked]
  refine (if_neg (by simpa using inCore)).trans ?_
  rw [ready]

/-- A record whose operation meets poison, or a scale byte that it cannot read, stops with STATUS 2 (R299, R300). -/
theorem execDotEngineFaultStop_stops {eng : Nat} {s s1 : State} {r : DotRun} {code : Nat} {v : W} (run : Tab.look s.eng.dots eng = some r)
    (pending : r.computed = false) (going : r.stop = none) (free : acqHeld r.msg s = false)
    (meets : compute r.descs r.msg s = some (s1, .stop code v)) :
    execDotEngineFaultStop eng s = .next (s1.putDot eng { r with stop := some (2, code, v) }) := by
  unfold execDotEngineFaultStop
  rw [run]
  refine (if_neg (by simp [pending, going, free])).trans ?_
  rw [meets]

/-- Settles O32, by the lemmas above about the start of a node's record and the stop of a record. -/
theorem tileNodesAndFaultStops : Obligations.TileNodesAndFaultStops := by
  unfold Obligations.TileNodesAndFaultStops
  refine ⟨fun op w s s1 c bs ds ctx present clean free aligned record own noRingdef space checked inCore ready => ?_,
    fun eng s s1 r code v => execDotEngineFaultStop_stops⟩
  exact execTileNodeFire_starts (w := w) ctx present clean free aligned record own noRingdef space checked inCore ready

end Sys2Proof.Machine
end

section
/-! PROOFS. Tokens and credits on their way, walks, barrier arrivals (spec 04_registers R80, 08_memories R154, 09_memory_ops R171, 11_queues R208). -/
open Sys2Proof Sys2Proof.Machine

namespace Sys2Proof.Machine

/-! ### Tokens and credits (R36, R80, R208) -/

section
variable {iid k : Nat} {s : State} {i : Inv} (here : s.inv iid = some i)
include here

theorem execTokenArrival_arrives {l : Link} (inside : i.phase ≠ .out) (link : i.links[k]? = some l)
    (free : arrivesNow s iid i l = true) (first : firstLink i k l = true) :
    execTokenArrival iid k s = .next (arriveTok (s.putInv iid { i with links := dropAt i.links k }) iid l) := by
  unfold execTokenArrival
  rw [here]
  dsimp only
  rw [link]
  exact if_neg (by simp [inside, free, first])

section
variable {second : Bool} {b : TBuf} {l : Link} (inside : i.phase ≠ .out) (buffered : i.tbuf[k]? = some b)
  (pending : b.pending (b2n second) = true) (first : firstEntry i k (b2n second) b = true) (link : linkOf i b (b2n second) = some l)
include inside buffered pending first link

/-- To another cell a buffered token goes onto its route. -/
theorem execTokenAccept_routes (apart : sameCell i b.node l.dst = false) :
    execTokenAccept iid k second s = .next ((markFreed s i (b2n second) b).putInv iid
      { i.acceptAt k (b2n second) b with links := (i.acceptAt k (b2n second) b).links ++ [l] }) := by
  unfold execTokenAccept
  dsimp only
  rw [here]
  dsimp only
  rw [buffered]
  refine (if_neg (by simp [inside, pending, first])).trans ?_
  rw [link]
  exact if_neg (by simp [apart])

/-- In the same cell it goes into its field. -/
theorem execTokenAccept_enters (together : sameCell i b.node l.dst = true) (free : arrivesNow s iid i l = true) :
    execTokenAccept iid k second s =
      .next (arriveTok ((markFreed s i (b2n second) b).putInv iid (i.acceptAt k (b2n second) b)) iid l) := by
  unfold execTokenAccept
  dsimp only
  rw [here]
  dsimp only
  rw [buffered]
  refine (if_neg (by simp [inside, pending, first])).trans ?_
  rw [link]
  exact (if_pos (by simp [together, free])).trans (if_pos free)

end

theorem execCreditReturn_gives {key : Nat} (credit : i.credits[k]? = some key) (free : (i.ct (creditDst i key)).hold = false) :
    execCreditReturn iid k s =
      .next (s.putInv iid (({ i with credits := dropAt i.credits k }.give key).payFrs iid (creditDst i key))) := by
  unfold execCreditReturn
  rw [here]
  dsimp only
  rw [credit]
  exact if_neg (by simp [free])

end

/-! ### Page walks (R154) -/

/-- The state of a slice whose first miss has left its queue, and the requester and access that the walk is for. -/
def missTaken (s : State) (slice : Nat) (rest : List Miss) : State :=
  { s with mem := { s.mem with misses := Tab.set s.mem.misses [] slice rest } }
def Miss.who (m : Miss) (slice : Nat) : Who := ⟨slice / 32, m.ctxid, 0, m.prv, none⟩
def Miss.acc (m : Miss) : Acc := if m.fetch then .fetch else if m.write then .write else .read

section
variable {slice : Nat} {s : State} {m : Miss} {rest : List Miss} (queue : Tab.getD s.mem.misses slice [] = m :: rest)
include queue

/-- The TLB already holds the page: the walk only leaves the queue. -/
theorem execPageWalk_held
    (held : ((Tab.getD s.mem.tlb slice []).any fun e => e.covers m.ctxid m.va && (e.dirty || !m.write)) = true) :
    execPageWalk slice s = .next (missTaken s slice rest) := by
  unfold execPageWalk
  rw [queue]
  exact if_pos held

section
variable (gone : ((Tab.getD s.mem.tlb slice []).any fun e => e.covers m.ctxid m.va && (e.dirty || !m.write)) = false)
include gone

theorem execPageWalk_fills {s2 : State} {e : TlbEnt} (walks : walkOnce (missTaken s slice rest) (m.who slice) m.acc m.va = .ok (s2, e)) :
    execPageWalk slice s = .next s2 := by
  unfold missTaken Miss.who Miss.acc at walks
  unfold execPageWalk
  rw [queue]
  refine (if_neg (by simp [gone])).trans ?_
  dsimp only
  rw [walks]

/-- A walk that fails fills nothing (log 11). -/
theorem execPageWalk_fails {kind : XKind} (walks : walkOnce (missTaken s slice rest) (m.who slice) m.acc m.va = .error kind) :
    execPageWalk slice s = .next (missTaken s slice rest) := by
  unfold missTaken Miss.who Miss.acc at walks
  unfold execPageWalk
  rw [queue]
  refine (if_neg (by simp [gone])).trans ?_
  dsimp only
  rw [walks]
  rfl

end
end

/-! ### Barrier arrivals (R171) -/

theorem execBarrierArrival_counts {k pa : Nat} {s : State} (arrival : s.eng.arrivals[k]? = some (pa, none)) :
    execBarrierArrival k s = .next (arrive { s with eng := { s.eng with arrivals := dropAt s.eng.arrivals k } } none pa) := by
  unfold execBarrierArrival
  rw [arrival]
  exact if_neg (by simp)

/-! ### The obligation -/

/-- Settles O35: each event, under its own conditions, has the effect of the lemma above about it. -/
theorem tokensMove : Obligations.TokensMove := by
  unfold Obligations.TokensMove
  refine ⟨fun iid k s i here inside => ⟨?arrival, ?accept, ?credit⟩, fun slice s m rest queue => ⟨?held, fun gone => ⟨?fills, ?fails⟩⟩,
    fun k pa s => execBarrierArrival_counts⟩
  case arrival => exact fun l link free first => execTokenArrival_arrives here inside link free first
  case accept =>
    exact fun second b l buffered pending first link => ⟨execTokenAccept_routes here inside buffered pending first link,
      execTokenAccept_enters here inside buffered pending first link⟩
  case credit => exact fun key credit free => execCreditReturn_gives here credit free
  case held => exact fun held => execPageWalk_held queue held
  case fills => exact fun s2 e walks => execPageWalk_fills queue gone walks
  case fails => exact fun kind walks => execPageWalk_fails queue gone walks

end Sys2Proof.Machine
end

section
/-! PROOFS. Parked and stalled threads go on (spec 02_machine R41, 05_integer R100, 13_tables R257, 16_counters R320, 17_faults R341). -/
open Sys2Proof Sys2Proof.Machine

namespace Sys2Proof.Machine

/-! ### Parks (R100, R320, R341) -/

section
variable {tid : Nat} {s : State} (parked : (s.th tid).st = .parked) (thawed : s.frozen tid = false)
include parked thawed

/-- The guard of THREAD_WAKE and PARK_TIMEOUT lets through a parked thread that no CTXSAVE holds. -/
theorem parkGuard_passes : ¬((s.th tid).st ≠ .parked ∨ s.frozen tid = true) := by
  simp [parked, thawed]

section
variable {pa d : Nat} {expect timeout start : W} {woken : Bool} (watches : (s.th tid).why = .watch pa expect timeout start d woken)
include watches

theorem execThreadWake_watch (wakes : woken = true ∨ (s.th tid).intReady = true) :
    execThreadWake tid s = .next (finishPark tid s) := by
  refine (if_neg (parkGuard_passes parked thawed)).trans ?_
  rw [watches]
  exact if_pos (by simpa using wakes)

theorem execParkTimeout_watch (elapsed : timedOut s timeout start = true) : execParkTimeout tid s = .next (finishPark tid s) := by
  refine (if_neg (parkGuard_passes parked thawed)).trans ?_
  rw [watches]
  exact if_pos elapsed

end

section
variable {pa gen d : Nat} {timeout start : W} {woken : Bool} (waits : (s.th tid).why = .barrier pa gen timeout start d woken)
include waits

theorem execThreadWake_barrier (wakes : woken = true ∨ (s.th tid).intReady = true) :
    execThreadWake tid s = .next (finishPark tid s) := by
  refine (if_neg (parkGuard_passes parked thawed)).trans ?_
  rw [waits]
  exact if_pos (by simpa using wakes)

theorem execParkTimeout_barrier (elapsed : timedOut s timeout start = true) : execParkTimeout tid s = .next (finishPark tid s) := by
  refine (if_neg (parkGuard_passes parked thawed)).trans ?_
  rw [waits]
  exact if_pos elapsed

end

/-- IDLE and DOPEN.wait: an enabled vector that is pending ends the park (log 43). -/
theorem execThreadWake_interrupt (waits : (s.th tid).why = .idle ∨ ∃ no, (s.th tid).why = .name no)
    (ready : (s.th tid).intReady = true) : execThreadWake tid s = .next (finishPark tid s) := by
  refine (if_neg (parkGuard_passes parked thawed)).trans ?_
  rcases waits with idle | ⟨no, name⟩
  · rw [idle]
    exact if_pos ready
  · rw [name]
    exact if_pos ready

end

/-! ### A waiting open (R257) -/

theorem execDopenTimeout_fails {tid : Nat} {s : State} {w : WaitOpen}
    (elapsed : s.tab.waits.find? (fun w => decide (w.msg.tid = tid) && timedOut s w.timeout w.start) = some w) :
    execDopenTimeout tid s = .next (failOpen w.msg cTIMEOUT (w64 (a51 w.msg))
      { s with tab := { s.tab with waits := s.tab.waits.filter fun x => decide (x.msg ≠ w.msg) } }) := by
  unfold execDopenTimeout
  rw [elapsed]

/-! ### Stalls (R41) -/

section
variable {tid : Nat} {s : State} (stalled : (s.th tid).st = .stalled)
include stalled

theorem execStallResume_inbox {eng : Nat} {m : Msg} (waits : (s.th tid).why = .inbox eng m) (room : inboxRoom s eng = true) :
    execStallResume tid s = .next (deliverStalled tid eng m s) := by
  refine (if_neg (not_not.mpr stalled)).trans ?_
  rw [waits]
  exact if_pos room

theorem execStallResume_ring {m : Msg} {s1 : State} (waits : (s.th tid).why = .ring m)
    (entered : arriveTask (shardOf tid) m s = some s1) : execStallResume tid s = .next (completes tid s1) := by
  refine (if_neg (not_not.mpr stalled)).trans ?_
  rw [waits]
  dsimp only
  rw [entered]

theorem execStallResume_barrierTs {d : Nat} {a old : W} (waits : (s.th tid).why = .barrierTs d a old) (passed : ∀ t ∈ s.tasks, a.toNat ≤ t.ts) :
    execStallResume tid s = .next (completes tid (s.onTh tid fun t => t.wg d old)) := by
  refine (if_neg (not_not.mpr stalled)).trans ?_
  rw [waits]
  exact if_neg (by simpa using passed)

theorem execStallResume_counter {w : Nat} (waits : (s.th tid).why = .counter w) (met : stallOver s tid (.counter w) = true)
    (thawed : s.frozen tid = false) : execStallResume tid s = .next (reissue tid s) := by
  refine (if_neg (not_not.mpr stalled)).trans ?_
  rw [waits]
  exact if_pos (by simp [met, thawed])

end

/-! ### The obligation -/

/-- Settles O41: each event, under its own conditions, has the effect of the lemma above about it. -/
theorem threadsWake : Obligations.ThreadsWake := by
  unfold Obligations.ThreadsWake
  refine ⟨fun tid s parked thawed => ⟨?watch, ?barrier, ?interrupt⟩, fun tid s w elapsed => execDopenTimeout_fails elapsed,
    fun tid s stalled => ⟨?inbox, ?ring, ?barrierTs, ?counter⟩⟩
  case watch =>
    exact fun pa expect timeout start d woken watches =>
      ⟨execThreadWake_watch parked thawed watches, execParkTimeout_watch parked thawed watches⟩
  case barrier =>
    exact fun pa gen timeout start d woken waits =>
      ⟨execThreadWake_barrier parked thawed waits, execParkTimeout_barrier parked thawed waits⟩
  case interrupt => exact execThreadWake_interrupt parked thawed
  case inbox => exact fun eng m waits room => execStallResume_inbox stalled waits room
  case ring => exact fun m s1 waits entered => execStallResume_ring stalled waits entered
  case barrierTs => exact fun d a old waits passed => execStallResume_barrierTs stalled waits passed
  case counter => exact fun w waits met thawed => execStallResume_counter stalled waits met thawed

end Sys2Proof.Machine
end

section
/-! PROOFS. A step runs the instruction of its turn (spec 02_machine R40, R41, 03_encoding R49, R62, 05_integer R98). -/
open Sys2Proof Sys2Proof.Machine

namespace Sys2Proof.Machine

/-! ### The turn that is taken (log 1) -/

theorem nextTurn_of_cons {s : State} {turn : Turn} {rest : List Turn} (head : s.agenda = turn :: rest) :
    nextTurn s = (turn, { s with agenda := rest }) := by
  unfold nextTurn
  rw [head]

/-- A cycle always has the turn in which it passes. -/
theorem cycleTurns_ne_nil (s : State) : cycleTurns s ≠ [] := List.append_ne_nil_of_right_ne_nil _ (List.cons_ne_nil _ _)

/-- An empty agenda is first given the turns of one cycle. -/
theorem nextTurn_of_nil {s : State} (empty : s.agenda = []) (alive : s.dead = false) (powered : s.powered = true) :
    nextTurn s = nextTurn { s with agenda := cycleTurns s } := by
  obtain ⟨turn, rest, turns⟩ := List.exists_cons_of_ne_nil (cycleTurns_ne_nil s)
  unfold nextTurn
  simp [empty, alive, powered, turns]

theorem step_of_nextTurn_eq {s t : State} (same : nextTurn s = nextTurn t) : step s = step t := by
  unfold step
  rw [same]

/-! ### A thread's turn (R41, R49, R62, R98) -/

/-- A thread whose turn it is, with no imprecise trap due, no wait for irrevocability and no miss held, fetches the word at its pc. -/
theorem fetchThread_word {s s1 : State} {tid : Nat} {x : Xl} (turn : nextThread s (shardOf tid) = some tid)
    (imp : ((takeIssue tid s).th tid).imp = []) (outside : (takeIssue tid s).specul tid = none)
    (walkers : missBlocked (takeIssue tid s) ((takeIssue tid s).whoOf tid) ((takeIssue tid s).th tid).pc.toNat = none)
    (fetched : translate (takeIssue tid s) ((takeIssue tid s).whoOf tid) .fetch ((takeIssue tid s).th tid).pc.toNat = .ok (s1, x))
    (clean : (reachLine s1 x).mem.bad x.pa = false) :
    fetchThread tid s = (reachLine s1 x, some (w64 ((reachLine s1 x).mem.word x.pa 8))) := by
  unfold fetchThread
  simp [turn, imp, outside, walkers, fetched, clean]

theorem step_of_fetched {s s2 : State} {tid : Nat} {rest : List Turn} {w : W} (head : s.agenda = .thread tid :: rest)
    (fetched : fetchThread tid { s with agenda := rest } = (s2, some w)) : step s = afterWord (exec (threadInstr w) s2) := by
  unfold step
  rw [nextTurn_of_cons head]
  dsimp only
  rw [fetched]

theorem threadInstr_of_ok {w : W} {i : Instr} (decodes : decodeThread w = .ok i) : threadInstr w = i := by
  unfold threadInstr
  rw [decodes]

theorem threadInstr_of_illegal {w : W} (illegal : ∀ i, decodeThread w ≠ .ok i) : threadInstr w = .illegalInstructionWord w := by
  unfold threadInstr
  split
  case h_1 i decodes => exact absurd decodes (illegal i)
  case h_2 => rfl

/-! ### A node's turn (R39, R40) -/

section
variable {s : State} {iid n tag : Nat} {e : Instr}

theorem fetchNode_word {i : Inv} {nd : Node} (here : s.inv iid = some i) (node : Tab.look i.nodes n = some nd)
    (unblocked : (i.ct n).blocked = false) (powered : s.powered = true) (decodes : decodeNode nd.word = .ok e) :
    fetchNode iid n tag s = ({ s with site := (iid, n, tag) }, some e) := by
  unfold fetchNode
  simp [here, node, unblocked, powered, decodes]

section
variable (word : fetchNode iid n tag s = ({ s with site := (iid, n, tag) }, some e))
include word

/-- A word that is not ready runs as it stands, which does nothing by itself. -/
theorem fireTurn_unready (unready : nodeReady e { s with site := (iid, n, tag) } = false) :
    fireTurn iid n tag s = ({ s with site := (iid, n, tag) }, some e) := by
  unfold fireTurn
  simp [word, unready]

theorem fireTurn_chosen (ready : nodeReady e { s with site := (iid, n, tag) } = true) (chosen : mayFire s iid n tag = true) :
    fireTurn iid n tag s = (takeShot { s with site := (iid, n, tag) } iid n, some e) := by
  unfold fireTurn
  simp [word, ready, chosen]

theorem fireTurn_passedOver (ready : nodeReady e { s with site := (iid, n, tag) } = true) (other : mayFire s iid n tag = false) :
    fireTurn iid n tag s = (s, none) := by
  unfold fireTurn
  simp [word, ready, other]

end

variable {rest : List Turn} (head : s.agenda = .fire iid n tag :: rest)
include head

theorem step_of_fired {s2 : State} (fired : fireTurn iid n tag { s with agenda := rest } = (s2, some e)) :
    step s = heldBack { s with agenda := rest } (exec e s2) := by
  unfold step
  rw [nextTurn_of_cons head]
  dsimp only
  rw [fired]

theorem step_of_unfired {s2 : State} (unfired : fireTurn iid n tag { s with agenda := rest } = (s2, none)) : step s = .next s2 := by
  unfold step
  rw [nextTurn_of_cons head]
  dsimp only
  rw [unfired]

end

/-! ### The choice of a slot (R40) -/

/-- A slot that the guard of its cycle takes: its own number's turn, not urgent, ready since an earlier cycle. -/
def guardTakes (s : State) (iid : Nat) (x : Slotted) : Prop := x.no = s.cycle % 64 ∧ x.urg = false ∧ (iid, x.node) ∈ s.elder

theorem guardTakes_iff (s : State) (iid : Nat) (x : Slotted) :
    (decide (x.no = s.cycle % 64) && !x.urg && decide ((iid, x.node) ∈ s.elder)) = true ↔ guardTakes s iid x := by
  simp [guardTakes, and_assoc]

/-- The guard slot, else the oldest urgent slot, else the oldest slot. -/
theorem chooseSlotOf_spec {s : State} {iid : Nat} {rs : List Slotted} {r : Slotted} (chosen : chooseSlotOf s iid rs = some r) :
    r ∈ rs ∧ (guardTakes s iid r ∨ (∀ x ∈ rs, ¬ guardTakes s iid x) ∧
      ((r.urg = true ∧ ∀ x ∈ rs, x.urg = true → slotBefore iid x r = false) ∨
        ((∀ x ∈ rs, x.urg = false) ∧ ∀ x ∈ rs, slotBefore iid x r = false))) := by
  unfold chooseSlotOf at chosen
  split at chosen
  case h_1 g found =>
    cases chosen
    have guard := List.find?_some found
    exact ⟨List.mem_of_find?_eq_some found, .inl ((guardTakes_iff s iid r).mp guard)⟩
  case h_2 missing =>
    have unguarded : ∀ x ∈ rs, ¬ guardTakes s iid x := fun x mem guard =>
      List.find?_eq_none.mp missing x mem ((guardTakes_iff s iid x).mpr guard)
    split at chosen
    case h_1 u urgent =>
      cases chosen
      obtain ⟨mem, oldest⟩ := oldestSlot_some urgent
      obtain ⟨mem, urg⟩ := List.mem_filter.mp mem
      exact ⟨mem, .inr ⟨unguarded, .inl ⟨urg, fun x hx hu => oldest x (List.mem_filter.mpr ⟨hx, hu⟩)⟩⟩⟩
    case h_2 calm =>
      have plain : ∀ x ∈ rs, x.urg = false := by simpa using oldestSlot_none calm
      obtain ⟨mem, oldest⟩ := oldestSlot_some chosen
      exact ⟨mem, .inr ⟨unguarded, .inr ⟨plain, oldest⟩⟩⟩

/-! ### An event's turn -/

section
variable {s : State} {e : Instr} {rest : List Turn} (head : s.agenda = .happen e :: rest) (alive : s.dead = false)
include head alive

theorem step_of_event {s1 : State} (happens : eventTurn e { s with agenda := rest } = some s1) :
    step s = heldBack { s with agenda := rest } (exec e s1) := by
  unfold step
  rw [nextTurn_of_cons head]
  have still : ({ s with agenda := rest } : State).dead = false := alive
  refine (if_neg (by simp [still])).trans ?_
  rw [happens]

theorem step_of_noEvent (passed : eventTurn e { s with agenda := rest } = none) : step s = .next { s with agenda := rest } := by
  unfold step
  rw [nextTurn_of_cons head]
  have still : ({ s with agenda := rest } : State).dead = false := alive
  refine (if_neg (by simp [still])).trans ?_
  rw [passed]

end

/-! ### Misses that find a full queue (R155, R206, log 11) -/

theorem overMissed_iff (s : State) : s.overMissed = true ↔ ∃ e ∈ s.mem.misses, 288 < e.2.length := by
  simp [State.overMissed]

theorem heldBack_next (s t : State) : heldBack s (.next t) =
    if (∃ e ∈ t.mem.misses, 288 < e.2.length) ∧ ∀ e ∈ s.mem.misses, e.2.length ≤ 288 then .next s else .next t := by
  unfold heldBack
  simp only [← overMissed_iff]
  refine if_congr ?_ rfl rfl
  simp [State.overMissed]

/-! ### The obligation -/

/-- Settles O48: what each turn fetches or chooses, by the lemmas above, is what `step` runs. -/
theorem stepRunsTheDecodedInstruction : Obligations.StepRunsTheDecodedInstruction := by
  unfold Obligations.StepRunsTheDecodedInstruction
  refine ⟨?thread, ?node, ?choice, ?event, heldBack_next, fun s empty alive powered => step_of_nextTurn_eq (nextTurn_of_nil empty alive powered)⟩
  case thread =>
    intro s s1 tid rest x head s0 s' turn imp outside walkers fetched s2 clean w
    have step_eq := step_of_fetched head (fetchThread_word turn imp outside walkers fetched clean)
    refine ⟨fun i decodes => ?_, fun illegal => ?_⟩
    · rw [step_eq, threadInstr_of_ok decodes]
      cases exec i s2 <;> rfl
    · rw [step_eq, threadInstr_of_illegal illegal]
      cases exec (.illegalInstructionWord w) s2 <;> rfl
  case node =>
    intro s iid n tag rest i nd e head here node unblocked powered decodes s0 s1
    have word : fetchNode iid n tag s0 = (s1, some e) := fetchNode_word here node unblocked powered decodes
    exact ⟨fun unready => step_of_fired head (fireTurn_unready word unready),
      fun ready chosen => step_of_fired head (fireTurn_chosen word ready chosen),
      fun ready other => step_of_unfired head (fireTurn_passedOver word ready other)⟩
  case choice =>
    intro s iid rs r chosen guard before
    have oldest : ∀ x, slotBefore iid x r = false → ¬ before x r := fun x h b => by
      rw [(slotBefore_iff iid x r).mpr b] at h
      cases h
    obtain ⟨mem, guarded | ⟨unguarded, ⟨urg, first⟩ | ⟨plain, first⟩⟩⟩ := chooseSlotOf_spec chosen
    · exact ⟨mem, .inl guarded⟩
    · exact ⟨mem, .inr ⟨unguarded, .inl ⟨urg, fun x hx hu => oldest x (first x hx hu)⟩⟩⟩
    · exact ⟨mem, .inr ⟨unguarded, .inr ⟨plain, fun x hx => oldest x (first x hx)⟩⟩⟩
  case event =>
    exact fun s e rest head alive => ⟨fun s1 happens => step_of_event head alive happens, step_of_noEvent head alive⟩

end Sys2Proof.Machine
end

section
/-! PROOFS. Decoding and encoding are inverse (spec 03_encoding R48, R51, R58, R61 to R63). -/
open Sys2Proof Sys2Proof.Machine

namespace Sys2Proof.Machine

/-! ### The formats (R48, R51, R58) -/

/-- Reading and writing the words of one format are inverse: a written word has its opcode, its form and its fields, and a word of the form
is written back from its opcode and its fields. -/
structure Codec {α : Type} (form : BitVec 1) (get : W → α) (enc : BitVec 8 → α → W) : Prop where
  reads : ∀ op x, (enc op x).extractLsb' 56 8 = op ∧ (enc op x).extractLsb' 55 1 = form ∧ get (enc op x) = x
  writes : ∀ w : W, w.extractLsb' 55 1 = form → enc (w.extractLsb' 56 8) (get w) = w

/-- In every format the fields that are read are the parts that were put together, and they leave no bit out. -/
theorem codec_formats : Codec 0#1 getT3 encT3 ∧ Codec 0#1 getTI encTI ∧ Codec 0#1 getTM encTM ∧ Codec 0#1 getTB encTB ∧ Codec 0#1 getTW encTW ∧
    Codec 0#1 getTX encTX ∧ Codec 1#1 getNW encNW := by
  unfold getT3 encT3 getTI encTI getTM encTM getTB encTB getTW encTW getTX encTX getNW encNW
  refine ⟨⟨?readT3, ?writeT3⟩, ⟨?readTI, ?writeTI⟩, ⟨?readTM, ?writeTM⟩, ⟨?readTB, ?writeTB⟩, ⟨?readTW, ?writeTW⟩, ⟨?readTX, ?writeTX⟩,
    ⟨?readNW, ?writeNW⟩⟩
  case readT3 | readTI | readTM | readTB | readTW | readTX | readNW =>
    intro op x
    simp (disch := decide) only [BitVec.extractLsb'_append_eq_of_le, BitVec.extractLsb'_append_eq_of_add_le, BitVec.extractLsb'_eq_self,
      Nat.reduceSub, and_self]
  case writeT3 | writeTI | writeTM | writeTB | writeTW | writeTX | writeNW =>
    intro w form
    rw [← form]
    simp (disch := rfl) only [BitVec.extractLsb'_append_extractLsb'_eq_extractLsb']
    exact BitVec.extractLsb'_eq_self

theorem codecT3 : Codec 0#1 getT3 encT3 := codec_formats.1
theorem codecTI : Codec 0#1 getTI encTI := codec_formats.2.1
theorem codecTM : Codec 0#1 getTM encTM := codec_formats.2.2.1
theorem codecTB : Codec 0#1 getTB encTB := codec_formats.2.2.2.1
theorem codecTW : Codec 0#1 getTW encTW := codec_formats.2.2.2.2.1
theorem codecTX : Codec 0#1 getTX encTX := codec_formats.2.2.2.2.2.1
theorem codecNW : Codec 1#1 getNW encNW := codec_formats.2.2.2.2.2.2

/-! ### What the decoder accepts (R62, R63) -/

theorem formOf_eq_zero_or_one (w : W) : formOf w = 0 ∨ formOf w = 1 := by
  generalize formOf w = form
  revert form
  decide

/-- The instruction that the form of a word reads from it, before the checks of R62 and R63. -/
def ReadsAs (w : W) (i : Instr) : Prop := formOf w = 0 ∧ rawThread w = some i ∨ formOf w = 1 ∧ rawNode w = some i

theorem decodeThread_eq_ok_iff {w : W} {i : Instr} : decodeThread w = .ok i ↔ formOf w = 0 ∧ rawThread w = some i ∧ i.WF := by
  unfold decodeThread Instr.WF
  rcases formOf_eq_zero_or_one w with form | form
  · cases rawThread w with
    | none => simp [form]
    | some j =>
      have same : j = i → legal i = legal j := fun same => same ▸ rfl
      by_cases wf : legal j = true <;> simpa [form, wf] using same
  · simp [form]

theorem decodeNode_eq_ok_iff {w : W} {i : Instr} : decodeNode w = .ok i ↔ formOf w = 1 ∧ rawNode w = some i ∧ i.WF := by
  unfold decodeNode Instr.WF
  rcases formOf_eq_zero_or_one w with form | form
  · simp [form]
  · cases rawNode w with
    | none => simp [form]
    | some j =>
      have same : j = i → legal i = legal j := fun same => same ▸ rfl
      by_cases wf : legal j = true <;> simpa [form, wf] using same

theorem decodeWord_eq_ok_iff {w : W} {i : Instr} : decodeWord w = .ok i ↔ ReadsAs w i ∧ i.WF := by
  unfold decodeWord ReadsAs
  rcases formOf_eq_zero_or_one w with form | form
  · simp [form, decodeThread_eq_ok_iff]
  · simp [form, decodeNode_eq_ok_iff]

/-! ### The encoder writes back what the opcode map reads (R61) -/

/-- What a row reads from a word of its opcode and form, the encoder writes as that word, and it is an instruction of that form. -/
def WritesBack (form : BitVec 1) (row : Nat × (W → Instr)) : Prop :=
  ∀ w, opOf w = row.1 → formOf w = form → encode (row.2 w) = some w ∧ (row.2 w).isThread = decide (form = 0)

theorem Codec.row {α : Type} {form : BitVec 1} {get : W → α} {enc : BitVec 8 → α → W} (codec : Codec form get enc) {op : Nat} {mk : α → Instr}
    (written : ∀ x, encode (mk x) = some (enc (BitVec.ofNat 8 op) x) := by intro; rfl)
    (kind : ∀ x, (mk x).isThread = decide (form = 0) := by intro; rfl) : WritesBack form (op, fun w => mk (get w)) := by
  rintro w rfl formed
  refine ⟨?_, kind (get w)⟩
  rw [written, opOf, BitVec.ofNat_toNat, BitVec.setWidth_eq, codec.writes w formed]

/-- A row of two instructions that a field tells apart. -/
theorem writesBack_ite {form : BitVec 1} {op : Nat} {p : W → Prop} [DecidablePred p] {a b : W → Instr} (ha : WritesBack form (op, a))
    (hb : WritesBack form (op, b)) : WritesBack form (op, fun w => if p w then a w else b w) := by
  intro w o formed
  dsimp only
  split
  · exact ha w o formed
  · exact hb w o formed

theorem rowsInt_writeBack : ∀ row ∈ rowsInt, WritesBack 0 row := by
  rw [← List.forall_iff_forall_mem]
  exact ⟨codecT3.row, codecT3.row, codecT3.row, codecT3.row, codecT3.row, codecT3.row, codecT3.row, codecT3.row, codecT3.row, codecT3.row,
    codecT3.row, codecT3.row, codecT3.row, codecT3.row, codecT3.row, codecT3.row, codecT3.row, codecT3.row, codecT3.row, codecT3.row, codecT3.row,
    codecTI.row, codecTI.row, codecT3.row, codecT3.row, codecTI.row, codecT3.row, codecT3.row, codecT3.row⟩

theorem rowsReg_writeBack : ∀ row ∈ rowsReg, WritesBack 0 row := by
  rw [← List.forall_iff_forall_mem]
  exact ⟨codecT3.row, codecTI.row, codecTI.row, writesBack_ite codecT3.row codecTM.row, codecT3.row, codecT3.row, codecT3.row, codecT3.row,
    codecT3.row, codecT3.row⟩

theorem rowsFloat_writeBack : ∀ row ∈ rowsFloat, WritesBack 0 row := by
  rw [← List.forall_iff_forall_mem]
  exact ⟨codecT3.row, codecT3.row, codecT3.row, codecT3.row, codecT3.row, codecT3.row, codecT3.row, codecT3.row, codecT3.row, codecT3.row,
    codecT3.row, codecT3.row, codecT3.row, codecT3.row, codecT3.row, codecT3.row, codecT3.row, codecT3.row, codecT3.row, codecT3.row, codecT3.row,
    codecT3.row, codecT3.row⟩

theorem rowsControl_writeBack : ∀ row ∈ rowsControl, WritesBack 0 row := by
  rw [← List.forall_iff_forall_mem]
  exact ⟨codecTB.row, codecTB.row, codecTB.row, codecTB.row, codecT3.row, codecTM.row, codecT3.row, codecTB.row⟩

theorem rowsMem_writeBack : ∀ row ∈ rowsMem, WritesBack 0 row := by
  rw [← List.forall_iff_forall_mem]
  exact ⟨writesBack_ite codecT3.row codecTM.row, writesBack_ite codecT3.row codecTM.row, codecTM.row, codecTM.row, codecTX.row, codecTX.row,
    codecTX.row, codecTM.row, codecTM.row⟩

theorem rowsTask_writeBack : ∀ row ∈ rowsTask, WritesBack 0 row := by
  rw [← List.forall_iff_forall_mem]
  exact ⟨codecTB.row, codecT3.row, codecT3.row, codecT3.row, codecT3.row, codecT3.row, codecT3.row, codecTW.row, codecTX.row, codecTX.row,
    codecTM.row, codecTM.row, codecTM.row, codecT3.row⟩

theorem rowsEngine_writeBack : ∀ row ∈ rowsEngine, WritesBack 0 row := by
  rw [← List.forall_iff_forall_mem]
  exact ⟨codecTX.row, codecTX.row, codecTX.row, codecTX.row, codecTX.row, codecTX.row, codecTX.row, codecTX.row, codecTX.row, codecTX.row,
    codecTX.row, codecTX.row, writesBack_ite codecTX.row codecTX.row, writesBack_ite codecTX.row codecTX.row, codecTX.row⟩

theorem rowsTable_writeBack : ∀ row ∈ rowsTable, WritesBack 0 row := by
  rw [← List.forall_iff_forall_mem]
  exact ⟨writesBack_ite codecTX.row codecTX.row, codecTX.row, writesBack_ite codecTX.row codecTX.row, codecTX.row, codecTX.row, codecTX.row,
    writesBack_ite codecTX.row codecTX.row, codecTX.row, codecTX.row, codecTX.row, codecTX.row, codecTX.row,
    writesBack_ite codecTX.row (writesBack_ite codecTX.row (writesBack_ite codecTX.row codecTX.row)), codecTX.row, codecTI.row, codecT3.row,
    codecTI.row, codecTX.row, codecTM.row, codecTM.row, codecTM.row, codecT3.row, codecTM.row, codecTM.row⟩

theorem rowsNode_writeBack : ∀ row ∈ rowsNode, WritesBack 1 row := by
  rw [← List.forall_iff_forall_mem]
  exact ⟨codecNW.row, codecNW.row, codecNW.row, codecNW.row, codecNW.row, codecNW.row, codecNW.row, writesBack_ite codecNW.row codecNW.row,
    codecNW.row, codecNW.row, codecNW.row, codecNW.row, codecNW.row, codecNW.row, codecNW.row, codecNW.row, codecNW.row, codecNW.row, codecNW.row,
    codecNW.row, codecNW.row, codecNW.row, codecNW.row, codecNW.row, codecNW.row, codecNW.row, codecNW.row, codecNW.row, codecNW.row, codecNW.row,
    codecNW.row, codecNW.row, codecNW.row, codecNW.row⟩

theorem threadRows_writeBack : ∀ row ∈ threadRows, WritesBack 0 row := by
  simp only [threadRows, List.forall_mem_append]
  exact ⟨⟨⟨⟨⟨⟨⟨rowsInt_writeBack, rowsReg_writeBack⟩, rowsFloat_writeBack⟩, rowsControl_writeBack⟩, rowsMem_writeBack⟩, rowsTask_writeBack⟩,
    rowsEngine_writeBack⟩, rowsTable_writeBack⟩

theorem mem_of_lookRow {rows : List (Nat × (W → Instr))} {op : Nat} {r : W → Instr} (found : lookRow rows op = some r) : (op, r) ∈ rows := by
  induction rows with
  | nil => cases found
  | cons row rows ih =>
    unfold lookRow at found
    split at found
    case isTrue same =>
      cases found
      exact same ▸ List.mem_cons_self
    case isFalse => exact List.mem_cons_of_mem _ (ih found)

theorem encode_of_rawThread {w : W} {i : Instr} (form : formOf w = 0) (raw : rawThread w = some i) : encode i = some w ∧ i.isThread = true := by
  obtain ⟨r, found, rfl⟩ := Option.map_eq_some_iff.mp raw
  exact threadRows_writeBack _ (mem_of_lookRow found) w rfl form

theorem encode_of_rawNode {w : W} {i : Instr} (form : formOf w = 1) (raw : rawNode w = some i) : encode i = some w := by
  unfold rawNode at raw
  split at raw
  case isTrue arith =>
    cases raw
    exact congrArg some (codecNW.writes w form)
  case isFalse =>
    split at raw
    case isTrue tile =>
      cases raw
      exact congrArg some (codecNW.writes w form)
    case isFalse =>
      obtain ⟨r, found, rfl⟩ := Option.map_eq_some_iff.mp raw
      exact (rowsNode_writeBack _ (mem_of_lookRow found) w rfl form).1

theorem encode_of_readsAs {w : W} {i : Instr} (reads : ReadsAs w i) : encode i = some w := by
  obtain ⟨form, raw⟩ | ⟨form, raw⟩ := reads
  · exact (encode_of_rawThread form raw).1
  · exact encode_of_rawNode form raw

/-! ### The opcode map reads what the encoder writes (R61) -/

theorem lookRow_append (a b : List (Nat × (W → Instr))) (op : Nat) : lookRow (a ++ b) op = (lookRow a op).or (lookRow b op) := by
  induction a with
  | nil => rfl
  | cons row a ih =>
    simp only [List.cons_append, lookRow]
    split
    · rfl
    · exact ih

/-- The row of a thread-form opcode, looked up in one group of opcodes after the other. -/
def threadRow (op : Nat) : Option (W → Instr) :=
  (lookRow rowsInt op).or <| (lookRow rowsReg op).or <| (lookRow rowsFloat op).or <| (lookRow rowsControl op).or <|
    (lookRow rowsMem op).or <| (lookRow rowsTask op).or <| (lookRow rowsEngine op).or (lookRow rowsTable op)

theorem lookRow_threadRows (op : Nat) : lookRow threadRows op = threadRow op := by
  simp only [threadRows, threadRow, lookRow_append, Option.or_assoc]

theorem Codec.opOf_enc {α : Type} {form : BitVec 1} {get : W → α} {enc : BitVec 8 → α → W} (codec : Codec form get enc) (op : BitVec 8) (x : α) :
    opOf (enc op x) = op.toNat := congrArg BitVec.toNat (codec.reads op x).1

/-- A thread-form word reads as what its row makes of the fields that were written. -/
theorem Codec.reads_row {α : Type} {get : W → α} {enc : BitVec 8 → α → W} (codec : Codec 0#1 get enc) {op : BitVec 8} {x : α} {w : W} {i : Instr}
    {r : W → Instr} (written : some (enc op x) = some w) (row : threadRow op.toNat = some r)
    (picks : get w = x → r w = i := by rintro rfl; rfl) : ReadsAs w i := by
  cases written
  obtain ⟨-, form, fields⟩ := codec.reads op x
  refine .inl ⟨form, ?_⟩
  rw [rawThread, codec.opOf_enc, lookRow_threadRows, row, Option.map_some, picks fields]

/-- A node-form word of R61's dataflow and match-network opcodes does too. -/
theorem reads_node {op : BitVec 8} {x : NW} {w : W} {i : Instr} {r : W → Instr} (written : some (encNW op x) = some w)
    (other : isArith op.toNat = false ∧ ¬(0xa0 ≤ op.toNat ∧ op.toNat ≤ 0xab)) (row : lookRow rowsNode op.toNat = some r)
    (picks : getNW w = x → r w = i := by rintro rfl; rfl) : ReadsAs w i := by
  cases written
  obtain ⟨-, form, fields⟩ := codecNW.reads op x
  obtain ⟨notArith, notTile⟩ := other
  refine .inr ⟨form, ?_⟩
  rw [rawNode, codecNW.opOf_enc, if_neg (by simp [notArith]), if_neg notTile, row, Option.map_some, picks fields]

theorem reads_arithNode {op : BitVec 8} {x : NW} {w : W} (written : some (encNW op x) = some w) (arith : isArith op.toNat = true) :
    ReadsAs w (.nodeArithFire op x) := by
  cases written
  obtain ⟨opcode, form, fields⟩ := codecNW.reads op x
  refine .inr ⟨form, ?_⟩
  rw [rawNode, codecNW.opOf_enc, if_pos arith, opcode, fields]

theorem reads_tileNode {op : BitVec 8} {x : NW} {w : W} (written : some (encNW op x) = some w) (tile : 0xa0 ≤ op.toNat ∧ op.toNat ≤ 0xab) :
    ReadsAs w (.tileNodeFire op x) := by
  cases written
  obtain ⟨opcode, form, fields⟩ := codecNW.reads op x
  have notArith : ¬isArith op.toNat = true := by
    simp only [isArith, Bool.or_eq_true, Bool.and_eq_true, decide_eq_true_eq]
    omega
  refine .inr ⟨form, ?_⟩
  rw [rawNode, codecNW.opOf_enc, if_neg notArith, if_pos tile, opcode, fields]

/-! ### The checks that tell the instructions of one opcode apart (R53, R61) -/

/-- Of checks that all hold, all but the last hold. -/
theorem checks_init {a b : Bool} (checks : (a && b) = true) : a = true := (Bool.and_eq_true_iff.mp checks).1

/-- And the last holds. -/
theorem checks_last {a : Bool} {p : Prop} [Decidable p] (checks : (a && decide p) = true) : p :=
  of_decide_eq_true (Bool.and_eq_true_iff.mp checks).2

/-- Bit 4 of FN marks the indexed form (R53). -/
theorem bit_fn_four (fn : BitVec 5) : bit fn.toNat 4 = decide (16 ≤ fn.toNat) := by
  revert fn
  decide

theorem reads_plain {op : BitVec 8} {x : TM} {w : W} {mk : TM → Instr} {indexed : W → Instr} (written : some (encTM op x) = some w)
    (row : threadRow op.toNat = some fun w => if bit (getT3 w).fn.toNat 4 = true then indexed w else mk (getTM w)) (fn : x.fn.toNat < 16) :
    ReadsAs w (mk x) := by
  refine codecTM.reads_row written row fun fields => ?_
  have same : (getT3 w).fn = x.fn := congrArg TM.fn fields
  simp [bit_fn_four, same, fields, Nat.not_le.mpr fn]

theorem reads_indexed {op : BitVec 8} {x : T3} {w : W} {mk : T3 → Instr} {plain : W → Instr} (written : some (encT3 op x) = some w)
    (row : threadRow op.toNat = some fun w => if bit (getT3 w).fn.toNat 4 = true then mk (getT3 w) else plain w) (fn : 16 ≤ x.fn.toNat) :
    ReadsAs w (mk x) := by
  refine codecT3.reads_row written row fun fields => ?_
  simp [bit_fn_four, fields, fn]

/-- The last case holds the events, which have no word, and REPEAT, which no alternative can name: its name is a word of Lean's own. -/
theorem readsAs_of_encode {i : Instr} {w : W} (wf : i.WF) (h : encode i = some w) : ReadsAs w i := by
  cases i with
  | add x | sub x | mul x | mulh x | div x | rem x | min x | max x | abs x | neg x | and x | or x | xor x | andn x | shl x | shr x | sar x
  | rol x | popc x | clz x | ctz x | cmp x | sel x | madd x | satn x | hash x | mov x | plog x | csrr x | csrw x | tsc x | qpeek x | qstat x
  | fadd x | fsub x | fmul x | fma x | fmin x | fmax x | fcmp x | frcp x | frsq x | fexp2 x | flog2 x | ftanh x | fsigm x | fclass x | fscale x
  | fcvt x | icvt x | bxpack x | bxunpk x | mxpack x | mxunpk x | scale x | unscale x | halt x | yield x | tend x | tabort x | tstamp x
  | tbarrier x | tdirect x | gvt x | cntrd x | eret x | idle x =>
    exact codecT3.reads_row h rfl
  | bfx x | bfi x | addi x | movi x | movhi x | trap x | brk x =>
    exact codecTI.reads_row h rfl
  | waita x | atom x | cas x | pref x | fence x | binit x | barr x | bwait x | ctxsave x | ctxrest x | tlbinv x | signal x | ptsync x =>
    exact codecTM.reads_row h rfl
  | br x | bri x | call x | ret x | spawn x | tspawn x =>
    exact codecTB.reads_row h rfl
  | wait x =>
    exact codecTW.reads_row h rfl
  | stb x | stm x | stred x | waitm x | waitt x | xcopy x | xgath x | xscat x | xcoll x | xtask x | xsend x | xckpt x | xcancel x | wmassert x
  | wmretract x | wmmodify x | cssel x | rload x | dclose x | dunbind x | dstat x | ddesc x | gstop x | gsnap x | grest x | gbank x | gpart x
  | freshet x | msgi x =>
    exact codecTX.reads_row h rfl
  | lea x =>
    have fn : x.fn = 0 := checks_last (checks_init (checks_init (checks_init (checks_init wf))))
    exact reads_plain h rfl (by simp [fn])
  | ld x | st x =>
    have fn : x.fn.toNat < 8 := checks_last (checks_init (checks_init (checks_init (checks_init wf))))
    exact reads_plain h rfl (by omega)
  | leaIndexed x =>
    have fn : x.fn = 16 := checks_last (checks_init (checks_init wf))
    exact reads_indexed h rfl (by simp [fn])
  | ldIndexed x | stIndexed x => exact reads_indexed h rfl (checks_last (checks_init (checks_init (checks_init wf))))
  | dopen x | dopenWait x =>
    have fn : x.fn = _ := checks_last (checks_init (checks_init (checks_init (checks_init (checks_init wf)))))
    exact codecTX.reads_row h rfl fun fields => by simp [fields, fn]
  | csinfoSummary x | csinfoEntry x | csclrAll x | csclrRule x | dbind x | dbindSet x | glaunch x | glaunchDelta x | gqueryStatus x | gquerySize x
  | gquerySpoil x | gqueryDump x =>
    have cls : x.cls = _ := checks_last (checks_init wf)
    exact codecTX.reads_row h rfl fun fields => by simp [fields, cls]
  | steer x | merge x | gate x | fcomp x | delay x | accum x | sink x | src x | tagset x | tagget x | route x | bound x | agen x | mload x
  | mstore x | rmw x | merge2 x | lut6 x | fsm x | falloc x | ffree x | chan x | weir x | expert x | topk x | spill x | alpha x | joinb x
  | negj x | memb x | term x | score x =>
    exact reads_node h ⟨rfl, by decide⟩ rfl
  | gen x | genTrig x =>
    have fn : x.fn = _ := checks_last (checks_init wf)
    exact reads_node h ⟨rfl, by decide⟩ rfl fun fields => by simp [fields, fn]
  | nodeArithFire op x => exact reads_arithNode h (checks_init (checks_init (checks_init (checks_init wf))))
  | tileNodeFire op x =>
    have tile : (decide _ && decide _) = true := checks_init (checks_init (checks_init (checks_init (checks_init (checks_init wf)))))
    exact reads_tileNode h ⟨of_decide_eq_true (checks_init tile), checks_last tile⟩
  | _ => cases h <;> exact reads_node rfl ⟨rfl, by decide⟩ rfl (congrArg Instr.repeat)

/-! ### The obligation -/

/-- Settles O50: the decoder accepts what the form of a word reads from it where that is well-formed, and reading and writing are inverse. -/
theorem decodeOfEncode : Obligations.DecodeOfEncode := by
  unfold Obligations.DecodeOfEncode
  refine ⟨fun i w wf written => ?decodes, fun w i decodes => ?encodes⟩
  case decodes => exact decodeWord_eq_ok_iff.mpr ⟨readsAs_of_encode wf written, wf⟩
  case encodes =>
    obtain ⟨reads, wf⟩ := decodeWord_eq_ok_iff.mp decodes
    exact ⟨wf, encode_of_readsAs reads⟩

end Sys2Proof.Machine
end

section
/-! PROOFS. The predicate of a word, and words that break their encoding (spec 03_encoding R55, R62). -/
open Sys2Proof Sys2Proof.Machine

namespace Sys2Proof.Machine

/-! ### The predicate field (R55) -/

/-- PG is the predicate of an instruction: the reserved value is illegal, and a predicate that reads false skips the word. -/
def Predicated (pg : BitVec 4) (i : Instr) : Prop := (pg = 8 → legal i = false) ∧ ∀ s, predTrue pg s.me = false → exec i s = .next (advance s)

/-- PG stands in bits 49:46 of every thread-form format. -/
theorem Codec.predicated {α : Type} {get : W → α} {enc : BitVec 8 → α → W} (codec : Codec 0#1 get enc) (pg : α → BitVec 4) {op : BitVec 8}
    {x : α} {w : W} {mk : α → Instr} (written : some (enc op x) = some w)
    (skips : ∀ s, (!predTrue (pg x) s.me) = true → exec (mk x) s = .next (advance s))
    (stands : ∀ w, pg (get w) = w.extractLsb' 46 4 := by intro; rfl) (reserved : ∀ x, pg x = 8 → legal (mk x) = false := by rintro ⟨⟩ rfl; rfl) :
    Predicated (w.extractLsb' 46 4) (mk x) := by
  cases written
  rw [← stands, (codec.reads op x).2.2]
  exact ⟨reserved x, fun s skipped => skips s (by rw [skipped]; rfl)⟩

/-- A BRK that is skipped goes to no debug port (R340). -/
theorem execBrk_skip {x : TI} {s : State} (skipped : (!predTrue x.pg s.me) = true) : execBrk x s = .next (advance s) := by
  have stays : toPort x.pg s = s := if_neg (by simpa using fun _ => skipped)
  rw [execBrk, stays]
  exact if_pos skipped

/-- Every thread-form word but BRK runs in `runBody` as it stands, which asks the predicate first: its first branch is the skip. -/
theorem predicated_of_isThread {i : Instr} {w : W} (thread : i.isThread = true) (h : encode i = some w) : Predicated (w.extractLsb' 46 4) i := by
  cases i with
  | add x | sub x | mul x | mulh x | div x | rem x | min x | max x | abs x | neg x | and x | or x | xor x | andn x | shl x | shr x | sar x
  | rol x | popc x | clz x | ctz x | cmp x | sel x | madd x | satn x | hash x | mov x | leaIndexed x | plog x | csrr x | csrw x | tsc x
  | qpeek x | qstat x | fadd x | fsub x | fmul x | fma x | fmin x | fmax x | fcmp x | frcp x | frsq x | fexp2 x | flog2 x | ftanh x | fsigm x
  | fclass x | fscale x | fcvt x | icvt x | bxpack x | bxunpk x | mxpack x | mxunpk x | scale x | unscale x | halt x | yield x | ldIndexed x
  | stIndexed x | tend x | tabort x | tstamp x | tbarrier x | tdirect x | gvt x | cntrd x | eret x | idle x =>
    exact codecT3.predicated T3.pg h fun _ skipped => if_pos skipped
  | bfx x | bfi x | addi x | movi x | movhi x | trap x =>
    exact codecTI.predicated TI.pg h fun _ skipped => if_pos skipped
  | lea x | waita x | ld x | st x | atom x | cas x | pref x | fence x | binit x | barr x | bwait x | ctxsave x | ctxrest x | tlbinv x | signal x
  | ptsync x =>
    exact codecTM.predicated TM.pg h fun _ skipped => if_pos skipped
  | br x | bri x | call x | ret x | spawn x | tspawn x =>
    exact codecTB.predicated TB.pg h fun _ skipped => if_pos skipped
  | wait x =>
    exact codecTW.predicated TW.pg h fun _ skipped => if_pos skipped
  | stb x | stm x | stred x | waitm x | waitt x | xcopy x | xgath x | xscat x | xcoll x | xtask x | xsend x | xckpt x | xcancel x | wmassert x
  | wmretract x | wmmodify x | cssel x | csinfoSummary x | csinfoEntry x | csclrAll x | csclrRule x | rload x | dopen x | dopenWait x | dclose x
  | dbind x | dbindSet x | dunbind x | dstat x | ddesc x | glaunch x | glaunchDelta x | gstop x | gsnap x | grest x | gbank x | gpart x
  | gqueryStatus x | gquerySize x | gquerySpoil x | gqueryDump x | freshet x | msgi x =>
    exact codecTX.predicated TX.pg h fun _ skipped => if_pos skipped
  | brk x => exact codecTI.predicated TI.pg h fun _ => execBrk_skip
  | _ => cases thread

theorem bit_pg_three (pg : BitVec 4) : bit pg.toNat 3 = decide (8 ≤ pg.toNat) := by
  revert pg
  decide

/-- Bit 3 of PG inverts the predicate that the other bits name. -/
theorem predTrue_eq (pg : BitVec 4) (t : Thread) : predTrue pg t = (t.rp (pg.toNat % 8) != decide (8 ≤ pg.toNat)) := by
  rw [predTrue, bit_pg_three]

/-! ### Words that break their encoding (R55, R62) -/

theorem decodeThread_reserved {w : W} (reserved : w.extractLsb' 46 4 = 8) : ∃ e, decodeThread w = .error e := by
  cases decodes : decodeThread w with
  | error e => exact ⟨e, rfl⟩
  | ok i =>
    obtain ⟨form, raw, wf⟩ := decodeThread_eq_ok_iff.mp decodes
    obtain ⟨written, thread⟩ := encode_of_rawThread form raw
    have refused : legal i = false := (predicated_of_isThread thread written).1 reserved
    exact absurd wf (by simp [Instr.WF, refused])

theorem exec_threadInstr_illegal {w : W} {e : DecodeErr} (refused : decodeThread w = .error e) (s : State) :
    exec (threadInstr w) s = .next (takeTrap s.cur cILLEGAL s.me.pc w s) := by
  rw [threadInstr_of_illegal (by simp [refused])]
  rfl

/-! ### The obligation -/

/-- Settles O60: the frame of a thread-form word asks the predicate before anything else, and a word that does not decode is the row that traps. -/
theorem predicateRulesOfR55 : Obligations.PredicateRulesOfR55 := by
  unfold Obligations.PredicateRulesOfR55
  exact ⟨fun pg t => ⟨predTrue_eq pg t, rfl⟩, fun i w s thread written skipped => (predicated_of_isThread thread written).2 s skipped,
    fun w reserved => decodeThread_reserved reserved, fun w s e refused => exec_threadInstr_illegal refused s⟩

end Sys2Proof.Machine
end

section
/-! PROOFS. Words that the spec works out (spec 03_encoding R48, R51, R58, R62). -/
open Sys2Proof Sys2Proof.Machine

namespace Sys2Proof.Machine

/-- Settles O49: each word is a literal, and the decoder runs on it. -/
theorem specWordsDecode : Obligations.SpecWordsDecode := by
  unfold Obligations.SpecWordsDecode
  decide +kernel

end Sys2Proof.Machine
end

section
/-! PROOFS. Register words (spec 04_registers R75, R84, 03_encoding R53). -/
open Sys2Proof Sys2Proof.Machine

namespace Sys2Proof.Machine

theorem srcMov_ok {sp : Spec} {s : State} {a : W}
    (source : if isH sp = true then a = w64 ((s.me.rh (sp.toNat - 88)).toNat % 4096) else srcV s sp = .ok a) : srcMov s sp = .ok a := by
  unfold srcMov
  split
  case isTrue handle => rw [(if_pos handle).mp source]
  case isFalse value => exact (if_neg value).mp source

theorem execMov_writes {x : T3} {s s1 : State} {a : W} (issues : Issues x.pg [x.a] [x.d] s) (free : needQ [x.d, x.a] s = .ok ())
    (source : if isH x.a = true then a = w64 ((s.me.rh (x.a.toNat - 88)).toNat % 4096) else srcV s x.a = .ok a)
    (put : putV x.d a (deqAll [x.a] s) = .ok s1) : execMov x s = .next (advance s1) :=
  issue_ok issues ((bind_of_ok free _).trans ((bind_of_ok (srcMov_ok source) _).trans put))

theorem execMovi_writes {x : TI} {s s1 : State} (issues : Issues x.pg [] [x.d] s) (free : needQ [x.d] s = .ok ())
    (put : putV x.d (wInt (sext x.imm.toNat 32)) s = .ok s1) : execMovi x s = .next (advance s1) :=
  issue_ok issues ((bind_of_ok free _).trans put)

theorem execMovhi_writes {x : TI} {s s1 : State} (issues : Issues x.pg [x.d] [x.d] s)
    (put : putV x.d (w64 (x.imm.toNat * 2 ^ 32 + (s.me.rg x.d.toNat).toNat % 2 ^ 32)) s = .ok s1) : execMovhi x s = .next (advance s1) :=
  issue_ok issues put

theorem execLea_writes {x : TM} {s s1 : State} (issues : Issues x.pg [x.a] [x.d] s) (free : needQ [x.d] s = .ok ())
    (put : putV x.d (w64 (addrTM x s)) s = .ok s1) : execLea x s = .next (advance s1) :=
  issue_ok issues ((bind_of_ok free _).trans put)

theorem execLeaIndexed_writes {x : T3} {s s1 : State} (issues : Issues x.pg [x.a, x.b] [x.d] s) (free : needQ [x.d] s = .ok ())
    (put : putV x.d (w64 (addrT3 x s)) s = .ok s1) : execLeaIndexed x s = .next (advance s1) :=
  issue_ok issues ((bind_of_ok free _).trans put)

section
variable {x : T3} {s s1 : State} (issues : Issues x.pg [] [x.d] s)
include issues

theorem execCsrr_writes (free : needQ [x.d] s = .ok ()) (flags : needFlags x.a.toNat s = .ok ())
    (put : putV x.d (sysRead s s.cur x.a.toNat) s = .ok s1) : execCsrr x s = .next (advance s1) :=
  issue_ok issues ((bind_of_ok free _).trans ((bind_of_ok flags _).trans put))

theorem execTsc_writes (free : needQ [x.d] s = .ok ()) (loads : s.me.l = 0) (stores : s.me.s = 0) (put : putV x.d (w64 s.gtsc) s = .ok s1) :
    execTsc x s = .next (advance s1) :=
  issue_ok issues ((bind_of_ok free _).trans ((if_pos ⟨loads, stores⟩).trans put))

theorem execQpeek_writes {h : Tok} (free : needQ [x.a] s = .ok ()) (head : qHead s x.a = .ok h) (put : putV x.d h.v s = .ok s1) :
    execQpeek x s = .next (advance s1) :=
  issue_ok issues ((bind_of_ok free _).trans ((bind_of_ok head _).trans put))

theorem execQstat_writes (put : putV x.d (qStatus s s.cur (qNo x.a)) s = .ok s1) : execQstat x s = .next (advance s1) :=
  issue_ok issues put

end

/-- Settles O6: each word issues, its operands are read, and its value goes to D, by the lemma above about it. -/
theorem registerWordsMove : Obligations.RegisterWordsMove := by
  unfold Obligations.RegisterWordsMove
  exact ⟨fun _ _ _ _ => execMov_writes, fun _ _ _ => execMovi_writes, fun _ _ _ => execMovhi_writes, fun _ _ _ => execLea_writes,
    fun _ _ _ => execLeaIndexed_writes, fun _ _ _ issues => ⟨execCsrr_writes issues, execTsc_writes issues, fun _ => execQpeek_writes issues,
      execQstat_writes issues⟩⟩

end Sys2Proof.Machine
end

section
/-! PROOFS. Exceptions are taken and left (spec 03_encoding R62, 17_faults R325, R328, R340). -/
open Sys2Proof Sys2Proof.Machine

namespace Sys2Proof.Machine

/-! ### TRAP, BRK and ERET (R340) -/

theorem execTrap_traps {x : TI} {s : State} (issues : Issues x.pg [] [] s) :
    execTrap x s = .next (takeTrap s.cur cTRAP s.me.pc (w64 x.imm.toNat) s) := issueJump_trap issues rfl

/-- A BRK that issues goes to the debug port exactly where it is open. -/
theorem execBrk_traps {x : TI} {s : State} (issues : Issues x.pg [] [] s) :
    execBrk x s = .next (takeTrap s.cur cBRK s.me.pc (w64 x.imm.toNat)
      (if s.debugOpen = true then { s with well := { s.well with breaks := s.cur :: s.well.breaks } } else s)) := by
  rw [execBrk, toPort, issues.1, Bool.and_true]
  split
  · refine issueJump_trap ?_ rfl
    exact issues
  · exact issueJump_trap issues rfl

/-- A trap whose xval the spec leaves open takes a free value (log 2). -/
theorem issueJump_trapOpen {pg : BitVec 4} {srcs dsts : List Spec} {body : Body} {s : State} {c : Nat} (issues : Issues pg srcs dsts s)
    (stops : body s = .error (.trapOpen c)) :
    issueJump pg srcs dsts body s = .next (takeTrap s.cur c s.me.pc (Config.freeValue s.fresh) { s with fresh := s.fresh + 1 }) := by
  rw [issueJump, runBody_issues issues, stops]

theorem mayReturn {t : Thread} (allowed : t.hnd = true ∨ t.prv = true) : ¬(t.hnd = false ∧ t.prv = false) := by
  rintro ⟨noHandler, user⟩
  simp [noHandler, user] at allowed

section
variable {x : T3} {s : State} (issues : Issues x.pg [] [] s)
include issues

theorem execEret_returns (allowed : s.me.hnd = true ∨ s.me.prv = true) (aligned : s.me.sys.xpc.toNat % 8 = 0) :
    execEret x s = .next (s.onMe fun t => { t with hnd := false, pc := t.sys.xpc }) :=
  issueJump_ok issues ((if_neg (mayReturn allowed)).trans (if_neg (not_not.mpr aligned)))

theorem execEret_unprivileged (noHandler : s.me.hnd = false) (user : s.me.prv = false) :
    execEret x s = .next (takeTrap s.cur cPRIV s.me.pc (Config.freeValue s.fresh) { s with fresh := s.fresh + 1 }) :=
  issueJump_trapOpen issues (if_pos ⟨noHandler, user⟩)

theorem execEret_misaligned (allowed : s.me.hnd = true ∨ s.me.prv = true) (misaligned : s.me.sys.xpc.toNat % 8 ≠ 0) :
    execEret x s = .next (takeTrap s.cur cALIGN s.me.pc (Config.freeValue s.fresh) { s with fresh := s.fresh + 1 }) :=
  issueJump_trapOpen issues ((if_neg (mayReturn allowed)).trans (if_pos misaligned))

end

/-! ### The four resolutions (R328) -/

section
variable {tid : Nat} {s : State} (trapped : (s.th tid).st = .trapped) (unheld : portHolds s tid = false)
include trapped unheld

theorem execTrapResume_resumes : execTrapResume tid s = .next (s.onTh tid fun t => { t with st := .runnable, pc := alignPc t.sys.xpc }) :=
  if_pos ⟨trapped, unheld⟩

theorem execTrapSkip_skips : execTrapSkip tid s = .next (s.onTh tid fun t => { t with st := .runnable, pc := alignPc t.sys.xpc + 8 }) :=
  if_pos ⟨trapped, unheld⟩

theorem execTrapHandler_enters (handler : hvecOf s tid ≠ 0) (outside : (s.th tid).hnd = false) :
    execTrapHandler tid s = .next (s.onTh tid fun t => { t with st := .runnable, pc := alignPc (hvecOf s tid), hnd := true }) :=
  if_pos ⟨trapped, unheld, handler, outside⟩

theorem execTrapEnd_halts (noTask : s.taskOf tid = none) :
    execTrapEnd tid s = .next (s.onTh tid fun t => { t with st := .halted, why := .none }) := by
  refine (if_pos ⟨trapped, unheld⟩).trans ?_
  rw [noTask]

section
variable {k : Task} (task : s.taskOf tid = some k)
include task

theorem execTrapEnd_commits (irrev : k.irrev = true) :
    execTrapEnd tid s = .next (s.onTh tid fun t => { t with st := .stalled, why := .commit none }) := by
  refine (if_pos ⟨trapped, unheld⟩).trans ?_
  rw [task]
  exact if_pos irrev

theorem execTrapEnd_discards (discardable : k.irrev = false) :
    execTrapEnd tid s = .next ((match k.firing with
      | some e => removeEntry (discardTask (s.onTh tid dropStores) k) e
      | none => discardTask (s.onTh tid dropStores) k).onTh tid fun t => { t with st := .halted, why := .none }) := by
  refine (if_pos ⟨trapped, unheld⟩).trans ?_
  rw [task]
  exact if_neg (by simp [discardable])

end

end

/-- Settles O21: each word that raises or ends an exception, and each resolution, has the effect of the lemma above about it. -/
theorem exceptionsAreTaken : Obligations.ExceptionsAreTaken := by
  unfold Obligations.ExceptionsAreTaken
  refine ⟨?raised, fun w s => rfl, ?returns, ?resolved⟩
  case raised => exact fun x s issues => ⟨execTrap_traps issues, execBrk_traps issues⟩
  case returns => exact fun x s issues => ⟨execEret_returns issues, execEret_unprivileged issues, execEret_misaligned issues⟩
  case resolved =>
    exact fun tid s trapped unheld => ⟨execTrapResume_resumes trapped unheld, execTrapSkip_skips trapped unheld,
      execTrapHandler_enters trapped unheld, execTrapEnd_halts trapped unheld,
      fun k task => ⟨execTrapEnd_commits trapped unheld task, execTrapEnd_discards trapped unheld task⟩⟩

end Sys2Proof.Machine
end

section
/-! PROOFS. Arithmetic nodes fire (spec 03_encoding R59, 05_integer R87, R88, R94, R96, 07_float R124, R134, 12_nodes R219, R220). -/
open Sys2Proof Sys2Proof.Machine

namespace Sys2Proof.Machine

/-- With space at its targets a firing answers the state after it. -/
theorem done_eq_sentFrom {c : Ctx} {s : State} {i : Inv} {outs : List Emit} (space : canSend s i c.n c.nd c.tag outs = true) :
    c.done s i outs = some (sentFrom c s i outs) := if_pos space

/-- A node's word that consumes fields and sends fires so. -/
theorem fires_of_pass {e : Instr} {s : State} {c : Ctx} {f : Ctx → Option State} {fs : List Nat} {outs : List Emit} (ctx : nodeCtx s = some c)
    (runs : exec e s = fire s f) (passes : f c = c.pass fs outs) : Fires e s c s (taken c fs) outs := by
  obtain rfl := nodeCtx_s ctx
  intro clean space
  rw [runs]
  exact fire_ok ctx clean (passes.trans (done_eq_sentFrom space))

theorem arithF_passes {c : Ctx} (present : ∀ f ∈ arithFields c.nd.op, c.has f = true) :
    let v := ((if c.nd.op < 0x30 then arithInt c.nd.op (c.lit % 128) else arithFlt c.nd.op (c.lit % 128)) c.fn (c.lit / 128 * 4096) (c.val 0)
      (c.val 1) (c.val 2)).1
    arithF c = c.pass (arithFields c.nd.op)
      [⟨none, ⟨v, c.outTag c.tag v, resFlg (arithScl c.nd.op (c.flg 0)) ((arithFields c.nd.op).map c.flg), 0⟩⟩] :=
  if_neg (by simpa using present)

/-- The integer opcodes stand in the order of R87 and R88. -/
theorem integerResults_getElem? {op : Nat} (listed : op ≤ 0x14) (cimm fn md : Nat) (a b c : W) :
    (integerResults fn md a b)[op]?.map Prod.snd = some (arithInt op cimm fn md a b c) := by
  interval_cases op <;> rfl

theorem arithScl_of_le {op : Nat} (listed : op ≤ 0x14) (l : Flg) : arithScl op l = l.scl := by
  unfold arithScl
  rw [if_neg (by omega), if_neg (by omega)]

/-- Settles O24: a node whose fields are present consumes them and sends the value of its opcode; opcodes 00 to 14 are the first of the
integer results. -/
theorem arithNodesFire : Obligations.ArithNodesFire := by
  unfold Obligations.ArithNodesFire
  refine ⟨fun op w s c ctx present => fires_of_pass ctx rfl (arithF_passes present), ?integer⟩
  intro op w s c e ctx present listed result
  have value : arithInt c.nd.op (c.lit % 128) c.fn (c.lit / 128 * 4096) (c.val 0) (c.val 1) (c.val 2) = e.2 := by
    have found := integerResults_getElem? listed (c.lit % 128) c.fn (c.lit / 128 * 4096) (c.val 0) (c.val 1) (c.val 2)
    rw [result] at found
    exact (Option.some.inj found).symm
  have passes := arithF_passes present
  rw [if_pos (by omega), value, arithScl_of_le listed] at passes
  exact fires_of_pass ctx rfl passes

end Sys2Proof.Machine
end

section
/-! PROOFS. Compare words and CSRW (spec 04_registers R75 to R79, R84, 05_integer R91, 07_float R127). -/
open Sys2Proof Sys2Proof.Machine

namespace Sys2Proof.Machine

/-! ### CMP, FCMP and PLOG (R84, R91, R127) -/

theorem compareT3_writes {f : Nat → Nat → Nat → W → W → Bool × Nat} {x : T3} {s : State} {a b : W} (issues : Issues x.pg [x.a, x.b] [] s)
    (free : needQ [x.a, x.b] s = .ok ()) (readA : srcV s x.a = .ok a) (readB : srcV s x.b = .ok b) :
    let r := f x.fn.toNat x.md.toNat x.c.toNat a b
    compareT3 f x s = .next (advance ((deqAll [x.a, x.b] s).onMe fun t => (t.wp (x.d.toNat - 64) r.1).orFlags r.2)) :=
  issue_ok issues ((bind_of_ok free _).trans ((bind_of_ok readA _).trans (bind_of_ok readB _)))

theorem execPlog_writes {x : T3} {s : State} (issues : Issues x.pg [] [] s) :
    execPlog x s = .next (advance (s.onMe fun t =>
      t.wp (x.d.toNat - 64) (plogOp x.fn.toNat (s.me.rp (x.a.toNat - 64)) (s.me.rp (x.b.toNat - 64))))) :=
  issue_ok issues rfl

/-- Settles O4: the three words issue, and their body writes the predicate that their comparison or function gives. -/
theorem compareWordsWritePredicate : Obligations.CompareWordsWritePredicate := by
  unfold Obligations.CompareWordsWritePredicate
  exact ⟨fun x s a b issues free readA readB => ⟨compareT3_writes issues free readA readB, compareT3_writes issues free readA readB⟩,
    fun x s issues => execPlog_writes issues⟩

/-! ### CSRW (R75 to R79) -/

section
variable {x : T3} {s : State} (issues : Issues x.pg [x.a] [] s) (free : needQ [x.a] s = .ok ())
include issues free

theorem execCsrw_writes {a : W} (read : srcV s x.a = .ok a) (flags : needFlags x.d.toNat s = .ok ())
    (mayWrite : sysPriv x.d.toNat = false ∨ s.me.prv = true) :
    execCsrw x s = .next (advance ((deqAll [x.a] s).onMe fun t => { t with
      sys := sysWrite t.sys x.d.toNat (if x.d.toNat = 119 then a &&& ~~~(postedNow s s.cur) else a) })) := by
  refine issue_ok issues ((bind_of_ok free _).trans ((if_neg ?_).trans ((bind_of_ok read _).trans (bind_of_ok flags _))))
  rcases mayWrite with plain | privileged
  · simp [plain]
  · simp [privileged]

theorem execCsrw_unprivileged (guarded : sysPriv x.d.toNat = true) (user : s.me.prv = false) :
    execCsrw x s = .next (takeTrap s.cur cPRIV s.me.pc (w64 x.d.toNat) s) :=
  issue_trap issues ((bind_of_ok free _).trans (if_pos (by simp [guarded, user])))

end

/-- Settles O7: CSRW writes one value or traps, by the two lemmas above; which value a specifier names is read off `sysWrite`. -/
theorem csrwWritesOneSystemValue : Obligations.CsrwWritesOneSystemValue := by
  unfold Obligations.CsrwWritesOneSystemValue
  exact ⟨fun x s a issues free => execCsrw_writes issues free, fun x s issues free => execCsrw_unprivileged issues free,
    fun y v => ⟨rfl, rfl, rfl, rfl, rfl, rfl, rfl, rfl, rfl, rfl, rfl⟩⟩

end Sys2Proof.Machine
end

section
/-! PROOFS. What stands after reset (spec 04_registers R70 to R77, 08_memories R139, 09_memory_ops R180, 16_counters R314). -/
open Sys2Proof Sys2Proof.Machine

namespace Sys2Proof.Machine

/-- Settles O53: at reset every table is empty, so each register, tile and partition is what its reset constant gives. -/
theorem resetValuesAreTheSpecs : Obligations.ResetValuesAreTheSpecs := by
  unfold Obligations.ResetValuesAreTheSpecs
  have register : ∀ tid n, (State.reset.th tid).rg n = 0 := fun tid n => by
    unfold Thread.rg
    split <;> rfl
  have predicate : ∀ tid n, 0 < n → (State.reset.th tid).rp n = false := fun tid n named => if_neg (by omega)
  have parts : partRF partReset = 16 ∧ partSP partReset = 40 ∧ partACC partReset = 8 := by decide
  have word : fld Sys.reset.pw 6 0 = 16 ∧ fld Sys.reset.pw 14 8 = 40 ∧ fld Sys.reset.pw 22 16 = 8 := by decide
  exact ⟨fun tid => ⟨register tid, rfl, predicate tid, rfl, rfl, rfl, rfl, rfl, rfl, rfl, rfl, rfl, word.1, word.2.1, word.2.2, rfl, rfl, rfl,
    rfl, rfl, rfl⟩, fun key => ⟨rfl, rfl, rfl, rfl, rfl⟩, fun core => parts, rfl, rfl, rfl, rfl, rfl⟩

end Sys2Proof.Machine
end

section
/-! PROOFS. Accesses complete (spec 04_registers R72, 09_memory_ops R165, 10_ordering R190). -/
open Sys2Proof Sys2Proof.Machine

namespace Sys2Proof.Machine

section
variable {tid k : Nat} {s : State} {e : Pend} (listed : (s.th tid).pend[k]? = some e) (ready : mayPerform (s.th tid).pend k = true)
include listed ready

theorem execLoadComplete_performs (load : e.kind.isL = true) (unbarred : e.kind.isS = true → s.barred tid = false) :
    execLoadComplete tid k s = .next (retire tid (setPend (performLoad s tid e).1 tid k (performLoad s tid e).2)) := by
  unfold execLoadComplete
  rw [listed]
  refine if_pos ?_
  cases store : e.kind.isS
  · simp [load, ready]
  · simp [load, ready, unbarred store]

theorem execStoreRetire_performs (store : e.kind.isS = true) (noLoad : e.kind.isL = false) (unbarred : s.barred tid = false) :
    execStoreRetire tid k s = .next (retire tid (setPend (performStore s tid e).1 tid k (performStore s tid e).2)) := by
  unfold execStoreRetire
  rw [listed]
  exact if_pos (by simp [store, noLoad, ready, unbarred])

end

/-- Settles O36: each event performs the access where R190 lets it and the barrier timestamp does not hold it, by the lemmas above. -/
theorem accessesComplete : Obligations.AccessesComplete := by
  unfold Obligations.AccessesComplete
  exact fun tid k s e listed ready => ⟨execLoadComplete_performs listed ready, execStoreRetire_performs listed ready⟩

end Sys2Proof.Machine
end

section
/-! PROOFS. Loads and stores issue (spec 04_registers R72, 09_memory_ops R165, R174, 16_counters R314). -/
open Sys2Proof Sys2Proof.Machine

namespace Sys2Proof.Machine

/-- Under 63 the counters L and S have room (R314). -/
theorem needRoom_l_ok {s : State} (room : s.me.l < 63) : needRoom 0 s = .ok () := if_neg (Nat.not_le.mpr room)
theorem needRoom_s_ok {s : State} (room : s.me.s < 63) : needRoom 1 s = .ok () := if_neg (Nat.not_le.mpr room)

section
variable {s s1 s2 : State} {t : Xl} {fn va scope : Nat} {dsp : Spec} (free : needQ [dsp] s = .ok ())
include free

theorem loadBody_issues {d : Nat} {acq : Bool} (mapped : xlate .read va (2 ^ (fn % 4)) s = .ok (s1, t)) (cached : needCached t.cached s = .ok ())
    (room : s.me.l < 63) (reserved : (if isQ dsp then (qSpace s1 dsp).map (fun _ => qReserve s1 dsp) else .ok s1) = .ok s2) :
    loadBody fn d va scope acq dsp s =
      .ok (pushPend { (Pend.mk0 .load fn d va (2 ^ (fn % 4)) [t.pa]).mapped t with scope := scope, acq := acq } s2) := by
  refine (bind_of_ok free _).trans ((bind_of_ok mapped _).trans ((bind_of_ok cached _).trans ((bind_of_ok (needRoom_l_ok room) _).trans ?_)))
  by_cases queue : isQ dsp = true
  · exact (if_pos queue).trans (bind_of_ok ((if_pos queue).symm.trans reserved) _)
  · exact (if_neg queue).trans (bind_of_ok ((if_neg queue).symm.trans reserved) _)

theorem storeBody_issues {rel : Bool} {v : W} (read : srcV s dsp = .ok v) (mapped : xlate .write va (2 ^ (fn % 4)) s = .ok (s1, t))
    (cached : needCached t.cached s = .ok ()) (room : s.me.s < 63) (lines : takeLines [s1.mem.key t.pa / 64] s1 = .ok s2) :
    storeBody fn va scope rel dsp s =
      .ok (pushPend { (Pend.mk0 .store fn 0 va (2 ^ (fn % 4)) [t.pa]).mapped t with scope := scope, rel := rel, data := v } (deqAll [dsp] s2)) :=
  (bind_of_ok free _).trans ((bind_of_ok read _).trans ((bind_of_ok mapped _).trans ((bind_of_ok cached _).trans
    ((bind_of_ok (needRoom_s_ok room) _).trans (bind_of_ok lines _)))))

end

/-- Settles O11: of both forms of LD and ST the body puts its access in the list, by the two lemmas above. -/
theorem loadsAndStoresIssue : Obligations.LoadsAndStoresIssue := by
  unfold Obligations.LoadsAndStoresIssue
  refine ⟨fun s s1 s2 t fn d va scope acq dsp free mapped cached room reserved => ⟨?load, ?loadIndexed⟩,
    fun s s1 s2 t fn va scope rel dsp v free read mapped cached room lines => ⟨?store, ?storeIndexed⟩⟩
  case load =>
    rintro x issues rfl rfl rfl rfl rfl rfl
    rw [exec_ld]
    exact issue_ok issues (loadBody_issues free mapped cached room reserved)
  case loadIndexed =>
    rintro x issues rfl rfl rfl rfl rfl rfl
    rw [exec_ldIndexed]
    exact issue_ok issues (loadBody_issues free mapped cached room reserved)
  case store =>
    rintro x issues rfl rfl rfl rfl rfl
    rw [exec_st]
    exact issue_ok issues (storeBody_issues free read mapped cached room lines)
  case storeIndexed =>
    rintro x issues rfl rfl rfl rfl rfl
    rw [exec_stIndexed]
    exact issue_ok issues (storeBody_issues free read mapped cached room lines)

end Sys2Proof.Machine
end

section
/-! PROOFS. Directory commands at issue (spec 04_registers R74, 13_tables R254, R256 to R260). -/
open Sys2Proof Sys2Proof.Machine

namespace Sys2Proof.Machine

section
variable {x : TX} {s : State} (outside : s.specul s.cur = none) (room : s.me.c < 63)
include outside room

theorem dirIssue_sends {checks : List (Acc × Nat × Nat × Nat)} (pass : needAll checks s = .ok ()) (m : Msg) :
    dirIssue checks m s = .ok (sendDir m s) :=
  (bind_of_ok (needIrrev_ok outside) _).trans ((bind_of_ok pass _).trans (bind_of_ok (needRoom_c_ok room) _))

section
variable (name : needAll [(.read, (s.me.rg x.a.toNat).toNat, 32, 8)] s = .ok ())
include name

/-- DOPEN marks its h register as awaited (R74, R257). -/
theorem execDopen_sends (issues : Issues x.pg [x.a] [] s) :
    execDopen x s = .next ((sendDir ((msgOf 0xc0 x s).withH x s) s).onMe fun t => { t with hpend := t.hpend ++ [x.b.toNat - 88] }) :=
  issueJump_ok issues (bind_of_ok (dirIssue_sends outside room name _) _)

theorem execDopenWait_parks (issues : Issues x.pg [x.a, x.a + 1] [] s) :
    let st := (sendDir { (msgOf 0xc0 x s).withH x s with b := s.me.rg (x.a.toNat + 1) } s).onMe fun t =>
      { t with hpend := t.hpend ++ [x.b.toNat - 88] }
    execDopenWait x s = .next (if inboxRoom s srcDir then st.onMe (parkOpen s.nextId s.me.pc) else st) :=
  issueJump_ok issues ((bind_of_ok (needIrrev_ok outside) _).trans ((bind_of_ok name _).trans (bind_of_ok (needRoom_c_ok room) _)))

theorem execDunbind_sends (issues : Issues x.pg [x.a] [] s) : execDunbind x s = .next (sendDir (msgOf 0xc3 x s) s) :=
  issueJump_ok issues (dirIssue_sends outside room name _)

theorem execDstat_sends (issues : Issues x.pg [x.a] [x.b] s) : execDstat x s = .next (sendDir (msgOf 0xc4 x s) s) :=
  issueJump_ok issues (dirIssue_sends outside room name _)

end

theorem execDclose_sends (issues : Issues x.pg [x.b] [] s) : execDclose x s = .next (sendDir ((msgOf 0xc1 x s).withH x s) s) :=
  issueJump_ok issues (dirIssue_sends outside room rfl _)

theorem execDbind_sends (pass : needAll [(.read, (s.me.rg x.a.toNat).toNat, 32, 8), (.read, (s.me.rg x.b.toNat).toNat, 64, 8)] s = .ok ())
    (issues : Issues x.pg [x.a, x.b] [] s) : execDbind x s = .next (sendDir (msgOf 0xc2 x s) s) :=
  issueJump_ok issues (dirIssue_sends outside room pass _)

/-- DBIND.set reads its list behind the thread's own stores to it, and what its records name is checked too (R254, R256). -/
theorem execDbindSet_sends {s1 : State} {xs : List Xl}
    (list : needAll [(.read, (s.me.rg x.a.toNat).toNat, 32 * (x.imm.toNat % 16 + 1), 8)] s = .ok ())
    (mapped : xlatesX .read (s.me.rg x.a.toNat).toNat (32 * (x.imm.toNat % 16 + 1)) s = .ok (s1, xs))
    (behind : cmdSettled s.me (xs.map Xl.pa) = true)
    (pass : needAll (listChecks (listRecs ((xs.map Xl.pa).map (s1.refresh (xs.map Xl.pa)).mem.rd) (x.imm.toNat % 16 + 1))) s = .ok ())
    (issues : Issues x.pg [x.a] [] s) : execDbindSet x s = .next (sendDir (msgOf 0xc2 x s) s) :=
  issueJump_ok issues ((bind_of_ok (needIrrev_ok outside) _).trans ((bind_of_ok list _).trans ((bind_of_ok mapped _).trans
    ((if_neg (by simp [behind])).trans (dirIssue_sends outside room pass _)))))

theorem execDdesc_sends (buffer : needAll [(.write, (s.me.rg x.a.toNat).toNat, 64, 64)] s = .ok ()) (issues : Issues x.pg [x.a, x.b] [] s) :
    execDdesc x s = .next (sendDir ((msgOf 0xc5 x s).withH x s) s) :=
  issueJump_ok issues (dirIssue_sends outside room buffer _)

end

/-- Settles O19: outside a task, with its operands checked and room in C, each command is sent, by the lemma above about it. -/
theorem directoryCommandsAreSent : Obligations.DirectoryCommandsAreSent := by
  unfold Obligations.DirectoryCommandsAreSent
  intro x s outside room a b sent wait
  refine ⟨fun name => ⟨?dopen, ?wait, ?dunbind, ?dstat⟩, ?dclose, ?dbind, fun s1 xs => ?set, ?ddesc⟩
  case dopen => exact execDopen_sends outside room name
  case wait => exact execDopenWait_parks outside room name
  case dunbind => exact execDunbind_sends outside room name
  case dstat => exact execDstat_sends outside room name
  case dclose => exact execDclose_sends outside room
  case dbind => exact execDbind_sends outside room
  case set => exact execDbindSet_sends outside room
  case ddesc => exact execDdesc_sends outside room

end Sys2Proof.Machine
end

section
/-! PROOFS. Tag, source and state nodes fire (spec 04_registers R81, R82, 12_nodes R219 to R221, R224, R228, R229, R234). -/
open Sys2Proof Sys2Proof.Machine

namespace Sys2Proof.Machine

/-- A node's word that consumes fields, changes its node state and sends fires so. -/
theorem fires_of_passSt {e : Instr} {s : State} {c : Ctx} {f : Ctx → Option State} {fs : List Nat} {g : NodeSt → NodeSt} {outs : List Emit}
    (ctx : nodeCtx s = some c) (runs : exec e s = fire s f) (passes : f c = c.passSt fs g outs) : Fires e s c s (takenSt c fs g) outs := by
  obtain rfl := nodeCtx_s ctx
  intro clean space
  rw [runs]
  exact fire_ok ctx clean (passes.trans (done_eq_sentFrom space))

/-- The flags of a result of one operand are that operand's end flags (R220). -/
theorem resFlg_singleton (scl : Bool) (f : Flg) : resFlg scl [f] = ⟨scl, f.eos, f.eor, false, false⟩ := by simp [resFlg]

/-- With both operands present no field change lets one flow on alone (R245). -/
theorem merge2Alone_none {c : Ctx} (left : c.has 0 = true) (right : c.has 1 = true) : merge2Alone c = none := by
  simp [merge2Alone, left, right]

section
variable {w : NW} {s : State} {c : Ctx} (ctx : nodeCtx s = some c)
include ctx

/-! ### TAGSET, TAGGET, BOUND, SRC and GEN (R219, R224) -/

theorem tagset_fires (left : c.has 0 = true) (right : c.has 1 = true) :
    Fires (.tagset w) s c s (taken c [0, 1]) [⟨none, { passTok c 0 [0, 1] with tag := laneTag c.base c.i.k (c.val 1).toNat }⟩] :=
  fires_of_pass ctx rfl (if_pos (by simp [left, right]))

theorem tagget_fires (left : c.has 0 = true) :
    let v := w64 ((c.tag + 65536 - c.base) % 65536)
    Fires (.tagget w) s c s (taken c [0]) [⟨none, ⟨v, c.outTag c.tag v, resFlg false [c.flg 0], 0⟩⟩] :=
  fires_of_pass ctx rfl (if_pos left)

theorem bound_fires (left : c.has 0 = true) : Fires (.bound w) s c s (taken c [0]) [⟨none, passTok c 0 [0]⟩] :=
  fires_of_pass ctx rfl (if_pos left)

theorem genTrig_fires (left : c.has 0 = true) :
    let cur := if c.st.busy then c.st.acc else c.val 0
    let rem := if c.st.busy then c.st.cnt else w.lit.toNat + 1
    let last := decide (rem = 1)
    Fires (.genTrig w) s c s (takenSt c (if last then [0] else []) fun x => { x with acc := cur + 1, cnt := rem - 1, busy := !last })
      [⟨none, ⟨cur, c.outTag c.tag cur, ⟨false, last && (c.flg 0).eos, last, false, false⟩, 0⟩⟩] :=
  fires_of_passSt ctx rfl (if_pos left)

theorem src_fires (unsent : c.st.sent = false) :
    let v := wInt (sext w.lit.toNat 13)
    Fires (.src w) s c s (takenSt c [] fun x => { x with sent := true, emits := x.emits + 1 })
      [⟨none, ⟨v, c.outTag (laneTag c.base c.i.k c.st.emits) v, ⟨false, decide (w.fn = 1), false, false, false⟩, 0⟩⟩] :=
  fires_of_passSt ctx rfl (if_neg (by simp [unsent]))

theorem gen_fires (more : c.st.cnt ≠ 0) :
    Fires (.gen w) s c s (takenSt c [] fun x => { x with acc := x.acc + 1, cnt := x.cnt - 1, emits := x.emits + 1 })
      [⟨none, ⟨c.st.acc, c.outTag (laneTag c.base c.i.k c.st.emits) c.st.acc, ⟨false, decide (c.st.cnt = 1), false, false, false⟩, 0⟩⟩] :=
  fires_of_passSt ctx rfl (if_neg more)

/-! ### DELAY (R82, R224) -/

section
variable (left : c.has 0 = true) (pushing : c.st.flush = false)
include left pushing

theorem delay_fills (short : c.st.line.length < w.lit.toNat % 32 + 1) :
    Fires (.delay w) s c s (takenSt c [0] fun x => { x with line := c.st.line ++ [c.tok 0], flush := (c.flg 0).ends }) [] := by
  refine fires_of_passSt ctx rfl ((if_neg (by simp [pushing])).trans ((if_pos left).trans ?_))
  have within : ¬ w.lit.toNat % 32 + 1 < (c.st.line ++ [c.tok 0]).length := by simp; omega
  dsimp only
  split
  case h_1 t rest line => exact if_neg within
  case h_2 line => simp at line

theorem delay_shifts {t : Tok} {rest : List Tok} (line : c.st.line = t :: rest) (full : w.lit.toNat % 32 + 1 ≤ c.st.line.length) :
    Fires (.delay w) s c s (takenSt c [0] fun x =>
      { x with line := rest ++ [c.tok 0], head := (x.head + 1) % (w.lit.toNat % 32 + 1),
               flush := (c.flg 0).ends && decide (rest ++ [c.tok 0] ≠ []) }) [⟨none, t⟩] := by
  refine fires_of_passSt ctx rfl ((if_neg (by simp [pushing])).trans ((if_pos left).trans ?_))
  have wider : w.lit.toNat % 32 + 1 < (t :: (rest ++ [c.tok 0])).length := by simp [line] at full ⊢; omega
  rw [line]
  exact if_pos wider

end

theorem delay_flushes (flushing : c.st.flush = true) {t : Tok} {rest : List Tok} (line : c.st.line = t :: rest) :
    Fires (.delay w) s c s (takenSt c [] fun x =>
      { x with line := rest, head := (x.head + 1) % (w.lit.toNat % 32 + 1), flush := decide (rest ≠ []) }) [⟨none, t⟩] := by
  refine fires_of_passSt ctx rfl ((if_pos flushing).trans ?_)
  rw [line]
  rfl

/-! ### ACCUM (R81, R224) -/

section
variable (left : c.has 0 = true)
include left

theorem accum_closes
    (close : ((c.flg 0).ends || (decide (w.lit.toNat % 1024 ≠ 0) && decide (c.st.cnt + 1 = w.lit.toNat % 1024))) = true) :
    let v := accumAdd c
    Fires (.accum w) s c s (takenSt c [0] fun x => { x with acc := 0, cnt := 0 })
      [⟨none, ⟨v, c.outTag c.tag v, ⟨false, (c.flg 0).eos, (c.flg 0).eor, false, false⟩, 0⟩⟩] := by
  rw [← resFlg_singleton]
  exact fires_of_passSt ctx rfl ((if_pos left).trans (if_pos close))

theorem accum_adds
    (goesOn : ((c.flg 0).ends || (decide (w.lit.toNat % 1024 ≠ 0) && decide (c.st.cnt + 1 = w.lit.toNat % 1024))) = false) :
    Fires (.accum w) s c s (takenSt c [0] fun x => { x with acc := accumAdd c, cnt := (x.cnt + 1) % 2 ^ 32 }) [] :=
  fires_of_passSt ctx rfl ((if_pos left).trans (if_neg (Bool.eq_false_iff.mp goesOn)))

/-! ### MERGE2, LUT6 and FSM (R228, R229) -/

/-- Both present: the match on their end flags has one branch for each clause (R228). -/
theorem merge2_fires (right : c.has 1 = true) :
    ((c.flg 0).ends = false → (c.flg 1).ends = false →
      let f := if keyLess w.fn.toNat (c.val 1) (c.val 0) then 1 else 0
      Fires (.merge2 w) s c s (taken c [f]) [⟨none, passTok c f [f]⟩]) ∧
    ((c.flg 0).ends = true → (c.flg 1).ends = false → Fires (.merge2 w) s c s (taken c [1]) [⟨none, passTok c 1 [1]⟩]) ∧
    ((c.flg 0).ends = false → (c.flg 1).ends = true → Fires (.merge2 w) s c s (taken c [0]) [⟨none, passTok c 0 [0]⟩]) ∧
    ((c.flg 0).ends = true → (c.flg 1).ends = true →
      Fires (.merge2 w) s c s (taken c [0, 1])
        [⟨none, ⟨0, c.outTag c.tag 0, ⟨(c.flg 0).scl, (c.flg 0).eos && (c.flg 1).eos, true, false, false⟩, 0⟩⟩]) := by
  have alone := merge2Alone_none left right
  refine ⟨?smaller, ?leftEnded, ?rightEnded, ?bothEnded⟩
  all_goals
    intro endL endR
    refine fires_of_pass ctx rfl ?_
    simp only [alone, left, right, endL, endR]
    rfl

theorem lut6_fires (right : c.has 1 = true) (pred : c.has 2 = true) :
    let v := lut6 c.nd.ext (c.val 0) (c.val 1) (c.val 2)
    Fires (.lut6 w) s c s (taken c [0, 1, 2]) [⟨none, ⟨v, c.outTag c.tag v, resFlg false [c.flg 0, c.flg 1, c.flg 2], 0⟩⟩] :=
  fires_of_pass ctx rfl (if_pos (by simp [left, right, pred]))

theorem fsm_fires :
    let b := bits w.lit.toNat 9 4
    let k := 4 * (4 * c.st.st + bits (c.val 0).toNat (b + 1) b)
    let next := bits (c.nd.ext.getD (k / 64) 0).toNat (k % 64 + 3) (k % 64)
    let v := w64 (next * 2 ^ 60 + (c.val 0).toNat % 2 ^ 60)
    Fires (.fsm w) s c s (takenSt c [0] fun x => { x with st := next, acc := c.val 0 })
      (if next ≠ c.st.st ∨ bit w.lit.toNat 10 = true then [⟨none, ⟨v, c.outTag c.tag v, resFlg false [c.flg 0], 0⟩⟩]
       else if (c.flg 0).ends = true then [⟨none, ⟨0, c.outTag c.tag v, resFlg (c.flg 0).scl [c.flg 0], 0⟩⟩] else []) := by
  intro b k next v
  refine fires_of_passSt ctx rfl ((if_pos left).trans (congrArg (c.passSt [0] _) ?_))
  have sends : (bit w.lit.toNat 10 || decide (next ≠ c.st.st)) = true ↔ next ≠ c.st.st ∨ bit w.lit.toNat 10 = true := by
    simp [or_comm]
  exact ite_congr (propext sends) (fun _ => rfl) fun _ => rfl

/-! ### TOPK (R234) -/

section
variable (gathering : c.st.flush = false)
include gathering

theorem topk_closes (close : (c.st.line ++ [c.tok 0]).length = (topkNM w.lit.toNat).2 ∨ (c.flg 0).ends = true) :
    Fires (.topk w) s c s (takenSt c [0] fun x =>
      { x with line := topkOut w.fn.toNat (topkNM w.lit.toNat).1 (c.st.line ++ [c.tok 0]), flush := true }) [] :=
  fires_of_passSt ctx rfl ((if_neg (by simp [gathering])).trans ((if_pos left).trans (if_pos close)))

theorem topk_gathers (short : (c.st.line ++ [c.tok 0]).length ≠ (topkNM w.lit.toNat).2) (unended : (c.flg 0).ends = false) :
    Fires (.topk w) s c s (takenSt c [0] fun x => { x with line := c.st.line ++ [c.tok 0] }) [] :=
  fires_of_passSt ctx rfl ((if_neg (by simp [gathering])).trans ((if_pos left).trans (if_neg (not_or.mpr ⟨short, by simp [unended]⟩))))

end

end

theorem topk_sends (flushing : c.st.flush = true) {t : Tok} {rest : List Tok} (line : c.st.line = t :: rest) :
    Fires (.topk w) s c s (takenSt c [] fun x => { x with line := rest, flush := decide (rest ≠ []) })
      [⟨none, ⟨t.v, c.outTag t.tag t.v, ⟨false, t.flg.eos, t.flg.eor, false, false⟩, 0⟩⟩] := by
  refine fires_of_passSt ctx rfl ((if_pos flushing).trans ?_)
  rw [line]
  rfl

end

/-! ### The obligations -/

/-- Settles O26: each node fires as the lemma above about it says. -/
theorem tagAndSourceNodesFire : Obligations.TagAndSourceNodesFire := by
  unfold Obligations.TagAndSourceNodesFire
  exact fun w s c ctx => ⟨tagset_fires ctx, fun left => ⟨tagget_fires ctx left, bound_fires ctx left, genTrig_fires ctx left⟩,
    src_fires ctx, gen_fires ctx⟩

/-- Settles O27: each node fires as the lemma above about its case says. -/
theorem stateNodesFire : Obligations.StateNodesFire := by
  unfold Obligations.StateNodesFire
  intro w s c ctx
  refine ⟨⟨?push, ?flush⟩, ?accum, ?merge, ?fsm, ⟨?gather, ?send⟩⟩
  case push => exact fun left pushing => ⟨delay_fills ctx left pushing, fun t rest => delay_shifts ctx left pushing⟩
  case flush => exact fun flushing t rest => delay_flushes ctx flushing
  case accum => exact fun left => ⟨accum_closes ctx left, accum_adds ctx left⟩
  case merge =>
    intro left right
    obtain ⟨smaller, leftEnded, rightEnded, bothEnded⟩ := merge2_fires (w := w) ctx left right
    exact ⟨smaller, leftEnded, rightEnded, bothEnded, lut6_fires ctx left right⟩
  case fsm => exact fsm_fires ctx
  case gather => exact fun left gathering => ⟨topk_closes ctx left gathering, topk_gathers ctx left gathering⟩
  case send => exact fun flushing t rest => topk_sends ctx flushing

end Sys2Proof.Machine
end

section
/-! PROOFS. The frame of words that compute a value (spec 04_registers R70, R71, R73, R76, 05_integer R85, R89, R91). -/
open Sys2Proof Sys2Proof.Machine

namespace Sys2Proof.Machine

/-! ### Which flags a word raises (R76) -/

/-- Of every thread's fflags no bit but those of a mask differs. -/
def FlagsKept (m : W) (s t : State) : Prop := ∀ tid, (t.th tid).sys.fflags ||| m = (s.th tid).sys.fflags ||| m

theorem flagsKept_of_sys (m : W) {s t : State} (h : ∀ tid, (t.th tid).sys.fflags = (s.th tid).sys.fflags) : FlagsKept m s t :=
  fun tid => by rw [h]

theorem flagsKept_of_threads (m : W) {s t : State} (h : t.threads = s.threads) : FlagsKept m s t :=
  flagsKept_of_sys m fun tid => by rw [State.th, State.th, h]

theorem flagsKept_refl (m : W) (s : State) : FlagsKept m s s := fun _ => rfl

theorem flagsKept_trans {m : W} {a b c : State} (h : FlagsKept m a b) (k : FlagsKept m b c) : FlagsKept m a c :=
  fun tid => (k tid).trans (h tid)

theorem fflags_of_flagsKept_zero {s t : State} (h : FlagsKept 0 s t) (tid : Nat) : (t.th tid).sys.fflags = (s.th tid).sys.fflags := by
  simpa using h tid

theorem flagsKept_onTh {m : W} (s : State) (u : Nat) {f : Thread → Thread} (h : ∀ t, (f t).sys.fflags ||| m = t.sys.fflags ||| m) :
    FlagsKept m s (s.onTh u f) := by
  intro tid
  by_cases same : tid = u
  · rw [same, th_onTh_self]
    exact h _
  · rw [th_onTh_ne s f same]

theorem flagsKept_qDeq (m : W) (s : State) (sp : Spec) : FlagsKept m s (qDeq s sp) := by
  unfold qDeq
  split
  · exact flagsKept_refl m s
  · split
    · exact flagsKept_refl m s
    · split
      · exact flagsKept_refl m s
      · dsimp only
        split
        · exact flagsKept_trans (flagsKept_of_threads m rfl) (flagsKept_onTh _ _ fun _ => rfl)
        · exact flagsKept_of_threads m rfl

theorem flagsKept_deqAll (m : W) (sps : List Spec) (s : State) : FlagsKept m s (deqAll sps s) := by
  unfold deqAll
  split
  · exact flagsKept_refl m s
  · refine foldl_keeps (P := FlagsKept m s) (fun t sp kept => flagsKept_trans kept (flagsKept_qDeq m t sp)) _ ?_
    exact flagsKept_onTh _ _ fun _ => rfl

theorem flagsKept_putV (m : W) {d : Spec} {v : W} {s t : State} (put : putV d v s = .ok t) : FlagsKept m s t := by
  unfold putV at put
  split at put
  · split at put
    · cases put
      have reserved : (qReserve s d).threads = s.threads := by
        unfold qReserve
        split
        · rfl
        · rw [onInv_eq]
      refine flagsKept_of_threads m ?_
      rw [qPut_eq]
      exact reserved
    · cases put
    · cases put
  · cases put
    exact flagsKept_onTh _ _ fun t => by rw [wg_sys]

theorem flagsKept_takeTrap (m : W) (tid c : Nat) (pc v : W) (s : State) : FlagsKept m s (takeTrap tid c pc v s) := by
  refine flagsKept_of_sys m fun u => ?_
  by_cases same : u = tid
  · rw [same, th_takeTrap_self]
  · rw [th_takeTrap_ne s c pc v same]

/-- The flags of a word are those that its body raises: a trap and a wait raise none. -/
theorem runBody_flags {past : Bool} {pg : BitVec 4} {srcs dsts : List Spec} {body : Body} {s t : State} {m : W}
    (h : runBody past pg srcs dsts body s = .next t) (hb : ∀ s1, body s = .ok s1 → FlagsKept m s s1) : FlagsKept m s t := by
  have moved : ∀ u : State, FlagsKept m u (advance u) := fun u => flagsKept_onTh _ _ fun _ => rfl
  obtain rfl | ⟨c, v, rfl⟩ | ⟨c, rfl⟩ | ⟨w, rfl⟩ | ⟨-, s1, ran, rfl⟩ := runBody_cases h
  · exact moved s
  · exact flagsKept_takeTrap m _ _ _ _ _
  · exact flagsKept_trans (flagsKept_of_threads m rfl) (flagsKept_takeTrap m _ _ _ _ _)
  · exact flagsKept_onTh _ _ fun _ => rfl
  · split
    · exact flagsKept_trans (hb s1 ran) (moved s1)
    · exact hb s1 ran

/-- An operation raises no flag but those of a mask. -/
def RaisesWithin (m : W) (n : Nat) : Prop := w64 (n % 32) ||| m = m

theorem flagsKept_orFlags {m : W} (s : State) {n : Nat} (within : RaisesWithin m n) : FlagsKept m s (s.onMe fun t => t.orFlags n) :=
  flagsKept_onTh _ _ fun t => by
    change t.sys.fflags ||| w64 (n % 32) ||| m = _
    rw [BitVec.or_assoc, within]

/-- SA and NV. -/
def saNv : W := 0x11#64

theorem raisesWithin_zero (m : W) : RaisesWithin m 0 := by simp [RaisesWithin, w64]
theorem raisesWithin_sa : RaisesWithin saNv fSA := by unfold RaisesWithin; decide
theorem raisesWithin_nv : RaisesWithin saNv fNV := by unfold RaisesWithin; decide

theorem finInt_raises (fn : Nat) (sat : Bool) (x : Int) : RaisesWithin saNv (finInt fn sat x).2 := by
  unfold finInt flagIf
  split
  · dsimp only
    split
    · exact raisesWithin_sa
    · exact raisesWithin_zero saNv
  · exact raisesWithin_zero saNv

theorem divide_raises (fn : Nat) (sat : Bool) (p : Prop) [Decidable p] (v : W) (x : Int) :
    RaisesWithin saNv (if p then (v, fNV) else finInt fn sat x).2 := by
  split
  · exact raisesWithin_nv
  · exact finInt_raises fn sat x

theorem computeT3_flags {m : W} {f : Pure3} {useC : Bool} {x : T3} {s t : State} (within : ∀ fn md a b c, RaisesWithin m (f fn md a b c).2)
    (h : computeT3 f useC x s = .next t) : FlagsKept m s t := by
  unfold computeT3 at h
  refine runBody_flags h fun s1 ran => ?_
  obtain ⟨_, _, ran⟩ := except_bind_ok ran
  obtain ⟨a, _, ran⟩ := except_bind_ok ran
  obtain ⟨b, _, ran⟩ := except_bind_ok ran
  have ends : ∀ (c : W) (srcs : List Spec), (do
      let s2 ← putV x.d (f x.fn.toNat x.md.toNat a b c).1 (deqAll srcs s)
      Except.ok (s2.onMe fun t => t.orFlags (f x.fn.toNat x.md.toNat a b c).2)) = Except.ok s1 → FlagsKept m s s1 := by
    intro c srcs ran
    obtain ⟨s2, put, ran⟩ := except_bind_ok ran
    cases ran
    exact flagsKept_trans (flagsKept_deqAll m _ s) (flagsKept_trans (flagsKept_putV m put) (flagsKept_orFlags s2 (within ..)))
  split at ran
  all_goals
    obtain ⟨c, _, ran⟩ := except_bind_ok ran
    exact ends c _ ran

theorem computeTI_flags {m : W} {f : Nat → Nat → W → W × Nat} {x : TI} {s t : State} (within : ∀ fn imm a, RaisesWithin m (f fn imm a).2)
    (h : computeTI f x s = .next t) : FlagsKept m s t := by
  unfold computeTI at h
  refine runBody_flags h fun s1 ran => ?_
  obtain ⟨_, _, ran⟩ := except_bind_ok ran
  obtain ⟨a, _, ran⟩ := except_bind_ok ran
  obtain ⟨s2, put, ran⟩ := except_bind_ok ran
  cases ran
  exact flagsKept_trans (flagsKept_deqAll m _ s) (flagsKept_trans (flagsKept_putV m put) (flagsKept_orFlags s2 (within ..)))

/-- A word that computes one value, and what its operation may raise; SEL's operation depends on the state. -/
def Computes (m : W) (c : T3 → Instr) : Prop :=
  ∃ (f : T3 → State → Pure3) (useC : Bool), (∀ x s, exec (c x) s = computeT3 (f x s) useC x s) ∧
    ∀ x s fn md a b c, RaisesWithin m (f x s fn md a b c).2

/-- The integer words raise SA where they saturate and NV where they divide by zero; bit patterns, SEL and HASH raise nothing. -/
theorem integerWords_compute : ∀ c ∈ integerWords, Computes saNv c := by
  rw [← List.forall_iff_forall_mem]
  exact ⟨
    ⟨fun _ _ => intAdd, false, fun _ _ => rfl, fun _ _ _ _ _ _ _ => finInt_raises ..⟩,
    ⟨fun _ _ => intSub, false, fun _ _ => rfl, fun _ _ _ _ _ _ _ => finInt_raises ..⟩,
    ⟨fun _ _ => intMul, false, fun _ _ => rfl, fun _ _ _ _ _ _ _ => finInt_raises ..⟩,
    ⟨fun _ _ => intMulh, false, fun _ _ => rfl, fun _ _ _ _ _ _ _ => finInt_raises ..⟩,
    ⟨fun _ _ => intDiv, false, fun _ _ => rfl, fun _ _ _ _ _ _ _ => divide_raises ..⟩,
    ⟨fun _ _ => intRem, false, fun _ _ => rfl, fun _ _ _ _ _ _ _ => divide_raises ..⟩,
    ⟨fun _ _ => intMin, false, fun _ _ => rfl, fun _ _ _ _ _ _ _ => finInt_raises ..⟩,
    ⟨fun _ _ => intMax, false, fun _ _ => rfl, fun _ _ _ _ _ _ _ => finInt_raises ..⟩,
    ⟨fun _ _ => intAbs, false, fun _ _ => rfl, fun _ _ _ _ _ _ _ => finInt_raises ..⟩,
    ⟨fun _ _ => intNeg, false, fun _ _ => rfl, fun _ _ _ _ _ _ _ => finInt_raises ..⟩,
    ⟨fun _ _ => intAnd, false, fun _ _ => rfl, fun _ _ _ _ _ _ _ => raisesWithin_zero saNv⟩,
    ⟨fun _ _ => intOr, false, fun _ _ => rfl, fun _ _ _ _ _ _ _ => raisesWithin_zero saNv⟩,
    ⟨fun _ _ => intXor, false, fun _ _ => rfl, fun _ _ _ _ _ _ _ => raisesWithin_zero saNv⟩,
    ⟨fun _ _ => intAndn, false, fun _ _ => rfl, fun _ _ _ _ _ _ _ => raisesWithin_zero saNv⟩,
    ⟨fun _ _ => intShl, false, fun _ _ => rfl, fun _ _ _ _ _ _ _ => raisesWithin_zero saNv⟩,
    ⟨fun _ _ => intShr, false, fun _ _ => rfl, fun _ _ _ _ _ _ _ => raisesWithin_zero saNv⟩,
    ⟨fun _ _ => intSar, false, fun _ _ => rfl, fun _ _ _ _ _ _ _ => raisesWithin_zero saNv⟩,
    ⟨fun _ _ => intRol, false, fun _ _ => rfl, fun _ _ _ _ _ _ _ => raisesWithin_zero saNv⟩,
    ⟨fun _ _ => intPopc, false, fun _ _ => rfl, fun _ _ _ _ _ _ _ => raisesWithin_zero saNv⟩,
    ⟨fun _ _ => intClz, false, fun _ _ => rfl, fun _ _ _ _ _ _ _ => raisesWithin_zero saNv⟩,
    ⟨fun _ _ => intCtz, false, fun _ _ => rfl, fun _ _ _ _ _ _ _ => raisesWithin_zero saNv⟩,
    ⟨fun x s => intSel (s.me.rp (x.c.toNat - 64)), false, fun _ _ => rfl, fun _ _ _ _ _ _ _ => raisesWithin_zero saNv⟩,
    ⟨fun _ _ => intMadd, true, fun _ _ => rfl, fun _ _ _ _ _ _ _ => finInt_raises ..⟩,
    ⟨fun _ _ => intSatn, false, fun _ _ => rfl, fun _ _ _ _ _ _ _ => finInt_raises ..⟩,
    ⟨fun _ _ => intHash, false, fun _ _ => rfl, fun _ _ _ _ _ _ _ => raisesWithin_zero saNv⟩⟩

/-! ### Frames of the words that are no plain computation (R73, R84, R90) -/

/-- The frame that R70 to R76 give a word: nothing outside its thread differs, its thread keeps the registers that are not listed, and its flags
stay set. -/
def WordFrame (gs ps : List Nat) (s t : State) : Prop :=
  OnlyThread s t ∧ KeepsRegs gs ps s.me (t.th s.cur) ∧ s.me.sys.fflags &&& (t.th s.cur).sys.fflags = s.me.sys.fflags

theorem bodyFrame_put {d : Spec} {v : W} {s t : State} (put : putV d v s = .ok t) : BodyFrame [d.toNat] [] s t :=
  bodyFrame_putV put (List.mem_singleton_self _)

/-- Writing a predicate changes it alone. -/
theorem bodyFrame_wp (s : State) (n : Nat) (v : Bool) : BodyFrame [] [n] s (s.onMe fun t => t.wp n v) := by
  have sys : ∀ t : Thread, (t.wp n v).sys = t.sys := fun t => by unfold Thread.wp; split <;> rfl
  have rest : KeepsRegs [] [n] s.me (s.me.wp n v) := by
    refine ⟨fun m _ => ?_, fun m hm => rp_wp_ne s.me v (by simpa using hm), ?_⟩
    · unfold Thread.wp; split <;> rfl
    · unfold Thread.wp; split <;> simp [Thread.rh]
  exact bodyFrame_onMe rest (by rw [sys]) (by rw [sys, BitVec.or_self])

section
variable {s t : State}

theorem execMov_frame {x : T3} (h : execMov x s = .next t) : WordFrame [x.d.toNat] [] s t := by
  unfold execMov issue at h
  refine runBody_frame h fun s1 ran => ?_
  obtain ⟨_, _, ran⟩ := except_bind_ok ran
  obtain ⟨a, _, put⟩ := except_bind_ok ran
  exact bodyFrame_trans (bodyFrame_deqAll _ _ _ _) (bodyFrame_put put)

theorem execCsrr_frame {x : T3} (h : execCsrr x s = .next t) : WordFrame [x.d.toNat] [] s t := by
  unfold execCsrr issue at h
  refine runBody_frame h fun s1 ran => ?_
  obtain ⟨_, _, ran⟩ := except_bind_ok ran
  obtain ⟨_, _, put⟩ := except_bind_ok ran
  exact bodyFrame_put put

theorem execTsc_frame {x : T3} (h : execTsc x s = .next t) : WordFrame [x.d.toNat] [] s t := by
  unfold execTsc issue at h
  refine runBody_frame h fun s1 ran => ?_
  obtain ⟨_, _, put⟩ := except_bind_ok ran
  split at put
  · exact bodyFrame_put put
  · cases put

theorem execPlog_frame {x : T3} (h : execPlog x s = .next t) : WordFrame [] [x.d.toNat - 64] s t := by
  unfold execPlog issue at h
  refine runBody_frame h fun s1 ran => ?_
  cases ran
  exact bodyFrame_wp ..

/-- The frame of a word that raises no flag. -/
theorem runBody_silent {past : Bool} {pg : BitVec 4} {srcs dsts : List Spec} {body : Body} {gs ps : List Nat}
    (h : runBody past pg srcs dsts body s = .next t) (hb : ∀ s1, body s = .ok s1 → BodyFrame gs ps s s1 ∧ FlagsKept 0 s s1) :
    WordFrame gs ps s t ∧ FlagsKept 0 s t :=
  ⟨runBody_frame h fun s1 ran => (hb s1 ran).1, runBody_flags h fun s1 ran => (hb s1 ran).2⟩

theorem execBfi_frame {x : TI} (h : execBfi x s = .next t) : WordFrame [x.d.toNat] [] s t ∧ FlagsKept 0 s t := by
  unfold execBfi issue at h
  refine runBody_silent h fun s1 ran => ?_
  obtain ⟨_, _, ran⟩ := except_bind_ok ran
  obtain ⟨a, _, ran⟩ := except_bind_ok ran
  obtain ⟨s2, put, ran⟩ := except_bind_ok ran
  cases ran
  exact ⟨bodyFrame_trans (bodyFrame_deqAll _ _ _ _) (bodyFrame_put put), flagsKept_trans (flagsKept_deqAll 0 _ s) (flagsKept_putV 0 put)⟩

theorem execMovi_frame {x : TI} (h : execMovi x s = .next t) : WordFrame [x.d.toNat] [] s t ∧ FlagsKept 0 s t := by
  unfold execMovi issue at h
  refine runBody_silent h fun s1 ran => ?_
  obtain ⟨_, _, put⟩ := except_bind_ok ran
  exact ⟨bodyFrame_put put, flagsKept_putV 0 put⟩

theorem execMovhi_frame {x : TI} (h : execMovhi x s = .next t) : WordFrame [x.d.toNat] [] s t ∧ FlagsKept 0 s t := by
  unfold execMovhi issue at h
  exact runBody_silent h fun s1 put => ⟨bodyFrame_put put, flagsKept_putV 0 put⟩

theorem computeTI_silent {f : Nat → Nat → W → W × Nat} {x : TI} (silent : ∀ fn imm a, (f fn imm a).2 = 0) (h : computeTI f x s = .next t) :
    WordFrame [x.d.toNat] [] s t ∧ FlagsKept 0 s t :=
  ⟨computeTI_frame h, computeTI_flags (fun fn imm a => silent fn imm a ▸ raisesWithin_zero 0) h⟩

end

/-! ### The obligation -/

theorem valueWords_frame : ∀ c ∈ valueWords, ∀ (x : T3) (s t : State), exec (c x) s = .next t → WordFrame [x.d.toNat] [] s t := by
  refine List.forall_mem_append.mpr ⟨fun c listed x s t h => ?integer, ?others⟩
  case integer =>
    obtain ⟨f, useC, runs, -⟩ := integerWords_compute c listed
    exact computeT3_frame ((runs x s).symm.trans h)
  case others =>
    rw [← List.forall_iff_forall_mem]
    exact ⟨fun _ _ _ => execMov_frame, fun _ _ _ => execCsrr_frame, fun _ _ _ => execTsc_frame, fun _ _ _ => computeT3_frame,
      fun _ _ _ => computeT3_frame, fun _ _ _ => computeT3_frame, fun _ _ _ => computeT3_frame, fun _ _ _ => computeT3_frame,
      fun _ _ _ => computeT3_frame, fun _ _ _ => computeT3_frame, fun _ _ _ => computeT3_frame, fun _ _ _ => computeT3_frame,
      fun _ _ _ => computeT3_frame, fun _ _ _ => computeT3_frame, fun _ _ _ => computeT3_frame, fun _ _ _ => computeT3_frame,
      fun _ _ _ => computeT3_frame, fun _ _ _ => computeT3_frame, fun _ _ _ => computeT3_frame, fun _ _ _ => computeT3_frame,
      fun _ _ _ => computeT3_frame⟩

/-- Settles O54: each word keeps the frame of `valueWords_frame` and its like, and raises what its operation raises. -/
theorem registerWordsFrame : Obligations.RegisterWordsFrame := by
  unfold Obligations.RegisterWordsFrame
  refine ⟨valueWords_frame, fun c listed x s t h => ?integer, ?immediate, ?compare, fun c listed x s t toG0 h n => ?zero⟩
  case integer =>
    obtain ⟨f, useC, runs, within⟩ := integerWords_compute c listed
    exact computeT3_flags (within x s) ((runs x s).symm.trans h) s.cur
  case immediate =>
    have same : ∀ {x : TI} {s t : State}, WordFrame [x.d.toNat] [] s t ∧ FlagsKept 0 s t →
        OnlyThread s t ∧ KeepsRegs [x.d.toNat] [] s.me (t.th s.cur) ∧ (t.th s.cur).sys.fflags = s.me.sys.fflags := by
      rintro x s t ⟨⟨only, keeps, -⟩, flags⟩
      exact ⟨only, keeps, fflags_of_flagsKept_zero flags s.cur⟩
    rw [← List.forall_iff_forall_mem]
    exact ⟨fun x s t h => same (computeTI_silent (fun _ _ _ => rfl) h), fun x s t h => same (execBfi_frame h),
      fun x s t h => same (computeTI_silent (fun _ _ _ => rfl) h), fun x s t h => same (execMovi_frame h),
      fun x s t h => same (execMovhi_frame h)⟩
  case compare =>
    have both : ∀ {x : T3} {s t : State}, WordFrame [] [x.d.toNat - 64] s t →
        OnlyThread s t ∧ KeepsRegs [] [x.d.toNat - 64] s.me (t.th s.cur) := fun frame => ⟨frame.1, frame.2.1⟩
    rw [← List.forall_iff_forall_mem]
    exact ⟨fun x s t h => both (compareT3_frame h), fun x s t h => both (compareT3_frame h), fun x s t h => both (execPlog_frame h)⟩
  case zero =>
    obtain ⟨-, ⟨kept, -⟩, -⟩ := valueWords_frame c listed x s t h
    by_cases g0 : n = 0
    · rw [g0]; rfl
    · exact kept n (by simpa [toG0] using g0)

end Sys2Proof.Machine
end

section
/-! PROOFS. What a write at home leaves of threads and of everything else (spec 08_memories R149, 09_memory_ops R174, R178, 10_ordering R189). -/
open Sys2Proof Sys2Proof.Machine

namespace Sys2Proof.Machine

/-! ### Outside memory, tasks, threads and the fabric -/

/-- What no write at home and no walk reaches: who is running, the tables, the engines, the outside. -/
def Apart (s : State) : Nat × Tables × Engines × Outside := (s.cur, s.tab, s.eng, s.out)

theorem absorb_eq (s : State) (pas : List Nat) : s.absorb pas = { s with fab := (s.absorb pas).fab } :=
  foldl_keeps (P := fun t : State => t = { s with fab := t.fab }) (fun t x same => by rw [same]; rfl) _ rfl

theorem logAway_eq (s : State) (pa : Nat) : s.logAway pa = { s with fresh := (s.logAway pa).fresh, well := (s.logAway pa).well } := by
  unfold State.logAway
  split <;> rfl

theorem returnReservations_eq (s : State) (ds : List Delta) : returnReservations s ds = { s with fab := (returnReservations s ds).fab } := by
  unfold returnReservations
  refine foldl_keeps (P := fun t : State => t = { s with fab := t.fab }) (fun t d same => ?_) ds rfl
  dsimp only
  split
  · exact same
  · split
    · rw [same]
    · exact same

theorem abortAndReturn_apart (s : State) (k : Task) : Apart (abortAndReturn s k) = Apart s := by
  rw [abortAndReturn, returnReservations_eq, abortTask]
  dsimp only
  split <;> rfl

theorem abortReaders_apart (s : State) (w : Option Nat) (ls : List Nat) : Apart (abortReaders s w ls) = Apart s := by
  unfold abortReaders
  refine foldl_same Apart (fun s k => ?_) _ s
  split
  · exact abortAndReturn_apart s k
  · rfl

/-- The state in which a write at home has reached memory, frames and queues, before tasks abort and watchers wake. -/
def stored (s : State) (pa : Nat) (bs : List Byte) : State :=
  let s0 := (s.logAway pa).refresh (upto pa bs.length)
  { s0 with mem := s0.mem.store pa bs }.absorb (upto pa bs.length)

theorem homeStore_eq (s : State) (w : Option Nat) (pa : Nat) (bs : List Byte) :
    homeStore s w pa bs = markWoken (abortReaders (stored s pa bs) w (lineKeys s.mem pa bs.length)) := rfl

theorem stored_eq (s : State) (pa : Nat) (bs : List Byte) :
    stored s pa bs = { s with fresh := (stored s pa bs).fresh, well := (stored s pa bs).well, mem := (stored s pa bs).mem,
                              fab := (stored s pa bs).fab } := by
  unfold stored
  dsimp only
  rw [absorb_eq, logAway_eq]
  rfl

theorem homeWriteUnc_apart (s : State) (w : Option Nat) (unc : List Nat) (pa : Nat) (bs : List Byte) :
    Apart (homeWriteUnc s w unc pa bs) = Apart s := by
  have woken : Apart (homeWriteUnc s w unc pa bs) = Apart (abortReaders (stored s pa bs) w (lineKeys s.mem pa bs.length)) := rfl
  rw [woken, abortReaders_apart, stored_eq]
  rfl

/-! ### Threads -/

/-- What holds of an entry and of the default holds of the entry that a key names. -/
theorem Tab.getD_map_keeps {α : Type} {R : α → α → Prop} {f : Nat × α → Nat × α} (keys : ∀ e, (f e).1 = e.1) (rel : ∀ e, R e.2 (f e).2) (d : α)
    (self : R d d) (k : Nat) (t : Tab α) : R (Tab.getD t k d) (Tab.getD (t.map f) k d) := by
  induction t with
  | nil => exact self
  | cons e t ih =>
    unfold Tab.getD at ih ⊢
    simp only [List.map_cons, Tab.look, keys e]
    split
    · exact rel e
    · exact ih

/-- Watchers that a write wakes keep everything but what they wait for. -/
theorem markWoken_th (s : State) (tid : Nat) : ∃ why, (markWoken s).th tid = { s.th tid with why := why } := by
  refine Tab.getD_map_keeps (R := fun a b : Thread => ∃ why, b = { a with why := why }) ?keys ?woken .reset ⟨_, rfl⟩ tid s.threads
  case keys => intro e; dsimp only; split <;> rfl
  case woken => intro e; dsimp only; split <;> exact ⟨_, rfl⟩

/-- An abort restarts the thread of its task alone (R178). -/
theorem abortAndReturn_th_ne (s : State) {k : Task} {tid : Nat} (other : k.tid ≠ some tid) : (abortAndReturn s k).th tid = s.th tid := by
  rw [abortAndReturn, returnReservations_eq, abortTask]
  dsimp only
  split
  · rfl
  case h_2 u runs => 
    rw [th_onTh_ne]
    · rfl
    · rintro rfl
      exact other runs

theorem abortAndReturn_pend (s : State) (k : Task) (tid : Nat) :
    ((abortAndReturn s k).th tid).pend = (s.th tid).pend ∨ ((abortAndReturn s k).th tid).pend = [] := by
  by_cases own : k.tid = some tid
  · right
    rw [abortAndReturn, abortTask, own]
    dsimp only
    rw [th_onTh_self]
  · left
    rw [abortAndReturn_th_ne s own]

theorem abortReaders_th {s : State} {w : Option Nat} {tid : Nat} (spared : ∀ k ∈ s.tasks, k.tid = some tid → some k.id = w) (ls : List Nat) :
    (abortReaders s w ls).th tid = s.th tid := by
  unfold abortReaders
  refine List.foldlRecOn (motive := fun t : State => t.th tid = s.th tid) _ _ rfl fun t same k reader => ?_
  obtain ⟨l, -, reads⟩ := List.mem_flatMap.mp reader
  obtain ⟨task, abortable⟩ := List.mem_filter.mp reads
  have other : k.tid ≠ some tid := by
    intro runs
    simp [spared k task runs] at abortable
  split
  · rw [abortAndReturn_th_ne t other, same]
  · exact same

theorem abortReaders_pend (s : State) (w : Option Nat) (ls : List Nat) (tid : Nat) :
    ((abortReaders s w ls).th tid).pend = (s.th tid).pend ∨ ((abortReaders s w ls).th tid).pend = [] := by
  unfold abortReaders
  refine foldl_keeps (P := fun t : State => (t.th tid).pend = (s.th tid).pend ∨ (t.th tid).pend = []) (fun t k kept => ?_) _ (.inl rfl)
  split
  · rcases abortAndReturn_pend t k tid with same | none
    · rwa [same]
    · exact .inr none
  · exact kept

theorem homeWriteUnc_th_eq (s : State) (w : Option Nat) (unc : List Nat) (pa : Nat) (bs : List Byte) (tid : Nat) :
    ∃ why, (homeWriteUnc s w unc pa bs).th tid =
      { (abortReaders (stored s pa bs) w (lineKeys s.mem pa bs.length)).th tid with why := why } :=
  markWoken_th _ tid

theorem stored_th (s : State) (pa : Nat) (bs : List Byte) (tid : Nat) : (stored s pa bs).th tid = s.th tid := by
  rw [stored_eq]
  rfl

/-- A thread whose tasks are the writer's own keeps everything but what it waits for. -/
theorem homeWriteUnc_th {s : State} {w : Option Nat} {tid : Nat} (spared : ∀ k ∈ s.tasks, k.tid = some tid → some k.id = w) (unc : List Nat)
    (pa : Nat) (bs : List Byte) : ∃ why, (homeWriteUnc s w unc pa bs).th tid = { s.th tid with why := why } := by
  obtain ⟨why, woken⟩ := homeWriteUnc_th_eq s w unc pa bs tid
  refine ⟨why, ?_⟩
  rw [woken, abortReaders_th, stored_th]
  rwa [stored_eq]

/-- A thread's outstanding accesses stay, or an abort drops them all (R178). -/
theorem homeWriteUnc_pend (s : State) (w : Option Nat) (unc : List Nat) (pa : Nat) (bs : List Byte) (tid : Nat) :
    ((homeWriteUnc s w unc pa bs).th tid).pend = (s.th tid).pend ∨ ((homeWriteUnc s w unc pa bs).th tid).pend = [] := by
  obtain ⟨why, woken⟩ := homeWriteUnc_th_eq s w unc pa bs tid
  rw [woken, ← stored_th s pa bs tid]
  exact abortReaders_pend _ _ _ _

/-! ### Translation -/

/-- What a translation for some agent leaves alone: everything apart, and each thread whose tasks are the agent's own, but for what it waits for. -/
def WalkFrame (who : Who) (s t : State) : Prop :=
  Apart t = Apart s ∧ ∀ tid, (∀ k ∈ s.tasks, k.tid = some tid → some k.id = who.task) → ∃ why, t.th tid = { s.th tid with why := why }

theorem walkFrame_mem (who : Who) (s : State) (m : Mem) : WalkFrame who s { s with mem := m } := ⟨rfl, fun _ _ => ⟨_, rfl⟩⟩

/-- A change of memory alone after a translation stays within the frame. -/
theorem WalkFrame.withMem {who : Who} {s t : State} (h : WalkFrame who s t) (m : Mem) : WalkFrame who s { t with mem := m } := h

theorem walkFrame_ite {who : Who} {s a b : State} {p : Prop} [Decidable p] (ha : WalkFrame who s a) (hb : WalkFrame who s b) :
    WalkFrame who s (if p then a else b) := by
  split
  · exact ha
  · exact hb

theorem walkOnce_frame {s t : State} {who : Who} {acc : Acc} {va : Nat} {e : TlbEnt} (walked : walkOnce s who acc va = .ok (t, e)) :
    WalkFrame who s t := by
  unfold walkOnce at walked
  split at walked
  · cases walked
  split at walked
  · cases walked
  split at walked
  · cases walked
  split at walked
  · cases walked
  cases walked
  refine WalkFrame.withMem (walkFrame_ite (walkFrame_mem who s _) ?update) _
  exact ⟨homeWriteUnc_apart _ _ _ _ _, fun tid spared => homeWriteUnc_th (s := s.bring _) spared _ _ _⟩

theorem noteMiss_eq (s : State) (who : Who) (acc : Acc) (va : Nat) (e : TlbEnt) :
    noteMiss s who acc va e = { s with mem := (noteMiss s who acc va e).mem } := by
  unfold noteMiss
  dsimp only
  split <;> rfl

theorem walk_frame {s t : State} {who : Who} {acc : Acc} {va : Nat} {x : Xl} (walked : walk s who acc va = .ok (t, x)) : WalkFrame who s t := by
  unfold walk at walked
  split at walked
  · cases walked
  case h_2 s1 e once =>
    cases walked
    rw [noteMiss_eq]
    exact (walkOnce_frame once).withMem _

theorem translate_frame {s t : State} {who : Who} {acc : Acc} {va : Nat} {x : Xl} (mapped : translate s who acc va = .ok (t, x)) :
    WalkFrame who s t := by
  unfold translate at mapped
  dsimp only at mapped
  split at mapped
  · cases mapped
  split at mapped
  · split at mapped
    · cases mapped
      exact walkFrame_mem who s _
    · cases mapped
  split at mapped
  · split at mapped
    · exact walk_frame mapped
    split at mapped
    · cases mapped
    · cases mapped
      exact walkFrame_mem who s _
  · exact walk_frame mapped

end Sys2Proof.Machine
end

section
/-! PROOFS. The frame of memory words at issue (spec 04_registers R72, 08_memories R153, 09_memory_ops R164, R165). -/
open Sys2Proof Sys2Proof.Machine

namespace Sys2Proof.Machine

/-! ### What the issue of an access leaves alone after its translation -/

/-- A thread keeps its registers, its counters C and K and whether it is in a handler. -/
def SameRegs (a b : Thread) : Prop := b.g = a.g ∧ b.p = a.p ∧ b.h = a.h ∧ b.sys = a.sys ∧ b.hnd = a.hnd ∧ b.c = a.c ∧ b.k = a.k

theorem sameRegs_refl (a : Thread) : SameRegs a a := ⟨rfl, rfl, rfl, rfl, rfl, rfl, rfl⟩

theorem sameRegs_trans {a b c : Thread} (h : SameRegs a b) (k : SameRegs b c) : SameRegs a c := by
  obtain ⟨g, p, hs, sys, hnd, cc, kk⟩ := h
  obtain ⟨g', p', hs', sys', hnd', cc', kk'⟩ := k
  exact ⟨g'.trans g, p'.trans p, hs'.trans hs, sys'.trans sys, hnd'.trans hnd, cc'.trans cc, kk'.trans kk⟩

theorem keepsRegs_of_sameRegs {a b : Thread} (h : SameRegs a b) : KeepsRegs [] [] { a with pend := b.pend } b := by
  obtain ⟨g, p, hs, sys, hnd, c, k⟩ := h
  simp [KeepsRegs, Thread.rg, Thread.rp, Thread.rh, g, p, hs, sys, hnd, c, k]

/-- From the translated state on: bytes, registers, other threads, and of a word that takes no token (`quiet`) every invocation. -/
def IssueKeeps (quiet : Bool) (s t : State) : Prop :=
  Apart t = Apart s ∧ (∀ tid, tid ≠ s.cur → t.th tid = s.th tid) ∧ SameRegs s.me (t.th s.cur) ∧ t.mem.bytes = s.mem.bytes ∧
  t.mem.part = s.mem.part ∧ (quiet = true → t.fab.invs = s.fab.invs)

theorem cur_of_apart {s t : State} (h : Apart t = Apart s) : t.cur = s.cur := congrArg Prod.fst h

theorem issueKeeps_refl (quiet : Bool) (s : State) : IssueKeeps quiet s s := ⟨rfl, fun _ _ => rfl, sameRegs_refl _, rfl, rfl, fun _ => rfl⟩

theorem issueKeeps_trans {quiet : Bool} {a b c : State} (h : IssueKeeps quiet a b) (k : IssueKeeps quiet b c) : IssueKeeps quiet a c := by
  obtain ⟨apart, others, regs, bytes, part, invs⟩ := h
  obtain ⟨apart', others', regs', bytes', part', invs'⟩ := k
  have cur := cur_of_apart apart
  rw [State.me, cur] at regs'
  rw [cur] at others'
  exact ⟨apart'.trans apart, fun tid other => (others' tid other).trans (others tid other), sameRegs_trans regs regs', bytes'.trans bytes,
    part'.trans part, fun q => (invs' q).trans (invs q)⟩

theorem issueKeeps_onMe (quiet : Bool) (s : State) {f : Thread → Thread} (h : SameRegs s.me (f s.me)) : IssueKeeps quiet s (s.onMe f) := by
  refine ⟨rfl, fun tid other => th_onTh_ne s f other, ?_, rfl, rfl, fun _ => rfl⟩
  rw [State.onMe, th_onTh_self]
  exact h

/-- Where a word takes a token the fabric may change. -/
theorem issueKeeps_fab {s t : State} (h : t = { s with fab := t.fab, shot := t.shot }) : IssueKeeps false s t := by
  rw [h]
  exact ⟨rfl, fun _ _ => rfl, sameRegs_refl _, rfl, rfl, nofun⟩

theorem issueKeeps_qDeq (s : State) (sp : Spec) : IssueKeeps false s (qDeq s sp) := by
  unfold qDeq
  split
  · exact issueKeeps_refl _ s
  split
  · exact issueKeeps_refl _ s
  split
  · exact issueKeeps_refl _ s
  dsimp only
  split
  · exact issueKeeps_trans (b := s.putInv _ _) (issueKeeps_fab rfl) (issueKeeps_onMe _ _ (sameRegs_refl _))
  · exact issueKeeps_fab rfl

theorem issueKeeps_deqAll (dsp : Spec) (s : State) : IssueKeeps (!isQ dsp) s (deqAll [dsp] s) := by
  cases queue : isQ dsp
  · have none : deqAll [dsp] s = s := by simp [deqAll, queue]
    rw [none]
    exact issueKeeps_refl _ s
  · unfold deqAll
    split
    · exact issueKeeps_refl _ s
    · refine foldl_keeps (P := IssueKeeps false s) (fun t sp kept => issueKeeps_trans kept (issueKeeps_qDeq t sp)) _ ?_
      exact issueKeeps_onMe _ _ (sameRegs_refl _)

theorem issueKeeps_qReserve (s : State) (sp : Spec) : IssueKeeps false s (qReserve s sp) := by
  unfold qReserve
  split
  · exact issueKeeps_refl _ s
  · exact issueKeeps_fab (onInv_eq ..)

theorem issueKeeps_takeLines (quiet : Bool) {ls : List Nat} {s t : State} (taken : takeLines ls s = .ok t) : IssueKeeps quiet s t := by
  induction ls generalizing s with
  | nil => cases taken; exact issueKeeps_refl quiet _
  | cons l ls ih =>
    unfold takeLines at taken
    split at taken
    · cases taken; exact issueKeeps_refl quiet _
    split at taken
    · exact ih taken
    split at taken
    · cases taken
    split at taken
    · cases taken
    refine issueKeeps_trans ?_ (ih taken)
    exact ⟨rfl, fun _ _ => rfl, sameRegs_refl _, rfl, rfl, fun _ => rfl⟩

theorem issueKeeps_pushPend (quiet : Bool) (e : Pend) (s : State) : IssueKeeps quiet s (pushPend e s) := by
  have counted : IssueKeeps quiet s { s with nextId := s.nextId + 1 } := ⟨rfl, fun _ _ => rfl, sameRegs_refl _, rfl, rfl, fun _ => rfl⟩
  refine issueKeeps_trans counted (issueKeeps_onMe quiet _ ?_)
  unfold Thread.sync
  split <;> exact ⟨rfl, rfl, rfl, rfl, rfl, rfl, rfl⟩

/-! ### The frame -/

theorem byteAt_of_issueKeeps {quiet : Bool} {s t : State} (h : IssueKeeps quiet s t) {q : Nat} (pool : inPool q = true → quiet = true) :
    t.byteAt q = s.byteAt q := by
  obtain ⟨-, -, -, bytes, part, invs⟩ := h
  have rd := rd_of_bytes bytes part q
  cases inside : inPool q
  · rw [byteAt_outside t inside, byteAt_outside s inside, rd]
  · exact byteAt_congr rd part (invs (pool inside))

/-- Behind its translation an access changes what `IssueKeeps` allows; before it nothing has changed. -/
theorem issueFrame_of_translated {acc : Acc} {va : Nat} {quiet : Bool} {s s1 t : State}
    (start : s1 = s ∨ ∃ x, translate s (s.whoOf s.cur) acc va = .ok (s1, x)) (h : IssueKeeps quiet s1 t) : IssueFrame acc va quiet s t := by
  have walked : WalkFrame (s.whoOf s.cur) s s1 := by
    rcases start with rfl | ⟨x, mapped⟩
    · exact walkFrame_mem _ s1 _
    · exact translate_frame mapped
  obtain ⟨apart, own⟩ := walked
  have bytes := fun q => byteAt_of_issueKeeps h (q := q)
  obtain ⟨apart', others, regs, -, -, -⟩ := h
  have cur := cur_of_apart apart
  have same : Apart t = Apart s := apart'.trans apart
  simp only [Apart, Prod.mk.injEq] at same
  obtain ⟨-, tab, eng, out⟩ := same
  rw [State.me, cur] at regs
  rw [cur] at others
  refine ⟨fun oneTask => ?_, tab, out, eng, s1, start, others, fun q quietPool => ?_⟩
  · obtain ⟨why, th⟩ := own s.cur oneTask
    rw [th] at regs
    exact keepsRegs_of_sameRegs regs
  · exact bytes q fun inside => quietPool ((kind_pool s.mem q).mpr inside)

/-- A trap saves its cause and changes no other register. -/
theorem issueFrame_takeTrap {acc : Acc} {va : Nat} {quiet : Bool} {s u : State} (threads : u.threads = s.threads) (mem : u.mem = s.mem)
    (apart : Apart u = Apart s) (fab : u.fab = s.fab) (c : Nat) (pc v : W) : IssueFrame acc va quiet s (takeTrap s.cur c pc v u) := by
  simp only [Apart, Prod.mk.injEq] at apart
  obtain ⟨-, tab, eng, out⟩ := apart
  have th : ∀ tid, u.th tid = s.th tid := fun tid => by rw [State.th, State.th, threads]
  refine ⟨fun _ => ?_, tab, out, eng, s, .inl rfl, fun tid other => ?_, fun q _ => ?_⟩
  · rw [th_takeTrap_self, th]
    simp [KeepsRegs, Thread.rg, Thread.rp, Thread.rh, State.me]
  · rw [th_takeTrap_ne u c pc v other, th]
  · exact byteAt_congr (congrArg (fun m => m.rd q) mem) (congrArg Mem.part mem) (congrArg Fabric.invs fab)

/-- The frame of a word whose body issues one access. -/
theorem issue_issueFrame {pg : BitVec 4} {srcs dsts : List Spec} {body : Body} {s t : State} {acc : Acc} {va : Nat} {quiet : Bool}
    (h : issue pg srcs dsts body s = .next t)
    (hb : ∀ s2, body s = .ok s2 → ∃ s1 x, translate s (s.whoOf s.cur) acc va = .ok (s1, x) ∧ IssueKeeps quiet s1 s2) :
    IssueFrame acc va quiet s t := by
  have moved : ∀ u : State, IssueKeeps quiet u (advance u) := fun u => issueKeeps_onMe quiet u (sameRegs_refl _)
  obtain rfl | ⟨c, v, rfl⟩ | ⟨c, rfl⟩ | ⟨w, rfl⟩ | ⟨-, s2, ran, rfl⟩ := runBody_cases h
  · exact issueFrame_of_translated (.inl rfl) (moved s)
  · exact issueFrame_takeTrap rfl rfl rfl rfl c _ v
  · exact issueFrame_takeTrap (s := s) (u := { s with fresh := s.fresh + 1 }) rfl rfl rfl rfl c _ _
  · exact issueFrame_of_translated (.inl rfl) (issueKeeps_onMe quiet s (sameRegs_refl _))
  · obtain ⟨s1, x, mapped, keeps⟩ := hb s2 ran
    exact issueFrame_of_translated (.inr ⟨x, mapped⟩) (issueKeeps_trans keeps (moved s2))

/-! ### The bodies (R165, R169) -/

theorem translate_of_xlate {acc : Acc} {va n : Nat} {s s1 : State} {x : Xl} (mapped : xlate acc va n s = .ok (s1, x)) :
    translate s (s.whoOf s.cur) acc va = .ok (s1, x) := by
  obtain ⟨_, _, mapped⟩ := except_bind_ok mapped
  split at mapped
  · cases mapped
  split at mapped
  · cases mapped
  case h_2 r found => cases mapped; exact found

theorem loadBody_keeps {fn d va scope : Nat} {acq : Bool} {dsp : Spec} {s s2 : State} (ran : loadBody fn d va scope acq dsp s = .ok s2) :
    ∃ s1 x, translate s (s.whoOf s.cur) .read va = .ok (s1, x) ∧ IssueKeeps (!isQ dsp) s1 s2 := by
  obtain ⟨_, _, ran⟩ := except_bind_ok ran
  obtain ⟨⟨s1, x⟩, mapped, ran⟩ := except_bind_ok ran
  obtain ⟨_, _, ran⟩ := except_bind_ok ran
  obtain ⟨_, _, ran⟩ := except_bind_ok ran
  refine ⟨s1, x, translate_of_xlate mapped, ?_⟩
  cases queue : isQ dsp
  · simp only [queue] at ran
    cases ran
    exact issueKeeps_pushPend _ _ s1
  · simp only [queue, if_true] at ran
    obtain ⟨s3, reserved, ran⟩ := except_bind_ok ran
    cases ran
    cases space : qSpace s1 dsp with
    | error stop => rw [space] at reserved; cases reserved
    | ok u =>
      rw [space] at reserved
      cases reserved
      exact issueKeeps_trans (issueKeeps_qReserve s1 dsp) (issueKeeps_pushPend _ _ _)

theorem storeBody_keeps {fn va scope : Nat} {rel : Bool} {dsp : Spec} {s s2 : State} (ran : storeBody fn va scope rel dsp s = .ok s2) :
    ∃ s1 x, translate s (s.whoOf s.cur) .write va = .ok (s1, x) ∧ IssueKeeps (!isQ dsp) s1 s2 := by
  obtain ⟨_, _, ran⟩ := except_bind_ok ran
  obtain ⟨v, _, ran⟩ := except_bind_ok ran
  obtain ⟨⟨s1, x⟩, mapped, ran⟩ := except_bind_ok ran
  obtain ⟨_, _, ran⟩ := except_bind_ok ran
  obtain ⟨_, _, ran⟩ := except_bind_ok ran
  obtain ⟨s3, lines, ran⟩ := except_bind_ok ran
  cases ran
  exact ⟨s1, x, translate_of_xlate mapped, issueKeeps_trans (issueKeeps_takeLines _ lines)
    (issueKeeps_trans (issueKeeps_deqAll dsp s3) (issueKeeps_pushPend _ _ _))⟩

theorem rmwBody_keeps {kind : PKind} {fn d va n align scope : Nat} {acq rel : Bool} {data data2 : W} {s s2 : State} (quiet : Bool)
    (ran : rmwBody kind fn d va n align scope acq rel data data2 s = .ok s2) :
    ∃ s1 x, translate s (s.whoOf s.cur) .write va = .ok (s1, x) ∧ IssueKeeps quiet s1 s2 := by
  obtain ⟨_, _, ran⟩ := except_bind_ok ran
  split at ran
  · cases ran
  obtain ⟨⟨s1, x⟩, mapped, ran⟩ := except_bind_ok ran
  obtain ⟨_, _, ran⟩ := except_bind_ok ran
  obtain ⟨_, _, ran⟩ := except_bind_ok ran
  obtain ⟨_, _, ran⟩ := except_bind_ok ran
  obtain ⟨_, _, ran⟩ := except_bind_ok ran
  cases ran
  exact ⟨s1, x, translate_of_xlate mapped, issueKeeps_pushPend _ _ s1⟩

/-! ### The words -/

section
variable {s t : State}

theorem execLd_issueFrame {x : TM} (h : execLd x s = .next t) : IssueFrame .read (addrTM x s) (!isQ x.d) s t := by
  unfold execLd at h
  exact issue_issueFrame h fun _ => loadBody_keeps

theorem execSt_issueFrame {x : TM} (h : execSt x s = .next t) : IssueFrame .write (addrTM x s) (!isQ x.d) s t := by
  unfold execSt at h
  exact issue_issueFrame h fun _ => storeBody_keeps

theorem execAtom_issueFrame {x : TM} (h : execAtom x s = .next t) : IssueFrame .write (addrTM x s) (!isQ x.d) s t := by
  unfold execAtom at h
  exact issue_issueFrame h fun _ => rmwBody_keeps _

theorem execCas_issueFrame {x : TM} (h : execCas x s = .next t) : IssueFrame .write (addrTM x s) (!isQ x.d) s t := by
  unfold execCas at h
  exact issue_issueFrame h fun _ => rmwBody_keeps _

theorem execLdIndexed_issueFrame {x : T3} (h : execLdIndexed x s = .next t) : IssueFrame .read (addrT3 x s) (!isQ x.d) s t := by
  unfold execLdIndexed at h
  exact issue_issueFrame h fun _ => loadBody_keeps

theorem execStIndexed_issueFrame {x : T3} (h : execStIndexed x s = .next t) : IssueFrame .write (addrT3 x s) (!isQ x.d) s t := by
  unfold execStIndexed at h
  exact issue_issueFrame h fun _ => storeBody_keeps

end

/-- Settles O56: each word issues one access through the translation of its own address, by the lemma above about it. -/
theorem memoryWordsFrame : Obligations.MemoryWordsFrame := by
  unfold Obligations.MemoryWordsFrame
  rw [← List.forall_iff_forall_mem, ← List.forall_iff_forall_mem]
  exact ⟨⟨fun _ _ _ => execLd_issueFrame, fun _ _ _ => execSt_issueFrame, fun _ _ _ => execAtom_issueFrame, fun _ _ _ => execCas_issueFrame⟩,
    fun _ _ _ => execLdIndexed_issueFrame, fun _ _ _ => execStIndexed_issueFrame⟩

end Sys2Proof.Machine
end

section
/-! PROOFS. The frame of performed accesses (spec 04_registers R72, 08_memories R103, 09_memory_ops R165, R169, R174, 17_faults R341). -/
open Sys2Proof Sys2Proof.Machine

namespace Sys2Proof.Machine

/-! ### Which bytes read as before -/

theorem mem_upto_iff {lo n x : Nat} : x ∈ upto lo n ↔ lo ≤ x ∧ x < lo + n := by
  induction n generalizing lo with
  | zero => simp [upto]
  | succ n ih => simp only [upto, List.mem_cons, ih]; omega

theorem keepsBytes_refl (quiet : Bool) (pas : List Nat) (s : State) : KeepsBytes quiet pas s s := fun _ _ _ => rfl

/-- Where neither memory nor, on a quiet change, an invocation differs, every byte reads as before. -/
theorem keepsBytes_of_same {quiet : Bool} (pas : List Nat) {s t : State} (bytes : t.mem.bytes = s.mem.bytes) (part : t.mem.part = s.mem.part)
    (invs : quiet = true → t.fab.invs = s.fab.invs) : KeepsBytes quiet pas s t := by
  intro pa _ pool
  have rd := rd_of_bytes bytes part pa
  cases inside : inPool pa
  · rw [byteAt_outside t inside, byteAt_outside s inside, rd]
  · obtain ⟨isQuiet, -⟩ := pool ((kind_pool s.mem pa).mpr inside)
    exact byteAt_congr rd part (invs isQuiet)

/-- A change of memory and of invocations by one write at home keeps every byte but those written. -/
theorem keepsBytes_of_write {quiet : Bool} {s t : State} (w : Option Nat) (unc : List Nat) (pa : Nat) (bs : List Byte)
    (mem : t.mem = (homeWriteUnc s w unc pa bs).mem) (invs : quiet = true → t.fab.invs = (homeWriteUnc s w unc pa bs).fab.invs) :
    KeepsBytes quiet (upto pa bs.length) s t := by
  intro q apart pool
  have keys : ∀ i < bs.length, s.mem.key q ≠ s.mem.key (pa + i) := fun i hi => apart _ (mem_upto_iff.mpr (by omega))
  cases inside : inPool q
  · rw [byteAt_outside t inside, byteAt_outside s inside, mem, rd_homeWriteUnc s w unc pa bs keys (by simp [inside])]
  · obtain ⟨isQuiet, elsewhere | noEntries⟩ := pool ((kind_pool s.mem q).mpr inside)
    · have outside : ∀ p ∈ upto pa bs.length, inPool p = false := fun p hp => by
        have := elsewhere p hp
        rw [ne_eq, kind_pool] at this
        simpa using this
      refine byteAt_congr ?_ ?_ ?_
      · rw [mem, rd_homeWriteUnc s w unc pa bs keys fun _ => .inl fun p hp hin => by rw [outside p hp] at hin; cases hin]
      · rw [mem, homeWriteUnc_part]
      · rw [invs isQuiet, homeWriteUnc_invs_outside s w unc outside]
    · have after : t.holdsEntries (poolAt q).1 = false := by
        rw [holdsEntries_congr (invs isQuiet)]
        exact homeWriteUnc_holdsEntries s w unc pa bs _ noEntries
      rw [byteAt_plain t fun _ => after, byteAt_plain s fun _ => noEntries, mem, rd_homeWriteUnc s w unc pa bs keys fun _ => .inr noEntries]

/-! ### Performing and retiring -/

theorem noQueue_setAt {p : List Pend} {e : Pend} (h : noQueue p = true) (he : isQ (BitVec.ofNat 7 e.d) = false) (k : Nat) :
    noQueue (setAt p k e) = true := by
  induction p generalizing k with
  | nil => rfl
  | cons a p ih =>
    simp only [noQueue, List.all_cons, Bool.and_eq_true] at h ih
    cases k with
    | zero => simp [setAt, noQueue, he, h.2]
    | succ k => simp [setAt, noQueue, h.1, ih h.2 k]

/-- An access performed and what can retire with it: memory is as performing left it, and so is every invocation where no access of the thread
goes into a q register. -/
theorem retire_setPend_frame {s s1 : State} {tid k : Nat} {e e1 : Pend} (listed : (s.th tid).pend[k]? = some e) (same : e1.d = e.d)
    (pend : (s1.th tid).pend = (s.th tid).pend ∨ (s1.th tid).pend = []) :
    (retire tid (setPend s1 tid k e1)).mem = s1.mem ∧
    (noQueue (s.th tid).pend = true → (retire tid (setPend s1 tid k e1)).fab.invs = s1.fab.invs) := by
  refine ⟨retire_mem _ _, fun quiet => (retire_invs tid _ ?_).trans rfl⟩
  have plain : isQ (BitVec.ofNat 7 e1.d) = false := by
    rw [same]
    simpa using List.all_eq_true.mp quiet e (List.mem_of_getElem? listed)
  rw [setPend, th_onTh_self]
  refine noQueue_setAt ?_ plain k
  rcases pend with p | p
  · rw [p]; exact quiet
  · rw [p]; rfl

/-- States that agree on bytes, partitions and invocations read alike. -/
theorem KeepsBytes.of_same {quiet : Bool} {pas : List Nat} {a b t : State} (bytes : b.mem.bytes = a.mem.bytes) (part : b.mem.part = a.mem.part)
    (invs : b.fab.invs = a.fab.invs) (h : KeepsBytes quiet pas b t) : KeepsBytes quiet pas a t := by
  intro q apart pool
  have kind : ∀ p, b.mem.kind p = .pool ↔ a.mem.kind p = .pool := fun p => (kind_pool _ p).trans (kind_pool _ p).symm
  rw [h q (fun p hp => ?keys) fun hq => ?pools]
  · exact byteAt_congr (rd_of_bytes bytes part q) part invs
  case keys =>
    rw [key_of_part part, key_of_part part]
    exact apart p hp
  case pools =>
    rw [holdsEntries_congr invs]
    obtain ⟨isQuiet, room⟩ := pool ((kind q).mp hq)
    exact ⟨isQuiet, room.imp_left fun elsewhere p hp => fun there => elsewhere p hp ((kind p).mp there)⟩

/-! ### The two events (R72, R165) -/

theorem execLoadComplete_cases {tid k : Nat} {s t : State} {e : Pend} (listed : (s.th tid).pend[k]? = some e)
    (h : execLoadComplete tid k s = .next t) : t = s ∨ t = retire tid (setPend (performLoad s tid e).1 tid k (performLoad s tid e).2) := by
  unfold execLoadComplete at h
  rw [listed] at h
  dsimp only at h
  split at h
  · cases h; exact .inr rfl
  · cases h; exact .inl rfl

theorem execStoreRetire_cases {tid k : Nat} {s t : State} {e : Pend} (listed : (s.th tid).pend[k]? = some e)
    (h : execStoreRetire tid k s = .next t) : t = s ∨ t = retire tid (setPend (performStore s tid e).1 tid k (performStore s tid e).2) := by
  unfold execStoreRetire at h
  rw [listed] at h
  dsimp only at h
  split at h
  · cases h; exact .inr rfl
  · cases h; exact .inl rfl

theorem performStore_store {s : State} {tid pa : Nat} {e : Pend} (kind : e.kind = .store) (pas : e.pas = [pa]) :
    performStore s tid e = (writeAs s tid e.unc pa (toBytes e.n e.data.toNat), { e with done := true }) := by
  unfold performStore
  rw [kind, pas]

/-- Outside an unfinished task a store is written at home; inside one its bytes wait with the task (R174). -/
theorem writeAs_outside {s : State} {tid : Nat} (outside : s.specul tid = none) (unc : List Nat) (pa : Nat) (bs : List Byte) :
    writeAs s tid unc pa bs = homeWriteUnc s (s.writer tid) unc pa bs := by
  rw [writeAs, outside]

theorem writeAs_inside {s : State} {tid : Nat} (inside : s.specul tid ≠ none) (unc : List Nat) (pa : Nat) (bs : List Byte) :
    ∃ tasks, writeAs s tid unc pa bs = { s with tasks := tasks } := by
  unfold writeAs
  split
  · exact ⟨_, rfl⟩
  case h_2 none => exact absurd none inside

section
variable {s t : State} {tid k pa : Nat} {e : Pend} (listed : (s.th tid).pend[k]? = some e)
include listed

theorem store_keepsBytes (kind : e.kind = .store) (pas : e.pas = [pa]) (outside : s.specul tid = none) (h : execStoreRetire tid k s = .next t) :
    KeepsBytes (noQueue (s.th tid).pend) (upto pa e.n) s t := by
  rcases execStoreRetire_cases listed h with rfl | performed
  · exact keepsBytes_refl _ _ _
  rw [performStore_store kind pas, writeAs_outside outside] at performed
  obtain ⟨mem, invs⟩ := retire_setPend_frame (e1 := { e with done := true }) listed rfl
    (homeWriteUnc_pend s (s.writer tid) e.unc pa (toBytes e.n e.data.toNat) tid)
  rw [performed]
  have kept := keepsBytes_of_write (s.writer tid) e.unc pa (toBytes e.n e.data.toNat) mem invs
  rwa [toBytes_length] at kept

theorem taskStore_keepsBytes (kind : e.kind = .store) (pas : e.pas = [pa]) (inside : s.specul tid ≠ none) (h : execStoreRetire tid k s = .next t) :
    KeepsBytes (noQueue (s.th tid).pend) [] s t := by
  rcases execStoreRetire_cases listed h with rfl | performed
  · exact keepsBytes_refl _ _ _
  obtain ⟨tasks, buffered⟩ := writeAs_inside inside e.unc pa (toBytes e.n e.data.toNat)
  rw [performStore_store kind pas, buffered] at performed
  obtain ⟨mem, invs⟩ := retire_setPend_frame (s1 := { s with tasks := tasks }) (e1 := { e with done := true }) listed rfl (.inl rfl)
  rw [performed]
  exact keepsBytes_of_same _ (congrArg Mem.bytes mem) (congrArg Mem.part mem) invs

end

/-! ### Loads -/

theorem noteRead_th (s : State) (tid : Nat) (unc pas : List Nat) (u : Nat) : (noteRead s tid unc pas).th u = s.th u := by
  unfold noteRead
  dsimp only
  split <;> rfl

theorem earlyRead_frame (s : State) (tid : Nat) (pas : List Nat) (bs : List Byte) :
    (earlyRead s tid pas bs).1.mem = s.mem ∧ (earlyRead s tid pas bs).1.fab = s.fab ∧ ((earlyRead s tid pas bs).1.th tid).pend = (s.th tid).pend := by
  unfold earlyRead
  dsimp only
  split
  · exact ⟨rfl, rfl, rfl⟩
  split
  · exact ⟨rfl, rfl, rfl⟩
  · refine ⟨rfl, rfl, ?_⟩
    rw [th_onTh_self]
    rfl

/-- A load reads: nothing of memory, of the fabric or of the thread's list differs. -/
theorem performLoad_load_frame {s : State} {tid : Nat} {e : Pend} (kind : e.kind = .load) :
    (performLoad s tid e).2.d = e.d ∧ (performLoad s tid e).1.mem.bytes = s.mem.bytes ∧ (performLoad s tid e).1.mem.part = s.mem.part ∧
    (performLoad s tid e).1.fab = s.fab ∧ ((performLoad s tid e).1.th tid).pend = (s.th tid).pend := by
  unfold performLoad
  rw [kind]
  cases e.pas with
  | nil => exact ⟨rfl, rfl, rfl, rfl, rfl⟩
  | cons pa rest =>
    obtain ⟨bytes, part, fab⟩ := noteRead_frame s tid e.unc (upto pa e.n)
    have th := noteRead_th s tid e.unc (upto pa e.n) tid
    dsimp only
    split
    · exact ⟨rfl, bytes, part, fab, congrArg Thread.pend th⟩
    · obtain ⟨mem', fab', pend'⟩ := earlyRead_frame (noteRead s tid e.unc (upto pa e.n)) tid (upto pa e.n)
        (readAs (s.refresh (upto pa e.n)) tid (upto pa e.n))
      exact ⟨rfl, (congrArg Mem.bytes mem').trans bytes, (congrArg Mem.part mem').trans part, fab'.trans fab,
        pend'.trans (congrArg Thread.pend th)⟩

theorem load_keepsBytes {s t : State} {tid k : Nat} {e : Pend} (listed : (s.th tid).pend[k]? = some e) (kind : e.kind = .load)
    (h : execLoadComplete tid k s = .next t) : KeepsBytes (noQueue (s.th tid).pend) [] s t := by
  rcases execLoadComplete_cases listed h with rfl | performed
  · exact keepsBytes_refl _ _ _
  obtain ⟨d, bytes, part, fab, pend⟩ := performLoad_load_frame (s := s) (tid := tid) kind
  obtain ⟨mem, invs⟩ := retire_setPend_frame listed d (.inl pend)
  rw [performed]
  exact keepsBytes_of_same _ ((congrArg Mem.bytes mem).trans bytes) ((congrArg Mem.part mem).trans part)
    fun quiet => (invs quiet).trans (congrArg Fabric.invs fab)

/-! ### Read-modify-writes (R169, R341) -/

theorem post_pend (s : State) (u v tid : Nat) : ((s.post u v).th tid).pend = (s.th tid).pend := by
  by_cases same : tid = u
  · rw [same, State.post, th_onTh_self]
    rfl
  · rw [State.post, th_onTh_ne _ _ same]
    rfl

/-- What performing an access does where it writes some bytes of memory at home, or none. -/
def WritesAt (tid pa n : Nat) (s t : State) : Prop :=
  ∃ s0 : State, (∃ m : Mem, m.bytes = s.mem.bytes ∧ m.part = s.mem.part ∧ s0 = { s with mem := m }) ∧
    ((t.mem = s0.mem ∧ t.fab = s0.fab ∧ (t.th tid).pend = (s0.th tid).pend) ∨
      ∃ (w : Option Nat) (unc : List Nat) (bs : List Byte), bs.length = n ∧ t.mem = (homeWriteUnc s0 w unc pa bs).mem ∧
        t.fab = (homeWriteUnc s0 w unc pa bs).fab ∧ (t.th tid).pend = ((homeWriteUnc s0 w unc pa bs).th tid).pend)

theorem performLoad_rmw {s : State} {tid pa : Nat} {e : Pend} (kind : e.kind = .atom ∨ e.kind = .cas ∨ e.kind = .signal) (pas : e.pas = [pa]) :
    performLoad s tid e = performRmw s tid e pa := by
  unfold performLoad
  rcases kind with kind | kind | kind <;> rw [kind, pas]

theorem WritesAt.brought {tid pa n : Nat} {s t : State} (pas : List Nat) {w : Option Nat} {unc : List Nat} {bs : List Byte}
    (len : bs.length = n) (h : t = homeWriteUnc (s.bring pas) w unc pa bs) : WritesAt tid pa n s t :=
  ⟨s.bring pas, ⟨_, bring_bytes s pas, bring_part s pas, rfl⟩, .inr ⟨w, unc, bs, len, h ▸ rfl, h ▸ rfl, h ▸ rfl⟩⟩

theorem performRmw_atom {s : State} {tid pa : Nat} {e : Pend} (kind : e.kind = .atom) :
    WritesAt tid pa e.n s (performRmw s tid e pa).1 ∧ (performRmw s tid e pa).2.d = e.d := by
  unfold performRmw
  rw [kind]
  exact ⟨.brought _ (toBytes_length _ _) rfl, rfl⟩

theorem performRmw_cas {s : State} {tid pa : Nat} {e : Pend} (kind : e.kind = .cas) :
    WritesAt tid pa e.n s (performRmw s tid e pa).1 ∧ (performRmw s tid e pa).2.d = e.d := by
  unfold performRmw
  rw [kind]
  refine ⟨?_, rfl⟩
  dsimp only
  split
  · exact .brought _ (toBytes_length _ _) rfl
  · exact ⟨_, ⟨_, bring_bytes s _, bring_part s _, rfl⟩, .inl ⟨rfl, rfl, rfl⟩⟩

theorem performRmw_signal {s : State} {tid pa : Nat} {e : Pend} (kind : e.kind = .signal) :
    WritesAt tid pa 8 s (performRmw s tid e pa).1 ∧ (performRmw s tid e pa).2.d = e.d := by
  unfold performRmw
  rw [kind]
  refine ⟨?_, rfl⟩
  dsimp only
  split
  · exact ⟨_, ⟨_, bring_bytes s _, bring_part s _, rfl⟩, .inr ⟨_, _, _, toBytes_length _ _, post_mem .., post_fab .., post_pend ..⟩⟩
  · exact .brought _ (toBytes_length _ _) rfl

theorem keepsBytes_of_writesAt {s s1 : State} {tid k pa n : Nat} {e e1 : Pend} (listed : (s.th tid).pend[k]? = some e) (same : e1.d = e.d)
    (h : WritesAt tid pa n s s1) : KeepsBytes (noQueue (s.th tid).pend) (upto pa n) s (retire tid (setPend s1 tid k e1)) := by
  obtain ⟨_, ⟨m, bytes, part, rfl⟩, ⟨mem, fab, pend⟩ | ⟨w, unc, bs, rfl, mem, fab, pend⟩⟩ := h
  · obtain ⟨mem', invs⟩ := retire_setPend_frame listed same (.inl pend)
    refine keepsBytes_of_same _ ?_ ?_ fun quiet => (invs quiet).trans (congrArg Fabric.invs fab)
    · rw [mem', mem]; exact bytes
    · rw [mem', mem]; exact part
  · obtain ⟨mem', invs⟩ := retire_setPend_frame (s := { s with mem := m }) (s1 := s1) listed same
      (by rw [pend]; exact homeWriteUnc_pend _ w unc pa bs tid)
    exact .of_same (b := { s with mem := m }) bytes part rfl
      (keepsBytes_of_write w unc pa bs (mem'.trans mem) fun quiet => (invs quiet).trans (congrArg Fabric.invs fab))

section
variable {s t : State} {tid k pa : Nat} {e : Pend} (listed : (s.th tid).pend[k]? = some e) (pas : e.pas = [pa])
  (h : execLoadComplete tid k s = .next t)
include listed pas h

theorem atomic_keepsBytes (kind : e.kind = .atom ∨ e.kind = .cas) : KeepsBytes (noQueue (s.th tid).pend) (upto pa e.n) s t := by
  rcases execLoadComplete_cases listed h with rfl | performed
  · exact keepsBytes_refl _ _ _
  rw [performed, performLoad_rmw (kind.imp_right .inl) pas]
  rcases kind with atom | cas
  · obtain ⟨writes, d⟩ := performRmw_atom (s := s) (tid := tid) (pa := pa) atom
    exact keepsBytes_of_writesAt listed d writes
  · obtain ⟨writes, d⟩ := performRmw_cas (s := s) (tid := tid) (pa := pa) cas
    exact keepsBytes_of_writesAt listed d writes

theorem signal_keepsBytes (kind : e.kind = .signal) : KeepsBytes (noQueue (s.th tid).pend) (upto pa 8) s t := by
  rcases execLoadComplete_cases listed h with rfl | performed
  · exact keepsBytes_refl _ _ _
  rw [performed, performLoad_rmw (.inr (.inr kind)) pas]
  obtain ⟨writes, d⟩ := performRmw_signal (s := s) (tid := tid) (pa := pa) kind
  exact keepsBytes_of_writesAt listed d writes

end

/-! ### What a store wrote reads back (R103, R165) -/

theorem bankByte_mod_line (part p : Nat) : ((bankByte part p).1 * 262144 + (bankByte part p).2) % 64 = p % 64 := by
  unfold bankByte
  dsimp only
  split
  · dsimp only; omega
  · dsimp only; omega

theorem poolPa_mod_line (core p : Nat) : poolPa core p % 64 = p % 64 := by
  unfold poolPa poolBase gib
  generalize core / 384 = die
  generalize core % 384 = place
  omega

theorem poolAt_mod_line {pa : Nat} (base : poolBase ≤ pa) : (poolAt pa).2 % 64 = pa % 64 := by
  unfold poolBase at base
  simp only [poolAt, poolBase]
  omega

/-- A byte keeps its place within its line (R140, R146). -/
theorem key_mod_line (m : Mem) (pa : Nat) : m.key pa % 64 = pa % 64 := by
  cases inside : inPool pa
  · rw [key_outside m inside]
  · simp only [Mem.key, inside, if_true]
    rw [poolPa_mod_line, bankByte_mod_line, poolAt_mod_line ((inPool_iff pa).mp inside).1]

theorem rds_congr {m m' : Mem} (h : ∀ q, m'.rd q = m.rd q) (pa n : Nat) : m'.rds pa n = m.rds pa n := by
  induction n generalizing pa with
  | zero => rfl
  | succ n ih => rw [Mem.rds, Mem.rds, h, ih]

/-- Bytes written within one line read back. -/
theorem rds_wrs (bs : List Byte) (m : Mem) (pa : Nat) (line : pa % 64 + bs.length ≤ 64) : (m.wrs pa bs).rds pa bs.length = bs := by
  induction bs generalizing m pa with
  | nil => rfl
  | cons b bs ih =>
    rw [List.length_cons] at line
    have first : (m.wrs pa (b :: bs)).rd pa = b := by
      rw [Mem.wrs, rd_wrs_ne, rd_wr_self]
      intro i hi same
      have := key_mod_line (m.wr pa b) pa
      have := key_mod_line (m.wr pa b) (pa + 1 + i)
      omega
    rw [List.length_cons, Mem.rds, first, Mem.wrs, ih _ _ (by omega)]

/-- The peer window lies outside the pools. -/
theorem not_inPool_of_away {m : Mem} {pa p : Nat} (away : m.away pa = true) (above : pa ≤ p) : inPool p = false := by
  simp only [Mem.away, Bool.and_eq_true, decide_eq_true_eq] at away
  rw [← Bool.not_eq_true, inPool_iff]
  unfold poolBase gib
  omega

theorem wrsLaid_unreach (m : Mem) (core part o : Nat) (bs : List Byte) : (m.wrsLaid core part o bs).unreach = m.unreach :=
  (wrs_poison bs (m.asLaid core part) (poolPa core o)).2

theorem refresh_unreach (s : State) (pas : List Nat) : (s.refresh pas).mem.unreach = s.mem.unreach := by
  unfold State.refresh
  exact foldl_same Mem.unreach (fun m x => foldl_same Mem.unreach (fun m e => foldl_same Mem.unreach
    (fun m y => wrsLaid_unreach m ..) _ m) _ m) _ s.mem

theorem rds_homeWriteUnc (s : State) (w : Option Nat) (unc : List Nat) (pa : Nat) (bs : List Byte) (line : pa % 64 + bs.length ≤ 64) :
    (homeWriteUnc s w unc pa bs).mem.rds pa bs.length = if s.mem.away pa then s.mem.rds pa bs.length else bs := by
  have reads := rds_congr (rd_of_bytes (homeWriteUnc_bytes s w unc pa bs) (by rw [homeWriteUnc_part, store_part, refresh_part])) pa bs.length
  have reachable : (s.refresh (upto pa bs.length)).mem.away pa = s.mem.away pa := by rw [Mem.away, Mem.away, refresh_unreach]
  rw [reads]
  cases away : s.mem.away pa
  · have wrote := rd_of_bytes (store_bytes bs (reachable.trans away)) (by rw [store_part, wrs_part])
    rw [rds_congr wrote, rds_wrs bs _ pa line]
    rfl
  · rw [store_away bs (reachable.trans away), refresh_of_no_pool]
    · rfl
    · intro p hp
      rw [ne_eq, kind_pool, not_inPool_of_away away (mem_upto_iff.mp hp).1]
      simp

theorem store_readsBack {s t : State} {tid k pa : Nat} {e : Pend} (listed : (s.th tid).pend[k]? = some e) (kind : e.kind = .store)
    (pas : e.pas = [pa]) (outside : s.specul tid = none) (ready : mayPerform (s.th tid).pend k = true) (unbarred : s.barred tid = false)
    (line : pa % 64 + e.n ≤ 64) (h : execStoreRetire tid k s = .next t) :
    t.mem.rds pa e.n = if s.mem.away pa then s.mem.rds pa e.n else toBytes e.n e.data.toNat := by
  have performed := execStoreRetire_performs listed ready (by rw [kind]; rfl) (by rw [kind]; rfl) unbarred
  rw [performStore_store kind pas, writeAs_outside outside] at performed
  rw [performed] at h
  cases h
  rw [retire_mem]
  have written := rds_homeWriteUnc s (s.writer tid) e.unc pa (toBytes e.n e.data.toNat) (by rwa [toBytes_length])
  rwa [toBytes_length] at written

/-- Settles O55: each event leaves the bytes that it does not write, by the lemma above about its kind, and a store's bytes read back. -/
theorem performedAccessesFrame : Obligations.PerformedAccessesFrame := by
  unfold Obligations.PerformedAccessesFrame
  refine ⟨fun tid k pa s t e listed kind pas h => ⟨fun outside => ⟨?kept, ?written⟩, ?task⟩, ?load, ?rmw⟩
  case kept => exact store_keepsBytes listed kind pas outside h
  case written => exact fun ready unbarred line => store_readsBack listed kind pas outside ready unbarred line h
  case task => exact fun inside => taskStore_keepsBytes listed kind pas inside h
  case load => exact fun tid k s t e listed kind h => load_keepsBytes listed kind h
  case rmw => exact fun tid k pa s t e listed pas h => ⟨atomic_keepsBytes listed pas h, signal_keepsBytes listed pas h⟩

end Sys2Proof.Machine
end

section
/-! PROOFS. Integer words complete (spec 05_integer R85 to R95). -/
open Sys2Proof Sys2Proof.Machine

namespace Sys2Proof.Machine

/-! ### Words that compute one value -/

section
variable {f : Pure3} {x : T3} {s s1 : State} {a b : W} (readA : srcV s x.a = .ok a) (readB : srcV s x.b = .ok b)
include readA readB

/-- A word of two operands that issues, with readable sources and a destination that takes its value. -/
theorem computeT3_writes (issues : Issues x.pg [x.a, x.b] [x.d] s) (free : needQ [x.d, x.a, x.b] s = .ok ())
    (put : putV x.d (f x.fn.toNat x.md.toNat a b 0).1 (deqAll [x.a, x.b] s) = .ok s1) :
    computeT3 f false x s = .next (advance (s1.onMe fun t => t.orFlags (f x.fn.toNat x.md.toNat a b 0).2)) :=
  issue_ok issues ((bind_of_ok free _).trans ((bind_of_ok readA _).trans ((bind_of_ok readB _).trans (bind_of_ok put _))))

/-- The same of three operands. -/
theorem computeT3_writes_three {c : W} (readC : srcV s x.c = .ok c) (issues : Issues x.pg [x.a, x.b, x.c] [x.d] s)
    (free : needQ [x.d, x.a, x.b, x.c] s = .ok ())
    (put : putV x.d (f x.fn.toNat x.md.toNat a b c).1 (deqAll [x.a, x.b, x.c] s) = .ok s1) :
    computeT3 f true x s = .next (advance (s1.onMe fun t => t.orFlags (f x.fn.toNat x.md.toNat a b c).2)) :=
  issue_ok issues ((bind_of_ok free _).trans ((bind_of_ok readA _).trans ((bind_of_ok readB _).trans ((bind_of_ok readC _).trans
    (bind_of_ok put _)))))

end

/-- The same of one operand and an immediate. -/
theorem computeTI_writes {f : Nat → Nat → W → W × Nat} {x : TI} {s s1 : State} {a : W} (readA : srcV s x.a = .ok a)
    (issues : Issues x.pg [x.a] [x.d] s) (free : needQ [x.d, x.a] s = .ok ())
    (put : putV x.d (f x.fn.toNat x.imm.toNat a).1 (deqAll [x.a] s) = .ok s1) :
    computeTI f x s = .next (advance (s1.onMe fun t => t.orFlags (f x.fn.toNat x.imm.toNat a).2)) :=
  issue_ok issues ((bind_of_ok free _).trans ((bind_of_ok readA _).trans (bind_of_ok put _)))

/-! ### Two operands (R87, R88, R94, R95) -/

/-- A word whose operation gives a result. -/
def ComputesTo (mk : T3 → Instr) (fn md : Nat) (a b : W) (r : W × Nat) : Prop :=
  ∃ f : Pure3, (∀ x s, exec (mk x) s = computeT3 f false x s) ∧ f fn md a b 0 = r

/-- Each integer word runs the operation whose value its rule gives. -/
theorem integerResults_computed (fn md : Nat) (a b : W) : ∀ e ∈ integerResults fn md a b, ComputesTo e.1 fn md a b e.2 := by
  rw [← List.forall_iff_forall_mem]
  exact ⟨⟨intAdd, fun _ _ => rfl, rfl⟩, ⟨intSub, fun _ _ => rfl, rfl⟩, ⟨intMul, fun _ _ => rfl, rfl⟩, ⟨intMulh, fun _ _ => rfl, rfl⟩,
    ⟨intDiv, fun _ _ => rfl, rfl⟩, ⟨intRem, fun _ _ => rfl, rfl⟩, ⟨intMin, fun _ _ => rfl, rfl⟩, ⟨intMax, fun _ _ => rfl, rfl⟩,
    ⟨intAbs, fun _ _ => rfl, rfl⟩, ⟨intNeg, fun _ _ => rfl, rfl⟩, ⟨intAnd, fun _ _ => rfl, rfl⟩, ⟨intOr, fun _ _ => rfl, rfl⟩,
    ⟨intXor, fun _ _ => rfl, rfl⟩, ⟨intAndn, fun _ _ => rfl, rfl⟩, ⟨intShl, fun _ _ => rfl, rfl⟩, ⟨intShr, fun _ _ => rfl, rfl⟩,
    ⟨intSar, fun _ _ => rfl, rfl⟩, ⟨intRol, fun _ _ => rfl, rfl⟩, ⟨intPopc, fun _ _ => rfl, rfl⟩, ⟨intClz, fun _ _ => rfl, rfl⟩,
    ⟨intCtz, fun _ _ => rfl, rfl⟩, ⟨intSatn, fun _ _ => rfl, rfl⟩, ⟨intHash, fun _ _ => rfl, rfl⟩⟩

/-- Settles O1: each word runs the operation of its rule, and a word of two operands completes with the value of its operation. -/
theorem integerWordsCompute : Obligations.IntegerWordsCompute := by
  unfold Obligations.IntegerWordsCompute
  intro x s s1 a b issues free readA readB e listed put
  obtain ⟨f, runs, value⟩ := integerResults_computed _ _ a b e listed
  rw [← value] at put ⊢
  rw [runs]
  exact computeT3_writes readA readB issues free put

/-! ### MADD and SEL (R87, R92) -/

/-- Settles O2: MADD is a word of three operands; SEL one of two, its operation chosen by its predicate. -/
theorem maddSelComplete : Obligations.MaddSelComplete := by
  unfold Obligations.MaddSelComplete
  exact ⟨fun x s s1 a b c issues free readA readB readC put => computeT3_writes_three readA readB readC issues free put,
    fun x s s1 a b issues free readA readB put => computeT3_writes readA readB issues free put⟩

/-! ### BFX, BFI and ADDI (R90, R93) -/

section
variable {fn imm : Nat} (fits : bits imm 5 0 + bits imm 14 8 ≤ iw fn) (named : 1 ≤ bits imm 14 8)
include fits named

/-- Of a field that the type holds, thread form takes POS as it stands. -/
theorem fldPos_of_fits : fldPos fn imm = bits imm 5 0 :=
  Nat.mod_eq_of_lt (by omega)

/-- Nor does it cut LEN. -/
theorem fldLen_of_fits : fldLen fn imm = bits imm 14 8 := by
  rw [fldLen, fldPos_of_fits fits named]
  exact Nat.min_eq_left (by omega)

theorem intBfx_of_fits (a : W) :
    let len := bits imm 14 8
    let field := a.toNat >>> bits imm 5 0 % 2 ^ len
    intBfx fn imm a = (if isSigned fn then wInt (sext field len) else w64 field, 0) := by
  rw [intBfx, fldPos_of_fits fits named, fldLen_of_fits fits named]

theorem intBfi_of_fits (a base : W) :
    let w := iw fn
    let pos := bits imm 5 0
    let mask := (2 ^ bits imm 14 8 - 1) <<< pos
    (intBfi fn imm a base).1 = wInt (valOf fn ((base.toNat % 2 ^ w &&& (2 ^ w - 1 - mask)) ||| (a.toNat <<< pos &&& mask))) := by
  rw [intBfi, fldPos_of_fits fits named, fldLen_of_fits fits named]
  rfl

end

theorem execBfi_writes {x : TI} {s s1 : State} {a : W} (issues : Issues x.pg [x.a, x.d] [x.d] s) (free : needQ [x.a] s = .ok ())
    (readA : srcV s x.a = .ok a)
    (put : putV x.d (intBfi x.fn.toNat x.imm.toNat a (s.me.rg x.d.toNat)).1 (deqAll [x.a] s) = .ok s1) :
    execBfi x s = .next (advance s1) :=
  issue_ok issues ((bind_of_ok free _).trans ((bind_of_ok readA _).trans (bind_of_ok put _)))

/-- Settles O3: each word completes with the value of its operation, which on a field that the type holds is the value of R90. -/
theorem immediateWordsCompute : Obligations.ImmediateWordsCompute := by
  unfold Obligations.ImmediateWordsCompute
  refine ⟨fun x s s1 a issues free readA => ⟨?extract, ?add⟩, ?insert⟩
  case extract =>
    intro pos len fits named put
    have value := intBfx_of_fits fits named a
    have done := computeTI_writes (f := intBfx) readA issues free (by rw [value]; exact put)
    rwa [value] at done
  case add => exact fun put => computeTI_writes readA issues free put
  case insert =>
    intro x s s1 a issues free readA w pos len mask base fits named put
    exact execBfi_writes issues free readA (by rw [intBfi_of_fits fits named]; exact put)

/-! ### SATN (R94) -/

theorem sext_toNat_eq_toInt (a : W) : sext a.toNat 64 = a.toInt := by
  have bound := a.isLt
  unfold sext
  rw [BitVec.toInt_eq_toNat_cond]
  simp only [Nat.mod_eq_of_lt bound]
  split <;> split <;> omega

theorem iw_eq (fn : Nat) : iw fn = 8 * 2 ^ (fn % 4) := Nat.shiftLeft_eq ..

theorem loOf_le_hiOf (fn : Nat) : loOf fn ≤ hiOf fn := by
  unfold loOf hiOf
  have half : 0 < 2 ^ (iw fn - 1) := Nat.two_pow_pos _
  have full : 0 < 2 ^ iw fn := Nat.two_pow_pos _
  split <;> omega

theorem clampTo_eq_max_min (fn : Nat) (x : Int) : clampTo fn x = max (loOf fn) (min (hiOf fn) x) := by
  have ordered := loOf_le_hiOf fn
  unfold clampTo
  split
  · omega
  · split <;> omega

theorem loOf_eq (fn : Nat) : loOf fn = if fn / 4 % 2 = 0 then -((2 ^ (8 * 2 ^ (fn % 4) - 1) : Nat) : Int) else 0 := by
  simp [loOf, isSigned, iw_eq]

theorem hiOf_eq (fn : Nat) : hiOf fn =
    if fn / 4 % 2 = 0 then ((2 ^ (8 * 2 ^ (fn % 4) - 1) : Nat) : Int) - 1 else ((2 ^ (8 * 2 ^ (fn % 4)) : Nat) : Int) - 1 := by
  simp [hiOf, isSigned, iw_eq]

/-- SATN's value is A clamped, and its flag says whether that is another value. -/
theorem intSatn_eq (fn md : Nat) (a b c : W) :
    let r := max (loOf fn) (min (hiOf fn) a.toInt)
    intSatn fn md a b c = (BitVec.ofInt 64 r, if r = a.toInt then 0 else fSA) := by
  intro r
  have clamped : clampTo fn (sext a.toNat 64) = r := by rw [sext_toNat_eq_toInt, clampTo_eq_max_min]
  have flag : flagIf (decide (r ≠ a.toInt)) fSA = if r = a.toInt then 0 else fSA := by simp [flagIf]
  rw [intSatn, finInt, if_pos rfl, clamped, sext_toNat_eq_toInt, flag]
  rfl

/-- FN 3 and 7 are no type of SATN, which has no 64-bit form. -/
theorem legal_satn_reserved {x : T3} (reserved : x.fn = 3 ∨ x.fn = 7) : legal (.satn x) = false := by
  obtain ⟨fn, pg, d, a, b, c, md⟩ := x
  have refused : fnOk 0x1b fn.toNat c.toNat = false := by
    rcases reserved with rfl | rfl <;> rfl
  simp [legal, t3Ok, refused]

theorem decodeThread_satn_reserved {w : W} (op : opOf w = 0x1b) (reserved : w.extractLsb' 50 5 = 3 ∨ w.extractLsb' 50 5 = 7) :
    ∃ e, decodeThread w = .error e := by
  cases decodes : decodeThread w with
  | error e => exact ⟨e, rfl⟩
  | ok i =>
    obtain ⟨-, raw, wf⟩ := decodeThread_eq_ok_iff.mp decodes
    rw [rawThread, op] at raw
    have row : .satn (getT3 w) = i := Option.some.inj raw
    have refused : legal (.satn (getT3 w)) = false := legal_satn_reserved reserved
    rw [row, wf] at refused
    cases refused

/-- Settles O58: a word of two operands completes with the value of its operation, which for SATN is the clamp of R94. -/
theorem satnClampsAsR94Says : Obligations.SatnClampsAsR94Says := by
  unfold Obligations.SatnClampsAsR94Says
  refine ⟨?word, by decide, by decide, fun w op _ => decodeThread_satn_reserved op⟩
  intro x s s1 a b issues free readA readB w lo hi r put
  have value : intSatn x.fn.toNat x.md.toNat a b 0 = (BitVec.ofInt 64 r, if r = a.toInt then 0 else fSA) := by
    rw [intSatn_eq, loOf_eq, hiOf_eq]
  have done := computeT3_writes (f := intSatn) readA readB issues free (by rw [value]; exact put)
  rwa [value] at done

/-! ### HASH (R95) -/

/-- A shift to the right by one or more moves every word but zero. -/
theorem eq_zero_of_eq_ushiftRight {d : W} {k : Nat} (moves : 0 < k) (same : d = d >>> k) : d = 0 := by
  have halves : d.toNat = d.toNat / 2 ^ k := by
    conv_lhs => rw [same, BitVec.toNat_ushiftRight, Nat.shiftRight_eq_div_pow]
  by_contra nonzero
  have pos : 0 < d.toNat := Nat.pos_of_ne_zero fun zero => nonzero (BitVec.eq_of_toNat_eq zero)
  have smaller := Nat.div_lt_self pos (Nat.one_lt_two_pow moves.ne')
  omega

/-- A step of the mix that shifts loses nothing: the difference of two words with one image is its own shift. -/
theorem xorShift_injective {x y : W} {k : Nat} (moves : 0 < k) (same : x ^^^ x >>> k = y ^^^ y >>> k) : x = y := by
  have shifted : x ^^^ y = (x ^^^ y) >>> k := by
    rw [BitVec.ushiftRight_xor_distrib]
    calc x ^^^ y = (x ^^^ x >>> k) ^^^ x >>> k ^^^ y := by rw [BitVec.xor_assoc x, BitVec.xor_self, BitVec.xor_zero]
      _ = (y ^^^ y >>> k) ^^^ x >>> k ^^^ y := by rw [same]
      _ = x >>> k ^^^ y >>> k := by ac_nf; simp
  exact BitVec.xor_eq_zero_iff.mp (eq_zero_of_eq_ushiftRight moves shifted)

/-- The products between lose nothing either: each constant, being odd, has an inverse. -/
theorem mul_injective_of_inverse {c inv x y : W} (inverse : c * inv = 1) (same : x * c = y * c) : x = y :=
  (IsUnit.of_mul_eq_one inv inverse).mul_left_inj.mp same

theorem hash64_injective {a a' b : W} (same : hash64 a b = hash64 a' b) : a = a' := by
  have last := xorShift_injective (by decide) same
  have second := mul_injective_of_inverse (inv := 0xeffe815af3026a41#64) (by decide) last
  have middle := xorShift_injective (by decide) second
  have first := mul_injective_of_inverse (inv := 0xcfee444d8b59a89b#64) (by decide) middle
  exact (BitVec.xor_left_inj b).mp (xorShift_injective (by decide) first)

theorem hash64_self (a : W) : hash64 a a = 0 := by
  simp [hash64]

/-! ### What the mix chooses (R149, R155, R275, R355) -/

theorem fld_low (w : W) (hi : Nat) : fld w hi 0 = w.toNat % 2 ^ (hi + 1) := rfl

/-- Die and shard group give a multiple of four. -/
theorem low_mod_four (die shard low : Nat) : (die * 32 + 4 * shard + low % 4) % 4 = low % 4 := by omega

theorem homeSlice_mod_four (pa : Nat) : homeSlice pa % 4 = (hash64 (w64 (pa / 64)) 0).toNat % 4 := by
  rw [homeSlice, fld_low]
  exact low_mod_four _ _ _

theorem flowOf_isSome {s : State} {src dst cls but : Nat}
    (up : 0 < ((portsOf (Tab.getD s.out.route dst 0)).filter fun p => s.portUp p && decide (p ≠ but)).length) :
    (flowOf s src dst cls but).isSome = true := by
  rw [flowOf, List.getElem?_eq_getElem (Nat.mod_lt _ up)]
  rfl

/-- A read that succeeds hands its result to the rest. -/
theorem readBind_of_ok {α β : Type} {m : Except ReadErr α} {a : α} (read : m = .ok a) (rest : α → Except ReadErr β) : m >>= rest = rest a := by
  rw [read]
  rfl

section
variable {c : Ctx} {s1 s2 s3 : State} {net : Net} {x y : Nat} {bs : List Byte}
  (first : attrAt c.s c.i net (mWid (c.val 0) 0) (bits c.lit 5 2) = .ok (s1, x))
  (second : attrAt s1 c.i net (mWid (c.val 0) (bits c.lit 11 10)) (bits c.lit 9 6) = .ok (s2, y))
include first second

/-- A lookup that hits answers from the entry that the mix of the scorer's inputs and generation chooses (R275). -/
theorem scoreLook_hit :
    let gen := (Tab.getD net.scorers (bits c.lit 1 0) ⟨0, [], 0, 0⟩).gen
    let key := (hash64 (w64 (x % 2 ^ 24 * 2 ^ 24 + y % 2 ^ 24)) (w64 gen)).toNat % 2 ^ 56
    readVa s2 c.i.who (scoreVa net (key % net.scap)) 16 = .ok (s3, bs) → scoreHit bs key gen = true →
    scoreLook c net (c.tok 0) =
      .ok (c.done s3 (taken c [0]) [only 1 ⟨w64 (leAt bs 8 4), (c.tok 0).tag, resFlg false [c.flg 0], 0⟩]) := by
  intro gen key read hit
  exact (readBind_of_ok first _).trans ((readBind_of_ok second _).trans ((readBind_of_ok read _).trans (if_pos hit)))

end

/-- Settles O59: the mix is its six steps, each without loss; each choice is the mix of its values; a hit answers from the entry of its key. -/
theorem hashIsTheMixOfR95 : Obligations.HashIsTheMixOfR95 := by
  unfold Obligations.HashIsTheMixOfR95
  refine ⟨fun a b => rfl, fun a a' b => hash64_injective, hash64_self, ?word, homeSlice_mod_four, fun die ctxid va => rfl, ?flow, ?hit⟩
  case word => exact fun x s s1 a b issues free readA readB put => computeT3_writes (f := intHash) readA readB issues free put
  case flow =>
    rintro s src dst cls n ps rfl rfl up
    exact ⟨rfl, flowOf_isSome up⟩
  case hit =>
    intro w s s1 s2 s3 c net x y bs ctx network present plus unasked first second gen key out read hit clean space
    obtain rfl := nodeCtx_s ctx
    have asks : ¬(!c.has 0 || (Tab.look c.st.score c.tag).isSome) = true := by simp [present, unasked]
    have notReserved : mKind (c.val 0) ≠ 3 := by rw [plus]; decide
    refine matchFire_ok ctx clean network ?_
    exact (if_neg asks).trans ((if_neg notReserved).trans ((if_pos plus).trans
      ((scoreLook_hit first second read hit).trans (congrArg Except.ok (done_eq_sentFrom space)))))

end Sys2Proof.Machine
end

section
/-! PROOFS. Branches, HALT, YIELD, SPAWN and TDIRECT (spec 05_integer R98 to R102, 09_memory_ops R181). -/
open Sys2Proof Sys2Proof.Machine

namespace Sys2Proof.Machine

/-! ### Branches (R98) -/

theorem execBr_jumps {x : TB} {s : State} (issues : Issues x.pg [] [] s) : execBr x s = .next (goto (relTarget x s) s) :=
  issueJump_ok issues rfl

theorem execCall_links {x : TB} {s : State} (issues : Issues x.pg [] [x.a] s) :
    execCall x s = .next ((goto (relTarget x s) s).onMe fun t => t.wg x.a.toNat (s.me.pc + 8)) :=
  issueJump_ok issues rfl

section
variable {x : TB} {s : State} (issues : Issues x.pg [x.a] [] s)
include issues

/-- BRI and RET branch alike. -/
theorem gotoReg_jumps (aligned : (s.me.rg x.a.toNat + dispBytes x.disp).toNat % 8 = 0) :
    issueJump x.pg [x.a] [] (gotoReg x) s = .next (s.onMe fun t => { t with pc := s.me.rg x.a.toNat + dispBytes x.disp }) :=
  issueJump_ok issues (if_neg (not_not.mpr aligned))

theorem gotoReg_traps (misaligned : (s.me.rg x.a.toNat + dispBytes x.disp).toNat % 8 ≠ 0) :
    issueJump x.pg [x.a] [] (gotoReg x) s = .next (takeTrap s.cur cALIGN s.me.pc (s.me.rg x.a.toNat + dispBytes x.disp) s) :=
  issueJump_trap issues (if_pos misaligned)

end

/-- Settles O8: each branch issues and jumps, links or traps, by the lemma above about its case. -/
theorem branchesSetThePc : Obligations.BranchesSetThePc := by
  unfold Obligations.BranchesSetThePc
  refine fun x s => ⟨execBr_jumps, execCall_links, fun issues => ?_⟩
  rw [← List.forall_iff_forall_mem]
  exact ⟨⟨gotoReg_jumps issues, gotoReg_traps issues⟩, gotoReg_jumps issues, gotoReg_traps issues⟩

/-! ### HALT, YIELD, SPAWN and TDIRECT (R99, R101, R102, R181) -/

section
variable {x : T3} {s : State} (issues : Issues x.pg [] [] s)
include issues

theorem execHalt_halts (noTask : s.taskOf s.cur = none) (loads : s.me.l = 0) (stores : s.me.s = 0) :
    execHalt x s = .next (s.onMe fun t => { t with st := .halted, why := .none }) := by
  refine issueJump_ok issues ?_
  rw [noTask]
  exact if_pos ⟨loads, stores⟩

theorem execYield_goesLast : execYield x s = .next (advance { s with rr := Tab.put s.rr (shardOf s.cur) s.cur }) := issue_ok issues rfl

theorem execTdirect_completes (outside : s.specul s.cur = none) : execTdirect x s = .next (advance s) :=
  issue_ok issues (bind_of_ok (needIrrev_ok outside) _)

end

section
variable {x : TB} {s : State} (issues : Issues x.pg [x.a] [x.a] s) (outside : s.specul s.cur = none)
include issues outside

theorem execSpawn_noneHalted (noneHalted : haltedThread s (shardOf s.cur) = none) :
    execSpawn x s = .next (advance (s.onMe fun t => t.wg x.a.toNat allOnes)) := by
  refine issue_ok issues ((bind_of_ok (needIrrev_ok outside) _).trans ?_)
  rw [noneHalted]

theorem execSpawn_starts {n : Nat} (halted : haltedThread s (shardOf s.cur) = some n) :
    execSpawn x s = .next (advance ((startThread s n s.me (relTarget x s) (s.me.rg 1) (s.me.rg x.a.toNat) 0).onMe fun t =>
      t.wg x.a.toNat (w64 n))) := by
  refine issue_ok issues ((bind_of_ok (needIrrev_ok outside) _).trans ?_)
  rw [halted]

end

/-- Settles O9: each word issues and its body runs to its end, by the lemma above about its case. -/
theorem threadsStartYieldHalt : Obligations.ThreadsStartYieldHalt := by
  unfold Obligations.ThreadsStartYieldHalt
  exact ⟨fun x s issues => ⟨execHalt_halts issues, execYield_goesLast issues, execTdirect_completes issues⟩,
    fun x s issues outside => ⟨execSpawn_noneHalted issues outside, fun n => execSpawn_starts issues outside⟩⟩

end Sys2Proof.Machine
end

section
/-! PROOFS. WAITA, BWAIT and IDLE park or complete (spec 05_integer R100, 16_counters R320, 17_faults R341). -/
open Sys2Proof Sys2Proof.Machine

namespace Sys2Proof.Machine

/-! ### WAITA and BWAIT (R100, R320) -/

/-- WAITA waits for its word: it holds the expected value, there is time to wait, and no enabled interrupt is pending. -/
abbrev Watches (x : TM) (s : State) (word : W) : Prop := word = s.me.rg x.d.toNat ∧ s.me.rg (x.d.toNat + 1) ≠ 0 ∧ s.me.intReady = false

/-- BWAIT waits for its barrier: there is time to wait, GEN is the awaited one, and ARRIVED is below EXPECTED. -/
abbrev AwaitsBarrier (x : TM) (s : State) (m : Mem) (pa : Nat) : Prop :=
  s.me.rg (x.d.toNat + 1) ≠ 0 ∧ m.word (pa + 16) 4 = (s.me.rg x.d.toNat).toNat % 2 ^ 32 ∧ m.word pa 8 < m.word (pa + 8) 8

section
variable {x : TM} {s s0 : State} {t : Xl} (outside : s.specul s.cur = none)
include outside

/-- Past its checks WAITA parks on its word or takes it. -/
theorem execWaita_answers (issues : Issues x.pg [x.a, x.d, x.d + 1] [x.d] s) (aligned : addrTM x s % 8 = 0)
    (mapped : xlate .read (addrTM x s) 8 s = .ok (s0, t)) (behind : settled s.me (decide (x.rel = 1)) (upto t.pa 8) = true)
    (clean : (s0.reads t 8).mem.bad t.pa = false) :
    let s1 := s0.reads t 8
    let v := w64 (s1.mem.word t.pa 8)
    execWaita x s = .next (if Watches x s v
      then park (.watch t.pa (s.me.rg x.d.toNat) (s.me.rg (x.d.toNat + 1)) (w64 s.gtsc) x.d.toNat false) s1
      else advance (s1.onMe fun th => (th.wg x.d.toNat v).sync (decide (x.acq = 1)))) := by
  refine issueJump_ok issues ((bind_of_ok (if_pos aligned) _).trans ((bind_of_ok (needIrrev_ok outside) _).trans ((bind_of_ok mapped _).trans
    ((if_neg ?_).trans ((if_neg ?_).trans (apply_ite Except.ok ..).symm)))))
  · rw [behind]; decide
  · rw [clean]; decide

/-- Past its checks BWAIT parks on its barrier or takes GEN and ARRIVED. -/
theorem execBwait_answers (issues : Issues x.pg [x.a, x.d, x.d + 1] [x.d, x.d + 1] s) (mapped : xlate .read (addrTM x s) 32 s = .ok (s0, t))
    (behind : settled s.me false (upto t.pa 32) = true) (clean : (s0.reads t 32).mem.bad t.pa = false) :
    let s1 := s0.reads t 32
    execBwait x s = .next (if AwaitsBarrier x s s1.mem t.pa
      then park (.barrier t.pa ((s.me.rg x.d.toNat).toNat % 2 ^ 32) (s.me.rg (x.d.toNat + 1)) (w64 s.gtsc) x.d.toNat false) s1
      else advance ((takeBarrier s1 s.cur t.pa x.d.toNat).onMe fun th => th.sync (decide (x.acq = 1)))) := by
  refine issueJump_ok issues ((bind_of_ok (needIrrev_ok outside) _).trans ((bind_of_ok mapped _).trans
    ((if_neg ?_).trans ((if_neg ?_).trans (apply_ite Except.ok ..).symm))))
  · rw [behind]; decide
  · rw [clean]; decide

end

/-! ### IDLE (R341) -/

section
variable {x : T3} {s : State} (issues : Issues x.pg [] [] s)
include issues

theorem execIdle_goesOn (ready : s.me.intReady = true) : execIdle x s = .next (advance s) := issueJump_ok issues (if_pos ready)

theorem execIdle_parks (quiet : s.me.intReady = false) : execIdle x s = .next (park .idle s) := issueJump_ok issues (if_neg (by simp [quiet]))

end

/-- Settles O10: each word issues past its checks, and parks or completes as the lemma above about it says. -/
theorem parkingWordsPark : Obligations.ParkingWordsPark := by
  unfold Obligations.ParkingWordsPark
  refine ⟨?waita, ?bwait, fun x s issues => ⟨execIdle_goesOn issues, execIdle_parks issues⟩⟩
  case waita =>
    intro x s s0 t issues aligned outside mapped s1 behind clean v e tmo
    have answers := execWaita_answers outside issues aligned mapped behind clean
    exact ⟨fun watches => answers.trans (congrArg _ (if_pos watches)), fun passes => answers.trans (congrArg _ (if_neg passes))⟩
  case bwait =>
    intro x s s0 t issues outside mapped s1 m behind clean want tmo early
    have answers := execBwait_answers outside issues mapped behind clean
    exact ⟨fun waits => answers.trans (congrArg _ (if_pos waits)), fun passed => answers.trans (congrArg _ (if_neg passed))⟩

end Sys2Proof.Machine
end

section
/-! PROOFS. Floating and scalar conversion words complete (spec 07_float R125 to R135). -/
open Sys2Proof Sys2Proof.Machine

namespace Sys2Proof.Machine

/-- A word whose operation, chosen by its CIMM where that names its source format (R130, R131), gives a result. -/
def FloatComputesTo (mk : T3 → Instr) (fn md cimm : Nat) (a b : W) (r : W × Nat) : Prop :=
  ∃ f : Nat → Pure3, (∀ x s, exec (mk x) s = computeT3 (f x.c.toNat) false x s) ∧ f cimm fn md a b 0 = r

/-- Each floating or conversion word runs the operation whose value and flags its rule gives. -/
theorem floatResults_computed (fn md cimm : Nat) (a b : W) :
    ∀ e ∈ floatResults fn md cimm a b, FloatComputesTo e.1 fn md cimm a b e.2 := by
  rw [← List.forall_iff_forall_mem]
  exact ⟨⟨fun _ => fltAdd, fun _ _ => rfl, rfl⟩, ⟨fun _ => fltSub, fun _ _ => rfl, rfl⟩, ⟨fun _ => fltMul, fun _ _ => rfl, rfl⟩,
    ⟨fun _ => fltMinMax false, fun _ _ => rfl, rfl⟩, ⟨fun _ => fltMinMax true, fun _ _ => rfl, rfl⟩,
    ⟨fun _ => fltUnary rcpOf, fun _ _ => rfl, rfl⟩, ⟨fun _ => fltUnary rsqOf, fun _ _ => rfl, rfl⟩,
    ⟨fun _ => fltUnary exp2Of, fun _ _ => rfl, rfl⟩, ⟨fun _ => fltUnary log2Of, fun _ _ => rfl, rfl⟩,
    ⟨fun _ => fltUnary tanhOf, fun _ _ => rfl, rfl⟩, ⟨fun _ => fltUnary sigmOf, fun _ _ => rfl, rfl⟩,
    ⟨fun _ => fltClass, fun _ _ => rfl, rfl⟩, ⟨fun _ => fltScale, fun _ _ => rfl, rfl⟩,
    ⟨fltCvt, fun _ _ => rfl, rfl⟩, ⟨intCvt, fun _ _ => rfl, rfl⟩,
    ⟨fun _ => fltE8 false, fun _ _ => rfl, rfl⟩, ⟨fun _ => fltE8 true, fun _ _ => rfl, rfl⟩⟩

/-- Settles O5: each word of at most two operands completes with the value of its rule's operation, and FMA is a word of three operands. -/
theorem floatWordsCompute : Obligations.FloatWordsCompute := by
  unfold Obligations.FloatWordsCompute
  refine ⟨?twoOperands, ?fma⟩
  case twoOperands =>
    intro x s s1 a b issues free readA readB e listed put
    obtain ⟨f, runs, value⟩ := floatResults_computed _ _ _ a b e listed
    rw [← value] at put ⊢
    rw [runs]
    exact computeT3_writes readA readB issues free put
  case fma =>
    intro x s s1 a b c issues free readA readB readC fn md p r y put
    exact computeT3_writes_three (f := fltFma) readA readB readC issues free put

end Sys2Proof.Machine
end

section
/-! PROOFS. Block conversions in thread form put one access in the thread's list (spec 07_float R132, R133). -/
open Sys2Proof Sys2Proof.Machine

namespace Sys2Proof.Machine

/-- The access that a block conversion puts in its thread's list: its source bytes at A and its destination bytes at D. -/
def convPend (x : T3) (s : State) (srcN : Nat) (ps qs : List Xl) : Pend :=
  { Pend.mk0 .conv x.fn.toNat 0 (s.me.rg x.a.toNat).toNat srcN (ps.map Xl.pa) with
    pas2 := qs.map Xl.pa, unc := uncOf (ps ++ qs), md := x.md.toNat, cimm := x.c.toNat }

/-- Past its checks a block conversion of either direction issues its access. -/
theorem convBody_issues {x : T3} {s s1 s2 s3 : State} {ps qs : List Xl} {srcN srcAl dstN dstAl : Nat} (issues : Issues x.pg [x.a, x.d] [] s)
    (pass : needAll [(.read, (s.me.rg x.a.toNat).toNat, srcN, srcAl), (.write, (s.me.rg x.d.toNat).toNat, dstN, dstAl)] s = .ok ())
    (source : xlatesX .read (s.me.rg x.a.toNat).toNat srcN s = .ok (s1, ps))
    (destination : xlatesX .write (s.me.rg x.d.toNat).toNat dstN s1 = .ok (s2, qs)) (cached : needCached ((ps ++ qs).all Xl.cached) s = .ok ())
    (loads : s.me.l < 63) (stores : s.me.s < 63) (lines : takeLines (qs.map fun p => s2.mem.key p.pa / 64).eraseDups s2 = .ok s3) :
    issue x.pg [x.a, x.d] [] (convBody x srcN srcAl dstN dstAl) s = .next (advance (pushPend (convPend x s srcN ps qs) s3)) :=
  issue_ok issues ((bind_of_ok pass _).trans ((bind_of_ok source _).trans ((bind_of_ok destination _).trans ((bind_of_ok cached _).trans
    ((bind_of_ok (needRoom_l_ok loads) _).trans ((bind_of_ok (needRoom_s_ok stores) _).trans (bind_of_ok lines _)))))))

/-- Settles O14: all four words issue the one body, the two packs and the two unpacks with the sizes and alignments of their formats. -/
theorem blockConversionsIssue : Obligations.BlockConversionsIssue := by
  unfold Obligations.BlockConversionsIssue
  intro x s s1 s2 s3 ps qs srcN srcAl dstN dstAl issues src dst pass source destination cached loads stores lines after
  have issued := convBody_issues issues pass source destination cached loads stores lines
  refine ⟨?packs, ?unpacks⟩
  all_goals
    rintro rfl rfl rfl rfl
    exact ⟨issued, issued⟩

end Sys2Proof.Machine
end

section
/-! PROOFS. Memory nodes fire, and a stopped requester resumes (spec 08_memories R144, R159, 12_nodes R225 to R227, R233). -/
open Sys2Proof Sys2Proof.Machine

namespace Sys2Proof.Machine

/-! ### Firings that read or write memory -/

section
variable {e : Instr} {s s2 : State} {c : Ctx} {f : Ctx → Option State} {i : Inv} {outs : List Emit} (ctx : nodeCtx s = some c)
include ctx

/-- A node's word that completes in a state and an invocation of its own making fires with them. -/
theorem fires_of_done (runs : exec e s = fire s f) (completes : f c = c.done s2 i outs) : Fires e s c s2 i outs := by
  obtain rfl := nodeCtx_s ctx
  intro clean space
  rw [runs]
  exact fire_ok ctx clean (completes.trans (done_eq_sentFrom space))

/-- The same of a node whose requester is not stopped (R159). -/
theorem fires_of_done_mem (moving : requesterStopped c = false) (runs : exec e s = fireMem s f) (completes : f c = c.done s2 i outs) :
    Fires e s c s2 i outs :=
  fires_of_done ctx runs ((if_neg (Bool.eq_false_iff.mp moving)).trans completes)

end

section
variable {w : NW} {s s2 : State} {c : Ctx} {bs : List Byte} {i2 : Inv} (ctx : nodeCtx s = some c)
include ctx

section
variable (moving : requesterStopped c = false) (left : c.has 0 = true)
include moving left

/-- A token on L starts a run (R225). -/
theorem agen_starts (idle : c.st.run = none) :
    Fires (.agen w) s c s (takenSt c [0] fun x => { x with run := some ⟨0, (c.val 0).toNat % 4096, c.tok 0⟩ }) [] := by
  obtain rfl := nodeCtx_s ctx
  refine fires_of_done_mem ctx moving rfl ?_
  rw [idle]
  exact if_pos left

/-- MLOAD of an element reads at the address of L (R227). -/
theorem mload_reads (element : bit w.lit.toNat 0 = false) (named : isVoid (c.val 0) = false)
    (walks : missBlocked s c.i.who (tokVa (c.val 0)) = none)
    (read : readVa s c.i.who (tokVa (c.val 0)) (unitBytes c.fn) = .ok (s2, bs)) :
    let v := loadVal c.fn (if isBlock c.fn then fld (c.val 0) 55 51 else 0) bs
    Fires (.mload w) s c s2 (taken c [0]) [⟨none, ⟨v, c.outTag c.tag v, resFlg false [c.flg 0], 0⟩⟩] := by
  obtain rfl := nodeCtx_s ctx
  refine fires_of_done_mem ctx moving rfl ((if_neg (by simp [element])).trans ((if_neg (by simp [left])).trans
    ((if_neg (by simp [named])).trans ((if_neg (by simp [walks])).trans ?_))))
  rw [read]
  rfl

/-- MSTORE of an element writes R at the address of L; its completion has the SCL of R (R227, log 91). -/
theorem mstore_writes (element : bit w.lit.toNat 0 = false) (right : c.has 1 = true) (named : isVoid (c.val 0) = false)
    (walks : missBlocked s c.i.who (tokVa (c.val 0)) = none)
    (written : writeVa s c.i.who none (tokVa (c.val 0)) (storeBytes c.fn (c.val 1)) = .ok s2) (lives : s2.inv c.iid = some i2) :
    let out : List Emit := [⟨none, ⟨0, c.outTag c.tag 0, resFlg (c.flg 1).scl [c.flg 0, c.flg 1], 0⟩⟩]
    canSend s c.i c.n c.nd c.tag out = true → Fires (.mstore w) s c s2 (i2.clearFields c.n c.tag [0, 1]) out := by
  obtain rfl := nodeCtx_s ctx
  intro out space
  refine fires_of_done_mem ctx moving rfl ((if_neg (by simp [element])).trans ((if_neg (by simp [left, right])).trans
    ((if_neg (by simp [named])).trans ((if_neg ?unheld).trans ?writes))))
  case unheld =>
    rw [walks, Bool.not_eq_true, Bool.or_eq_false_iff]
    exact ⟨rfl, (Bool.not_eq_false' _).mpr space⟩
  case writes =>
    rw [written]
    dsimp only
    rw [lives]
    rfl

/-- SPILL writes the token on L to the share of its destination, which has room (R233). -/
theorem spill_writes :
    let d := (c.tag + 65536 - c.base) % 65536
    let wr := Tab.getD c.st.wrote d 0
    (Tab.getD c.st.spill d []).length < spillCap c → writeVa s c.i.who none (spillVa c d wr) (tokBytes (c.tok 0)) = .ok s2 →
    s2.inv c.iid = some i2 →
    Fires (.spill w) s c s2 ((i2.clearFields c.n c.tag [0]).onSt c.n fun x =>
      { x with spill := Tab.put x.spill d (Tab.getD c.st.spill d [] ++ [c.tok 0]), wrote := Tab.put x.wrote d (wr + 1) }) [] := by
  obtain rfl := nodeCtx_s ctx
  intro d wr room written lives
  refine fires_of_done_mem ctx moving rfl ((if_pos (by rw [left]; exact decide_eq_true room)).trans ?_)
  rw [written]
  dsimp only
  rw [lives]

end

/-- RMW of a word within the scratchpad, in a bank that the invocation holds, writes what its atomic gives of the old value (R144, R227). -/
theorem rmw_writes (left : c.has 0 = true) :
    let off := fld (c.val 0) 63 32
    let part := s.mem.partOf c.nd.place.core
    let pa := poolPa c.nd.place.core (partRF part * 65536 + off)
    off % 4 = 0 → off < partSP part * 65536 → bankHeld s c.iid c.nd.place.core (partRF part * 65536 + off) = true → s.mem.bad pa = false →
    let old := (s.refresh (upto pa 4)).mem.word pa 4
    let v := atomVal w.fn.toNat old
    let out : List Emit := [⟨none, ⟨v, c.outTag c.tag v, resFlg false [c.flg 0], 0⟩⟩]
    let s2 := homeWrite s none pa (toBytes 4 (atomOp w.fn.toNat old (fld (c.val 0) 31 0)).1)
    canSend s c.i c.n c.nd c.tag out = true → s2.inv c.iid = some i2 → Fires (.rmw w) s c s2 (i2.clearFields c.n c.tag [0]) out := by
  obtain rfl := nodeCtx_s ctx
  intro off part pa aligned within held clean old v out s2 space lives
  have roomy : (!canSend c.s c.i c.n c.nd c.tag out) = false := (Bool.not_eq_false' _).mpr space
  refine fires_of_done ctx rfl ?_
  rw [if_neg (by simp [left]), if_neg (not_not.mpr aligned), if_neg (Nat.not_le.mpr within), if_neg (by simp [part, off, held]),
    if_neg (Bool.eq_false_iff.mp clean)]
  refine (if_neg (Bool.eq_false_iff.mp roomy)).trans ?_
  dsimp only [s2, old, pa, part, off] at lives ⊢
  rw [lives]
  rfl

end

/-- A stopped node gives up the token it keeps, and translates again when it next fires (R159). -/
theorem execRequesterResume_resumes {iid node : Nat} {s : State} {i : Inv} {t : Tok} (lives : s.inv iid = some i)
    (stopped : (i.st node).retained = some t) :
    execRequesterResume iid node s =
      .next (s.putInv iid { i.onSt node (fun x => { x with retained := none }) with pages := i.pages - 1 }) := by
  unfold execRequesterResume
  rw [lives]
  exact if_pos (by simp [stopped])

/-- Settles O29: each node fires as the lemma above about it says, and a stopped requester resumes. -/
theorem memoryNodesFire : Obligations.MemoryNodesFire := by
  unfold Obligations.MemoryNodesFire
  refine ⟨?moving, ?rmw, ?resume⟩
  case moving =>
    exact fun w s c ctx moving left => ⟨agen_starts ctx moving left, fun s2 bs => mload_reads ctx moving left,
      fun s2 i2 => mstore_writes ctx moving left, fun s2 i2 => spill_writes ctx moving left⟩
  case rmw => exact fun w s c i2 ctx left => rmw_writes ctx left
  case resume => exact fun iid node s i t lives stopped => execRequesterResume_resumes lives stopped

end Sys2Proof.Machine
end

section
/-! PROOFS. Banks pass, drain deltas act, waves turn their nodes (spec 08_memories R144, 12_nodes R243, R244). -/
open Sys2Proof Sys2Proof.Machine

namespace Sys2Proof.Machine

theorem execBankPass_passes {b : Nat} {s : State} (passing : (s.bank b).st = .passing) (served : (s.bank b).port = 0) :
    execBankPass b s = .next (s.putBank b { s.bank b with st := .awaiting }) := if_pos ⟨passing, served⟩

theorem execBankTokenArrival_holds {b : Nat} {s : State} (awaiting : (s.bank b).st = .awaiting) :
    execBankTokenArrival b s = .next (s.putBank b { s.bank b with st := .held, holder := (s.bank b).receiver }) := if_pos awaiting

section
variable {iid : Nat} {s : State} {i : Inv} (lives : s.inv iid = some i)
include lives

/-- A drain delta acts once every node that it lists has drained (R243). -/
theorem execDeltaDrainComplete_acts (phase : i.phase = .delta) (empty : ∀ e ∈ i.words, drained i e.1 = true) :
    execDeltaDrainComplete iid s = .next (endGraphCmd iid 0
      (s.putInv iid (i.words.foldl (fun i e => (i.reconf (constsOf s iid) e.1).onCt e.1 fun c => { c with hold := false }) i))) := by
  unfold execDeltaDrainComplete
  rw [lives]
  exact if_pos ⟨phase, List.all_eq_true.mpr empty⟩

/-- A node that FRS stands on, with no old token to fire and nothing to flush, turns (R244). -/
theorem execFreshetNodeReconfig_turns {n : Nat} {nd : Node} {s1 : State} (node : Tab.look i.nodes n = some nd) (phase : i.phase = .wave)
    (unturned : (i.ct n).waved = false) (stands : frsStands i n nd = true) (bare : bareSource i n nd = false) (old : canOld i n nd = false)
    (flushed : waveFlush ⟨s, iid, i, n, nd, baseTag iid⟩ = none) (turns : waveTurn ⟨s, iid, i, n, nd, baseTag iid⟩ = some s1) :
    execFreshetNodeReconfig iid n s = .next (endWave iid s1) := by
  unfold execFreshetNodeReconfig
  rw [lives]
  dsimp only
  rw [node]
  refine (if_neg (by simp [phase, unturned, stands, old])).trans ?_
  simp [bare, flushed, turns]

end

/-- Settles O37: banks, drain deltas and waves, each event by the lemma above about it. -/
theorem deltasAndWavesComplete : Obligations.DeltasAndWavesComplete := by
  unfold Obligations.DeltasAndWavesComplete
  refine ⟨?banks, ?drain, ?wave⟩
  case banks => exact fun b s => ⟨execBankPass_passes, execBankTokenArrival_holds⟩
  case drain => exact fun iid s i lives => execDeltaDrainComplete_acts lives
  case wave => exact fun iid n s s1 i nd lives => execFreshetNodeReconfig_turns lives

end Sys2Proof.Machine
end

section
/-! PROOFS. Ports, contributions, bridges and the patrol scrub (spec 08_memories R161, R162, 18_outside R354, R356, R359). -/
open Sys2Proof Sys2Proof.Machine

namespace Sys2Proof.Machine

/-! ### Ports (R354) -/

section
variable {s : State} {p : Nat}

theorem portUp_iff : s.portUp p = true ↔ p < 12 ∧ (s.port p).up = true := by simp [State.portUp]

theorem execFlitReceive_drops {f : List Byte} (bad : flitGood f = false ∨ flitSeq f ≠ (s.port p).expect ∨ 12 ≤ p) :
    execFlitReceive p f s = .next s := by
  rw [execFlitReceive, if_neg fun taken => ?_]
  rw [Bool.and_eq_true, Bool.and_eq_true, portUp_iff, decide_eq_true_eq] at taken
  obtain ⟨⟨⟨port, -⟩, good⟩, expected⟩ := taken
  rcases bad with broken | other | beyond
  · exact absurd good (Bool.eq_false_iff.mp broken)
  · exact other expected
  · exact absurd port (Nat.not_lt.mpr beyond)

section
variable (port : p < 12) (up : (s.port p).up = true)
include port up

theorem execFlitReceive_accepts {f : List Byte} (good : flitGood f = true) (expected : flitSeq f = (s.port p).expect) :
    execFlitReceive p f s = .next (s.putPort p ((s.port p).accept f)) := by
  rw [execFlitReceive, if_pos (by simp [portUp_iff.mpr ⟨port, up⟩, good, expected])]

/-- The oldest flit kept is resent, which its count tells. -/
theorem execFlitReplay_counts {g : List Byte} {n : Nat} {rest : List (List Byte × Nat)} (kept : (s.port p).replay = (g, n) :: rest) :
    execFlitReplay p s = .next (s.putPort p { s.port p with replay := (g, n + 1) :: rest }) := by
  unfold execFlitReplay
  simp only [kept, if_pos (portUp_iff.mpr ⟨port, up⟩)]

/-- A flit replayed 8 times takes its port down, and the flits move. -/
theorem execPortDown_moves (tired : ∃ e ∈ (s.port p).replay, 8 ≤ e.2) :
    execPortDown p s = .next (((s.port p).outq.foldl (moveOffer p) (((s.port p).replay.map Prod.fst).reverse.foldl (moveFlit p)
      (s.putPort p { s.port p with up := false, replay := [], outq := [] }))).logEvent 0x05 p) :=
  if_pos (by simpa [portUp_iff.mpr ⟨port, up⟩] using tired)

end

end

/-! ### Collectives (R356) -/

/-- A contribution of one rank, not here yet and of the right length, joins its collective. -/
theorem execReduceContribution_joins {s : State} {c : Cmd} {r : Nat} {data : List Byte}
    (started : s.eng.cmds.find? (fun d => decide (d.id = c.id) && decide (d.msg.op = 0x73) && d.stop.isNone) = some c)
    (notBcast : c.msg.fn ≠ 4) (member : r < c.members) (new : r ∉ c.covered)
    (whole : data.length = partBytes c.msg.fn c.members c.elems c.unit) :
    execReduceContribution c.id [r] data s = .next (onCmd c.id (fun c => { c with parts := Tab.put c.parts r ([r], data) }) s) := by
  unfold execReduceContribution
  rw [started]
  refine (if_neg ?_).trans ((if_neg (not_not.mpr whole)).trans ?_)
  · simp [notBcast, member, new]
  · simp

/-! ### Bridges (R359) -/

section
variable {s : State} {b q : Nat}

theorem execNvmeDoorbell_stores {v : Nat} (pair : q < 64) (bridge : b < 1024) :
    execNvmeDoorbell b q v s = .next (homeWrite s none (doorbellPa b q) (toBytes 8 v)) := by
  rw [execNvmeDoorbell, if_pos ⟨pair, bridge⟩]

theorem execNvmeCompletion_noQueue {data : List Byte} (absent : (s.nvmeQ (b * 64 + q)).cqSize = 0) :
    execNvmeCompletion b q data s = .next s := if_pos (.inr absent)

/-- An entry of 16 bytes stands at the tail, and the thread that the queue names has its vector posted. -/
theorem execNvmeCompletion_posts {data : List Byte} (pair : q < 64) (queue : (s.nvmeQ (b * 64 + q)).cqSize ≠ 0) (entry : data.length = 16) :
    let x := s.nvmeQ (b * 64 + q)
    let s1 := homeWrite (s.putNvme (b * 64 + q) { x with tail := x.tail + 1 }) none (x.cq + x.tail % x.cqSize * 16) data
    execNvmeCompletion b q data s = .next (match x.tid with
      | some tid => s1.post tid (x.vec % 64)
      | none => s1) := by
  have exact16 : (data ++ List.replicate 16 0).take 16 = data := List.take_left' entry
  have posts : execNvmeCompletion b q data s = _ := if_neg (not_or.mpr ⟨Nat.not_le.mpr pair, queue⟩)
  rw [exact16] at posts
  exact posts

end

/-! ### The patrol scrub (R161, R162) -/

section
variable {s : State} {line : Nat} {c : Corrector} (stands : correctorOf s.mem line = some c)
include stands

theorem execPatrolScrub_corrects : execPatrolScrub line 1 s = .next (correct c s) := by
  unfold execPatrolScrub
  rw [stands]
  rfl

theorem execPatrolScrub_poisons (free : atomicOn s (line * 64) = false) :
    execPatrolScrub line 2 s = .next { s with mem := s.mem.setBad (line * 64) true } := by
  unfold execPatrolScrub
  rw [stands]
  dsimp only
  rw [if_neg (by decide), if_neg (by decide), if_neg (Bool.eq_false_iff.mp free)]

end

/-- Settles O45: ports, contributions, bridges and the scrub, each event by the lemma above about it. -/
theorem linkAndStorageEventsComplete : Obligations.LinkAndStorageEventsComplete := by
  unfold Obligations.LinkAndStorageEventsComplete
  refine ⟨?ports, ?collectives, ?bridges, ?scrub⟩
  case ports =>
    exact fun s p f => ⟨fun port up => execFlitReceive_accepts port up, execFlitReceive_drops,
      fun g n rest port up => execFlitReplay_counts port up, execPortDown_moves⟩
  case collectives => exact fun s c r data => execReduceContribution_joins
  case bridges =>
    exact fun s b q v data pair => ⟨execNvmeDoorbell_stores pair, execNvmeCompletion_noQueue, execNvmeCompletion_posts pair⟩
  case scrub => exact fun s line c stands => ⟨execPatrolScrub_corrects stands, execPatrolScrub_poisons stands⟩

end Sys2Proof.Machine
end

section
/-! PROOFS. Memory after reset (spec 08_memories R136, R139; log 6). -/
open Sys2Proof Sys2Proof.Machine

namespace Sys2Proof.Machine

/-- In a memory that lists no byte every address reads as an unlisted byte does. -/
theorem rd_of_bytes_nil {m : Mem} (empty : m.bytes = []) (pa : Nat) : m.rd pa = unlisted := by
  rw [Mem.rd, empty]
  rfl

/-- Settles O51: memory after reset lists no byte. -/
theorem resetMemoryIsCanonical : Obligations.ResetMemoryIsCanonical := by
  unfold Obligations.ResetMemoryIsCanonical
  have empty : State.reset.mem.bytes = [] := rfl
  exact ⟨reset_wf, empty, rd_of_bytes_nil empty⟩

end Sys2Proof.Machine
end

section
/-! PROOFS. Read-modify-writes and barrier words issue (spec 09_memory_ops R169, 16_counters R319, R320, 17_faults R341). -/
open Sys2Proof Sys2Proof.Machine

namespace Sys2Proof.Machine

/-- Where no line is poisoned nothing has to wait for it to be cleared, nor traps (R324). -/
theorem needClean_ok {rel : Bool} {pas : List Nat} {s : State} (clean : pas.any s.mem.bad = false) : needClean rel pas s = .ok () :=
  if_pos (by rw [clean]; rfl)

/-- The access that a read-modify-write puts in its thread's list. -/
def rmwPend (k : PKind) (fn d va n scope : Nat) (acq rel : Bool) (data data2 : W) (t : Xl) : Pend :=
  { (Pend.mk0 k fn d va n [t.pa]).mapped t with scope := scope, acq := acq, rel := rel, data := data, data2 := data2 }

/-- The access that a barrier word at its address puts in its thread's list (R320). -/
def barrierPend (k : PKind) (d : Nat) (x : TM) (s : State) (data data2 : W) (t : Xl) : Pend :=
  rmwPend k 0 d (addrTM x s) 32 x.scope.toNat (decide (x.acq = 1)) (decide (x.rel = 1)) data data2 t

section
variable {s s1 : State} {t : Xl} (outside : s.specul s.cur = none) (stores : s.me.s < 63)
include outside stores

section
variable {k : PKind} {fn va n : Nat} (aligned : va % n = 0) (mapped : xlate .write va n s = .ok (s1, t))
  (clean : (upto t.pa n).any s1.mem.bad = false) (loads : s.me.l < 63)
  (host : needHost (decide (k ≠ .atom) || decide (fn / 4 = 0) || decide (fn / 4 = 6)) t.pa va s = .ok ())
include aligned mapped clean loads host

/-- Past its checks a read-modify-write is one access of its kind. -/
theorem rmwBody_issues (d scope : Nat) (acq rel : Bool) (data data2 : W) :
    rmwBody k fn d va n n scope acq rel data data2 s = .ok (pushPend (rmwPend k fn d va n scope acq rel data data2 t) s1) :=
  (bind_of_ok (needIrrev_ok outside) _).trans ((if_neg (not_not.mpr aligned)).trans ((bind_of_ok mapped _).trans
    ((bind_of_ok host _).trans ((bind_of_ok (needRoom_l_ok loads) _).trans ((bind_of_ok (needRoom_s_ok stores) _).trans
      (bind_of_ok (needClean_ok clean) _))))))

end

section
variable {x : TM} (mapped : xlate .write (addrTM x s) 32 s = .ok (s1, t)) (clean : (upto t.pa 32).any s1.mem.bad = false)
include mapped clean

/-- BINIT, which returns nothing, counts on S alone. -/
theorem execBinit_issues (issues : Issues x.pg [x.a, x.d, x.d + 1] [] s) (host : needHost false t.pa (addrTM x s) s = .ok ()) :
    execBinit x s = .next (advance (pushPend (barrierPend .binit 0 x s (s.me.rg x.d.toNat) (s.me.rg (x.d.toNat + 1)) t) s1)) :=
  issue_ok issues ((bind_of_ok (needIrrev_ok outside) _).trans ((bind_of_ok mapped _).trans ((bind_of_ok host _).trans
    ((bind_of_ok rfl _).trans ((bind_of_ok (needRoom_s_ok stores) _).trans (bind_of_ok (needClean_ok clean) _))))))

/-- BARR counts on L too, for its D, and may go to the host window. -/
theorem execBarr_issues (issues : Issues x.pg [x.a] [] s) (loads : s.me.l < 63) :
    execBarr x s = .next (advance (pushPend (barrierPend .barr x.d.toNat x s 0 0 t) s1)) :=
  issue_ok issues ((bind_of_ok (needIrrev_ok outside) _).trans ((bind_of_ok mapped _).trans ((bind_of_ok rfl _).trans
    ((bind_of_ok (needRoom_l_ok loads) _).trans ((bind_of_ok (needRoom_s_ok stores) _).trans (bind_of_ok (needClean_ok clean) _))))))

end
end

/-- Past its check that the thread of its vector may be posted to, SIGNAL is a read-modify-write (R341). -/
theorem execSignal_issues {x : TM} {s s1 : State} (outside : s.specul s.cur = none) (issues : Issues x.pg [x.a, x.d, x.d + 1] [] s)
    (post : bit (s.me.rg (x.d.toNat + 1)).toNat 63 = true → needPost (fld (s.me.rg (x.d.toNat + 1)) 15 0) s = .ok ())
    (body : rmwBody .signal 2 x.d.toNat (addrTM x s) 8 8 x.scope.toNat false (decide (x.rel = 1)) (s.me.rg x.d.toNat)
      (s.me.rg (x.d.toNat + 1)) s = .ok s1) : execSignal x s = .next (advance s1) := by
  refine issue_ok issues ((bind_of_ok (needIrrev_ok outside) _).trans ((bind_of_ok (a := ()) ?posts _).trans body))
  case posts =>
    by_cases vector : bit (s.me.rg (x.d.toNat + 1)).toNat 63 = true
    · exact (if_pos vector).trans (post vector)
    · exact if_neg vector

/-- Settles O12: ATOM, CAS and SIGNAL issue the one body of a read-modify-write, BINIT and BARR that of a barrier word. -/
theorem atomicWordsIssue : Obligations.AtomicWordsIssue := by
  unfold Obligations.AtomicWordsIssue
  refine ⟨?rmw, ?barrier⟩
  case rmw =>
    intro s s1 t k fn d va n scope acq rel data data2 outside aligned mapped clean loads stores host after x toD address ofScope ofRel ofData
    subst toD address ofScope ofRel ofData
    have body := rmwBody_issues outside stores aligned mapped clean loads host x.d.toNat x.scope.toNat acq (decide (x.rel = 1))
      (s.me.rg x.d.toNat) data2
    refine ⟨?atom, ?cas, ?signal⟩
    case atom =>
      rintro rfl issues rfl rfl rfl rfl
      exact issue_ok issues body
    case cas =>
      rintro rfl issues rfl rfl rfl rfl
      exact issue_ok issues body
    case signal =>
      rintro rfl issues rfl rfl rfl rfl post
      exact execSignal_issues outside issues post body
  case barrier =>
    exact fun s s1 t x outside mapped stores clean =>
      ⟨execBinit_issues outside stores mapped clean, execBarr_issues outside stores mapped clean⟩

end Sys2Proof.Machine
end

section
/-! PROOFS. Wide stores, fences and prefetch issue (spec 09_memory_ops R166, R167, R171 to R173). -/
open Sys2Proof Sys2Proof.Machine

namespace Sys2Proof.Machine

/-! ### STB, STM and STRED (R171, R172, R173) -/

/-- The access that STB puts in its thread's list: its data store, and the barrier that it arrives at. -/
def stbPend (x : TX) (s : State) (v : W) (p q : Xl) : Pend :=
  { (Pend.mk0 .stb 0 0 (s.me.rg x.a.toNat).toNat (2 ^ x.cls.toNat) [p.pa]).mapped p with
    pas2 := [q.pa], scope := x.scope.toNat, rel := decide (x.rel = 1), data := v }

/-- The access that STM or STRED puts in its thread's list: one value for every destination. -/
def multiPend (k : PKind) (fn n : Nat) (x : TX) (s : State) (v : W) (xs : List Xl) : Pend :=
  { Pend.mk0 k fn 0 (s.me.rg x.a.toNat).toNat n (xs.map Xl.pa) with
    unc := (xs.filter fun p => !p.cached).flatMap (fun p => upto p.pa n), scope := x.scope.toNat, rel := decide (x.rel = 1), data := v }

section
variable {x : TX} {s s1 s2 : State} {v : W} (outside : s.specul s.cur = none) (read : srcV s x.b = .ok v) (stores : s.me.s < 63)
include outside read stores

theorem execStb_issues {p q : Xl} (issues : Issues x.pg [x.a, x.a + 1, x.b] [] s) :
    let n := 2 ^ x.cls.toNat
    let va := (s.me.rg x.a.toNat).toNat
    let bar := (s.me.rg (x.a.toNat + 1)).toNat
    needAll [(.write, va, n, n), (.write, bar, 32, 32)] s = .ok () → xlate .write va n s = .ok (s1, p) → needHost false p.pa va s = .ok () →
    xlate .write bar 32 s1 = .ok (s2, q) → needHost false q.pa bar s = .ok () →
    execStb x s = .next (advance (pushPend (stbPend x s v p q) (deqAll [x.b] s2))) :=
  fun pass data dataHost barrier barrierHost =>
    issue_ok issues ((bind_of_ok (needIrrev_ok outside) _).trans ((bind_of_ok read _).trans ((bind_of_ok pass _).trans ((bind_of_ok data _).trans
      ((bind_of_ok dataHost _).trans ((bind_of_ok barrier _).trans ((bind_of_ok barrierHost _).trans (bind_of_ok (needRoom_s_ok stores) _))))))))

section
variable {k : PKind} {dests : List Nat} {xs : List Xl}
  (list : destList (s.me.rg x.a.toNat).toNat (bits x.imm.toNat 5 0 + 1) s = .ok (s1, dests))
include list

/-- With its list read and its destinations translated a store to many places issues, STRED only past their poison. -/
theorem multiBody_issues {fn n : Nat} (mapped : xlateDests (decide (k = .stm)) n dests s1 = .ok (s2, xs))
    (clean : k = .stred → (xs.flatMap fun p => upto p.pa n).any s2.mem.bad = false) :
    multiBody k fn n x s = .ok (pushPend (multiPend k fn n x s v xs) (deqAll [x.b] s2)) := by
  refine (bind_of_ok (needIrrev_ok outside) _).trans ((bind_of_ok read _).trans ((bind_of_ok list _).trans ((bind_of_ok mapped _).trans
    ((bind_of_ok (needRoom_s_ok stores) _).trans (bind_of_ok (a := ()) ?unpoisoned _)))))
  case unpoisoned =>
    by_cases reduces : k = .stred
    · exact (if_pos reduces).trans (needClean_ok (clean reduces))
    · exact if_neg reduces

variable (issues : Issues x.pg [x.a, x.b] [] s)
include issues

theorem execStm_issues (mapped : xlateDests true (2 ^ x.cls.toNat) dests s1 = .ok (s2, xs)) :
    execStm x s = .next (advance (pushPend (multiPend .stm 0 (2 ^ x.cls.toNat) x s v xs) (deqAll [x.b] s2))) :=
  issue_ok issues (multiBody_issues outside read stores list mapped nofun)

theorem execStred_issues (mapped : xlateDests false (atomN x.fn.toNat) dests s1 = .ok (s2, xs))
    (clean : (xs.flatMap fun p => upto p.pa (atomN x.fn.toNat)).any s2.mem.bad = false) :
    execStred x s = .next (advance (pushPend (multiPend .stred x.fn.toNat (atomN x.fn.toNat) x s v xs) (deqAll [x.b] s2))) :=
  issue_ok issues (multiBody_issues outside read stores list mapped fun _ => clean)

end
end

/-! ### FENCE (R167) -/

section
variable {x : TM} {s : State} (issues : Issues x.pg [] [] s)
include issues

theorem execFence_inTask (inside : (s.taskOf s.cur).isSome = true) : execFence x s = .next (advance s) :=
  issue_ok issues (if_pos inside)

variable (outside : (s.taskOf s.cur).isSome = false)
include outside

theorem execFence_acquires (acq : x.acq = 1) (met : fenceMet s.me true (decide (x.rel = 1)) = true) :
    execFence x s = .next (advance (s.onMe (Thread.sync true))) :=
  issue_ok issues ((if_neg (Bool.eq_false_iff.mp outside)).trans ((if_pos acq).trans (if_pos met)))

/-- Without ACQ a fence holds only later stores: it stands in the list while anything earlier is not performed. -/
theorem execFence_releases (rel : x.acq ≠ 1) :
    execFence x s = .next (advance (if fenceMet s.me true true then s
      else pushPend { Pend.mk0 .fence 0 0 0 0 [] with scope := x.scope.toNat } s)) :=
  issue_ok issues ((if_neg (Bool.eq_false_iff.mp outside)).trans ((if_neg rel).trans (apply_ite Except.ok ..).symm))

end

/-! ### PREF (R166) -/

section
variable {x : TM} {s : State} (issues : Issues x.pg [x.a] [] s) (unblocked : missBlocked s (s.whoOf s.cur) (addrTM x s) = none)
include issues unblocked

theorem execPref_brings {s1 : State} {t : Xl} (mapped : translate s (s.whoOf s.cur) .read (addrTM x s) = .ok (s1, t)) :
    execPref x s = .next (advance (if t.cached then s1.bring [t.pa] else s1)) :=
  issue_ok issues (by rw [unblocked, mapped])

theorem execPref_ignores {k : XKind} (fails : translate s (s.whoOf s.cur) .read (addrTM x s) = .error k) : execPref x s = .next (advance s) :=
  issue_ok issues (by rw [unblocked, fails])

end

/-- Settles O13: past its checks each word issues or completes as the lemma above about it says. -/
theorem wideStoresFencesPrefetchIssue : Obligations.WideStoresFencesPrefetchIssue := by
  unfold Obligations.WideStoresFencesPrefetchIssue
  refine ⟨?stb, ?multi, ?fence, ?pref⟩
  case stb =>
    intro x s s1 s2 v p q issues outside read n va bar pass data dataHost barrier barrierHost stores
    exact execStb_issues outside read stores issues pass data dataHost barrier barrierHost
  case multi =>
    exact fun x s s1 s2 v dests xs issues outside read list stores =>
      ⟨execStm_issues outside read stores list issues, execStred_issues outside read stores list issues⟩
  case fence => exact fun x s issues => ⟨execFence_inTask issues, execFence_acquires issues, execFence_releases issues⟩
  case pref => exact fun x s s1 t issues unblocked => ⟨execPref_brings issues unblocked, fun k => execPref_ignores issues unblocked⟩

end Sys2Proof.Machine
end

section
/-! PROOFS. Engines start messages, write chunks and reply (spec 09_memory_ops R182 to R185, R197, 11_queues R214, 15_tiles R299, 17_faults R343). -/
open Sys2Proof Sys2Proof.Machine

namespace Sys2Proof.Machine

/-! ### ACTIVE_MESSAGE (R214) -/

section
variable {src : Nat} {m : Msg} {rest : List Msg} {s : State} (oldest : s.inbox src = m :: rest)
include oldest

/-- What an engine does with a message that XSEND gave the spec does not say (log 17). -/
theorem execActiveMessage_refuses (sent : m.op = 0x75) : execActiveMessage src s = .refused (.engineDefined src) :=
  if_pos (by simp [oldest, sent])

/-- Any other message goes to the turn of the part that its inbox belongs to: a Basin, a hard core, the directory or an engine. -/
theorem execActiveMessage_takes (known : m.op ≠ 0x75) :
    execActiveMessage src s = if src < 0x404 then .next (basinTurn src s)
      else if src < 0x420 then .next (hardTurn src s)
      else if src = srcDir then .next (directoryTurn s)
      else .next (engineTurn src s) :=
  if_neg (by simp [oldest, known])

theorem engineTurn_starts (performed : acqHeld m s = false) (goes : yields s m = false) :
    engineTurn src s = startEngine m src (s.putInbox src rest) := by
  unfold engineTurn
  rw [oldest]
  exact if_neg (by simp [performed, goes])

end

theorem directoryTurn_takes {m : Msg} {rest : List Msg} {s : State} (oldest : s.inbox srcDir = m :: rest) (performed : relHeld m s = false) :
    directoryTurn s = dirTurn m (s.putInbox srcDir rest) := by
  unfold directoryTurn
  rw [oldest]
  exact if_neg (Bool.eq_false_iff.mp performed)

/-! ### CHUNK_WRITTEN (R185, R197, R299, R343) -/

/-- An access of the list of late data that belongs to a chunk of a command. -/
theorem late_any_iff (s : State) (id k : Nat) :
    s.eng.late.any (fun e => decide (e.1 = id) && decide (e.2.1 = k)) = true ↔ ∃ e ∈ s.eng.late, e.1 = id ∧ e.2.1 = k := by
  simp only [List.any_eq_true, Bool.and_eq_true, decide_eq_true_eq]

section
variable {id k : Nat} {s : State}

/-- The data of a chunk that is still under way is performed (R197). -/
theorem execChunkWritten_flushes (late : ∃ e ∈ s.eng.late, e.1 = id ∧ e.2.1 = k) :
    execChunkWritten id k s = .next (flushLate (fun e => decide (e.1 = id) && decide (e.2.1 = k)) s) :=
  if_pos ((late_any_iff s id k).mpr late)

variable (landed : ∀ e ∈ s.eng.late, ¬ (e.1 = id ∧ e.2.1 = k))
include landed

theorem late_any_eq_false : ¬ s.eng.late.any (fun e => decide (e.1 = id) && decide (e.2.1 = k)) = true := by
  rw [late_any_iff]
  exact fun ⟨e, listed, isIt⟩ => landed e listed isIt

/-- A command that goes on, of a thread that is not being saved, has its chunk written (R185, R343). -/
theorem execChunkWritten_ofCmd {c : Cmd} (found : s.eng.cmds.find? (fun c => decide (c.id = id)) = some c) (on : c.stop = none)
    (goes : yields s c.msg = false) (missing : bit c.chunks k = false) :
    execChunkWritten id k s = .next (unCancel id (cmdChunk c k s)) := by
  refine (if_neg (late_any_eq_false landed)).trans ?_
  rw [found]
  exact (if_neg (by simp [on, missing])).trans (if_neg (Bool.eq_false_iff.mp goes))

theorem execChunkWritten_ofDot {eng : Nat} {r : DotRun} (noCmd : s.eng.cmds.find? (fun c => decide (c.id = id)) = none)
    (found : s.eng.dots.find? (fun e => decide (e.2.id = id)) = some (eng, r)) : execChunkWritten id k s = .next (dotChunk eng r k s) := by
  refine (if_neg (late_any_eq_false landed)).trans ?_
  rw [noCmd]
  dsimp only
  rw [found]

end

/-- A chunk of XCOPY, XGATH or XSCAT is moved. -/
theorem cmdChunk_moves {c : Cmd} {k : Nat} (s : State) (within : k < c.total) (first : 0x70 ≤ c.msg.op) (last : c.msg.op ≤ 0x72) :
    cmdChunk c k s = moveChunk c k s :=
  (if_neg (by omega)).trans ((if_neg (Nat.not_le.mpr within)).trans ((if_neg (by omega)).trans (if_pos ⟨first, last⟩)))

/-! ### ENGINE_REPLY (R183) -/

theorem execEngineReply_replies {id : Nat} {c : Cmd} {r : Nat × Nat} {s : State} (found : s.eng.cmds.find? (fun c => decide (c.id = id)) = some c)
    (first : 0x70 ≤ c.msg.op) (last : c.msg.op ≤ 0x73) (ended : c.over = some r) : execEngineReply id s = .next (replyCmd c r s) := by
  have transfer : c.msg.op = 0x70 ∨ c.msg.op = 0x71 ∨ c.msg.op = 0x72 ∨ c.msg.op = 0x73 := by omega
  rcases transfer with op | op | op | op
  all_goals simp only [execEngineReply, found, op, ended]

/-- Settles O34: a message has the turn of the part that its inbox belongs to, and chunks and replies go as the lemmas above about them say. -/
theorem engineEventsComplete : Obligations.EngineEventsComplete := by
  unfold Obligations.EngineEventsComplete
  refine ⟨?messages, ?transfers, ?dots⟩
  case messages =>
    intro src m rest s oldest
    refine ⟨execActiveMessage_refuses oldest, ?engine, ?directory, ?basin, ?hardCore⟩
    case engine =>
      intro known high other performed goes
      rw [exec_activeMessage, execActiveMessage_takes oldest known, if_neg (by omega), if_neg (by omega), if_neg other,
        engineTurn_starts oldest performed goes]
    case directory =>
      rintro known rfl performed
      rw [exec_activeMessage, execActiveMessage_takes oldest known, if_neg (by decide), if_neg (by decide), if_pos rfl,
        directoryTurn_takes oldest performed]
    case basin =>
      intro known low
      rw [exec_activeMessage, execActiveMessage_takes oldest known, if_pos low]
    case hardCore =>
      intro known low high
      rw [exec_activeMessage, execActiveMessage_takes oldest known, if_neg (Nat.not_lt.mpr low), if_pos high]
  case transfers =>
    intro id k c s found
    refine ⟨?moves, execChunkWritten_flushes, fun first last r ended => execEngineReply_replies found first last ended⟩
    case moves =>
      intro landed on goes missing within first last
      rw [exec_chunkWritten, execChunkWritten_ofCmd landed found on goes missing, cmdChunk_moves s within first last]
  case dots => exact fun id k eng r s landed noCmd found => execChunkWritten_ofDot landed noCmd found

end Sys2Proof.Machine
end

section
/-! PROOFS. Tasks commit, firings start, deltas apply and inject (spec 09_memory_ops R175, R177, 14_rules R282, R283). -/
open Sys2Proof Sys2Proof.Machine

namespace Sys2Proof.Machine

/-! ### Tasks (R175, R177) -/

/-- A thread that waits for its task's end with nothing outstanding may have it ended, unless it is being saved. -/
theorem endsTask_of_commit {s : State} {tid : Nat} {w : Option Nat} (free : s.frozen tid = false) (why : (s.th tid).why = .commit w)
    (loads : (s.th tid).l = 0) (stores : (s.th tid).s = 0) : endsTask s tid = true := by
  simp [endsTask, free, why, loads, stores]

section
variable {s : State} {k : Task} {rest : List Task} {tid : Nat} (oldest : s.tasks = k :: rest) (runs : k.tid = some tid)
  (may : mayCommit s k = true)
include oldest runs may

theorem execTaskCommit_commits (kept : withdrawnNow s = none) (ends : endsTask s tid = true) :
    execTaskCommit s = .next (endedWait (commitTask s k) tid 0) := by
  unfold execTaskCommit
  rw [kept, oldest]
  dsimp only
  rw [runs]
  exact if_pos (by rw [may, ends]; rfl)

/-- The task goes on untracked, its lines committed (R175). -/
theorem execTaskIrrevocable_commits (free : s.frozen tid = false) (why : (s.th tid).why = .irrevocable) :
    execTaskIrrevocable s = .next (((commitLines s k).onTask k.id fun t => { t with irrev := true }).onTh tid
      fun t => { t with st := .runnable, why := .none }) := by
  unfold execTaskIrrevocable
  rw [oldest]
  dsimp only
  rw [runs]
  exact if_pos ⟨why, may, free⟩

end

/-! ### Firings (R282) -/

/-- The first element at which an optional value stands, paired with that value. -/
theorem findSome?_of_find?_isSome {α β : Type} {g : α → Option β} {a : α} {b : β} (value : g a = some b) :
    ∀ {l : List α}, l.find? (fun a => (g a).isSome) = some a → l.findSome? (fun a => (g a).map fun b => (a, b)) = some (a, b)
  | [], found => nomatch found
  | x :: xs, found => by
    cases here : g x with
    | none =>
      rw [List.find?_cons_of_neg (by simp [here])] at found
      rw [List.findSome?_cons, here]
      exact findSome?_of_find?_isSome value found
    | some y =>
      rw [List.find?_cons_of_pos (by simp [here])] at found
      obtain rfl := Option.some.inj found
      rw [List.findSome?_cons, value]
      rfl

section
variable {die tid : Nat} {s : State} {f : Firing} {b : Basin} {i : Inv} {n : Net} (entry : Tab.look s.fab.basin f.entry = some b)
  (inv : s.inv b.net = some i) (net : s.net b.net = some n) (thread : (admitted die n.fsh).findSome? (haltedThread s) = some tid)
include entry inv net thread

/-- A firing can start on the halted thread that its network admits, in its network's module (log 45). -/
theorem firingPlace_eq : firingPlace s die f = some (tid, i.modul) := by
  unfold firingPlace
  rw [entry]
  dsimp only
  rw [inv, net]
  dsimp only
  rw [thread]
  rfl

theorem execFiringStart_starts
    (first : (s.fab.firings.filter fun f => decide (f.ts % 65536 = 0x400 + die)).find? (fun f => (firingPlace s die f).isSome) = some f) :
    let s1 := startThread s tid (firingFrom f i.modul) f.act f.data f.recva (w64 f.ts)
    let s2 := { s1 with tasks := s1.tasks.map fun (t : Task) => if t.firing = some f.entry then { t with tid := some tid, shard := shardOf tid } else t }
    execFiringStart die s = .next { s2 with fab := { s2.fab with firings := s2.fab.firings.erase f } } := by
  have chosen := findSome?_of_find?_isSome (firingPlace_eq entry inv net thread) first
  unfold execFiringStart
  rw [chosen]

end

/-! ### Deltas (R283) -/

theorem execDeltaApply_applies {net : Nat} {s s1 : State} {m : Msg} {rest : List Msg} (head : s.inbox (basinFor (w64 net)) = m :: rest)
    (delta : m.isDelta = true) (ofNet : m.net = net) (applied : applyNow m (s.putInbox (basinFor (w64 net)) rest) = some s1) :
    execDeltaApply net s = .next s1 := by
  unfold execDeltaApply
  dsimp only
  rw [head]
  refine (if_pos (by simp [delta, ofNet])).trans ?_
  rw [applied]
  rfl

section
variable {s : State} {net : Nat} {n : Net} {i : Inv}

/-- The oldest token of the delta queue enters ROOT's node unless its invocation or its core holds it back. -/
theorem execDeltaInject_injects {v : W} {rest : List W} (known : s.net net = some n) (inv : s.inv net = some i) (queue : n.queue = v :: rest)
    (live : i.phase ≠ .out) (open_ : i.phase ≠ .drain) (unsaved : (i.ct (n.root / 4)).saved = false) (free : (i.ct (n.root / 4)).hold = false)
    (unblocked : (i.ct (n.root / 4)).blocked = false) (room : rootFull i (n.root / 4) (n.root % 4) (baseTag net) = false) :
    execDeltaInject net s = .next ((rootTake s net i (n.root / 4) (n.root % 4) ⟨v, baseTag net, .zero, 0⟩).putNet net { n with queue := rest }) := by
  unfold execDeltaInject
  rw [known, inv]
  dsimp only
  rw [queue]
  exact if_neg (by simp [live, open_, unsaved, free, unblocked, room])

variable {node f : Nat} {t : Tok} {nd : Node} (root : Tab.look i.nodes node = some nd)
include root

section
variable (channel : nd.op = 0x96)
include channel

theorem rootFull_ofChannel (slots : freeSlots i (rootKey node) (threadCap nd) ≠ 0) (tag : Nat) : rootFull i node f tag = false := by
  simp [rootFull, root, channel, slots]

theorem rootTake_intoChannel : rootTake s net i node f t =
    markQueued (s.putInv net (((i.onSt node fun x => { x with line := x.line ++ [t] }).take (rootKey node)).activity s)) net node 0 (i.st node).line :=
  if_pos (by rw [root, ← channel]; rfl)

end

section
variable (field : nd.op ≠ 0x96)
include field

theorem rootFull_ofField {tag : Nat} (empty : (i.slot node tag).has f = false) : rootFull i node f tag = false := by
  simp [rootFull, root, field, empty]

theorem rootTake_intoField : rootTake s net i node f t =
    s.putInv net ((i.putSlot node t.tag ((i.slot node t.tag).set f t)).activity s) :=
  if_neg (by simp [root, field])

end
end

/-- Settles O40: tasks, firings and deltas go on as the lemmas above about them say; a token enters ROOT's field, or the channel ROOT names. -/
theorem tasksAndFiringsComplete : Obligations.TasksAndFiringsComplete := by
  unfold Obligations.TasksAndFiringsComplete
  refine ⟨?tasks, ?firings, fun net s s1 m rest => execDeltaApply_applies, ?inject⟩
  case tasks =>
    exact fun s k rest tid oldest runs free kept may =>
      ⟨fun w why loads stores => execTaskCommit_commits oldest runs may kept (endsTask_of_commit free why loads stores),
        execTaskIrrevocable_commits oldest runs may free⟩
  case firings => exact fun die tid s f b i n first entry inv net thread => execFiringStart_starts entry inv net thread first
  case inject =>
    intro net s n i v rest known inv queue live notDraining unsaved free unblocked t nd root
    have injects := execDeltaInject_injects known inv queue live notDraining unsaved free unblocked
    refine ⟨fun field empty => ?field, fun channel slots => ?channel⟩
    case field =>
      rw [exec_deltaInject, injects (rootFull_ofField root field empty), rootTake_intoField root field]
    case channel =>
      rw [exec_deltaInject, injects (rootFull_ofChannel root channel slots _), rootTake_intoChannel root channel]

end Sys2Proof.Machine
end

section
/-! PROOFS. Lane, channel, weir and expert nodes fire (spec 02_machine R44, 11_queues R207 to R211, 12_nodes R221, R230 to R233). -/
open Sys2Proof Sys2Proof.Machine

namespace Sys2Proof.Machine

section
variable {w : NW} {s : State} {c : Ctx} (ctx : nodeCtx s = some c)
include ctx

/-! ### Lanes (R230) -/

section
variable (left : c.has 0 = true) {o : Nat} (owner : laneOwner c.i = some o)
include left owner

/-- FALLOC takes the lowest free lane. -/
theorem falloc_fires {l : Nat} (free : ((upto 0 (2 ^ c.i.k)).find? fun l => !decide (l ∈ (c.i.st o).lanes)) = some l) :
    Fires (.falloc w) s c s ((taken c [0]).onSt o fun x => { x with lanes := (c.i.st o).lanes ++ [l] })
      [⟨none, { passTok c 0 [0] with tag := laneTag c.base c.i.k l }⟩] := by
  obtain rfl := nodeCtx_s ctx
  refine fires_of_done ctx rfl ?_
  rw [owner]
  dsimp only
  rw [free]
  exact if_pos left

/-- FFREE frees the lane of its tag. -/
theorem ffree_fires :
    Fires (.ffree w) s c s ((taken c [0]).onSt o fun x => { x with lanes := x.lanes.filter fun l => decide (l ≠ (c.tag + 65536 - c.base) % 65536) })
      [⟨none, passTok c 0 [0]⟩] := by
  obtain rfl := nodeCtx_s ctx
  refine fires_of_done ctx rfl ((if_pos left).trans ?_)
  rw [owner]
  rfl

end

/-! ### Channels and weirs (R44, R207, R231, R232) -/

omit ctx in
/-- A channel of one destination delivers its head, which is no FRS token. -/
theorem chanPick_head {t : Tok} {rest : List Tok} (single : aaDests c.nd = 0) (line : c.st.line = t :: rest) (old : t.flg.frs = false) :
    chanPick c = some (0, t) := by
  simp [chanPick, single, line, old]

theorem chan_fires {t : Tok} {rest : List Tok} (targets : c.nd.targets ≠ []) (single : aaDests c.nd = 0)
    (earlier : justQueued s c.iid c.n 0 = false) (line : c.st.line = t :: rest) (old : t.flg.frs = false) :
    Fires (.chan w) s c s ((c.i.popChan c.n (dropAt c.st.line 0)).freeChan c.n t.tag) [⟨none, { t with tag := c.outTag t.tag t.v }⟩] := by
  obtain rfl := nodeCtx_s ctx
  refine fires_of_done ctx rfl ((if_neg (by simp [targets, earlier])).trans ?_)
  rw [chanPick_head single line old]
  rfl

omit ctx in
theorem weirAdmits_iff (e : W) (owner : Nat) :
    weirAdmits e owner = true ↔ fld e 15 0 = owner ∨ (bit e.toNat 32 = true ∧ fld e 31 16 = owner) := by
  simp [weirAdmits]

theorem weir_fires (left : c.has 0 = true)
    (admitted : fld c.nd.ext1 15 0 = weirFrom c ∨ (bit c.nd.ext1.toNat 32 = true ∧ fld c.nd.ext1 31 16 = weirFrom c)) :
    let recent := c.st.sends.filter fun t => decide (s.cycle ≤ t + 1024)
    fld c.nd.ext1 63 48 = 0 ∨ recent.length < fld c.nd.ext1 63 48 →
    Fires (.weir w) s c s (takenSt c [0] fun x => { x with senders := Tab.del x.senders c.tag, sends := s.cycle :: recent })
      [⟨none, passTok c 0 [0]⟩] := by
  obtain rfl := nodeCtx_s ctx
  intro recent within
  refine fires_of_passSt ctx rfl ((if_neg (by simp [left])).trans ((if_pos ((weirAdmits_iff _ _).mpr admitted)).trans (if_neg ?_)))
  exact fun ⟨limited, spent⟩ => within.elim limited (Nat.not_lt.mpr spent)

/-! ### Experts (R210, R211, R233) -/

/-- With no token returned and none waiting for T2, EXPERT fires on L and P. -/
theorem execExpert_new {t : State} (sent : c.st.outs = []) (fresh : c.has 1 = false) (left : c.has 0 = true) (pred : c.has 2 = true)
    (clean : tokPoisoned s c.iid c.i c.n c.tag c.nd = false) (new : exNew c = some t) :
    exec (.expert w) s = .next (endIfDone t c.iid) := by
  obtain rfl := nodeCtx_s ctx
  refine fire_ok ctx clean ?_
  rw [sent, fresh, left, pred]
  exact new

omit ctx in
/-- A firing that must not wait and is not dropped enters its tokens (R210, R221). -/
theorem exNew_enters (goes : (exArrivals c).any (exWaits c.nd c.st) = false)
    (kept : ¬ (exMode c.nd = 2 ∧ exFull c.nd c.st (exDest c.nd (c.val 2)) = true)) :
    let i := takenSt c [0, 2] fun x => (exArrivals c).foldl (fun x e => exEnter c.nd e.1 e.2 x) x
    canSend c.s i c.n c.nd c.tag [] = true → exNew c = some ((exMarked c (some (sentFrom c c.s i []))).getD c.s) := by
  intro i space
  exact (if_neg (Bool.eq_false_iff.mp goes)).trans ((if_neg kept).trans (congrArg (exMarked c) (done_eq_sentFrom space)))

omit ctx in
/-- Under DROP a token that its full queue does not take is counted (R211). -/
theorem exNew_drops (goes : (exArrivals c).any (exWaits c.nd c.st) = false) (drop : exMode c.nd = 2)
    (full : exFull c.nd c.st (exDest c.nd (c.val 2)) = true) :
    let d := exDest c.nd (c.val 2)
    exNew c = c.passSt [0, 2] (fun x => { x with drops := Tab.put x.drops d (min 0xffffffff (Tab.getD x.drops d 0 + 1)) }) [] :=
  (if_neg (Bool.eq_false_iff.mp goes)).trans (if_pos ⟨drop, full⟩)

end

/-- The drain sends the first token of the next destination in turn to T1 (R233). -/
theorem execExpertDrain_sends {iid node d : Nat} {s : State} {c : Ctx} {t : Tok} {rest : List Tok}
    (ctx : nodeCtx { s with site := (iid, node, 0) } = some c) (op : c.nd.op = 0x99) (next : exNext s c.iid c.n c.nd c.st = some d)
    (queue : exQ c.st d = t :: rest) (clean : queuePoisoned c.s c.i c.nd d = false) :
    let i := takenSt c [] fun x => { x with queues := Tab.set x.queues [] d rest, rr := (d + 1) % exDests c.nd }
    canSend c.s i c.n c.nd c.tag [only 0 t] = true →
    execExpertDrain iid node s = .next (endIfDone (sentFrom c c.s i [only 0 t]) c.iid) := by
  intro i space
  have picked : exNext c.s c.iid c.n c.nd c.st = some d := by
    rw [nodeCtx_s ctx]
    exact next
  refine fireAny_ok ctx ((if_neg (not_not.mpr op)).trans ?_)
  rw [picked]
  dsimp only
  rw [queue]
  exact (congrArg (Option.map _) (done_eq_sentFrom space)).trans (congrArg some (if_neg (Bool.eq_false_iff.mp clean)))

/-- Settles O28: each node fires as the lemmas above about it say. -/
theorem queueNodesFire : Obligations.QueueNodesFire := by
  unfold Obligations.QueueNodesFire
  refine ⟨fun w s c ctx => ⟨fun left o l owner => falloc_fires ctx left owner, fun left o owner => ffree_fires ctx left owner,
    fun targets single earlier t rest => chan_fires ctx targets single earlier, weir_fires ctx, ?enters, ?drops⟩, ?drain⟩
  case enters =>
    obtain rfl := nodeCtx_s ctx
    exact fun sent fresh left pred goes kept clean space => execExpert_new ctx sent fresh left pred clean (exNew_enters goes kept space)
  case drops =>
    obtain rfl := nodeCtx_s ctx
    exact fun sent fresh left pred goes drop full clean space =>
      execExpert_new ctx sent fresh left pred clean ((exNew_drops goes drop full).trans (done_eq_sentFrom space))
  case drain =>
    exact fun iid node d s c t rest ctx op next queue clean => execExpertDrain_sends ctx op next queue clean

end Sys2Proof.Machine
end

section
/-! PROOFS. The doorbells and registers of the PCIe pages (spec 11_queues R216, R217, 18_outside R345 to R347). -/
open Sys2Proof Sys2Proof.Machine

namespace Sys2Proof.Machine

section
variable {s : State} {q : Nat} (queue : q < 64)
include queue

theorem execDoorbell_sets (wr : Nat) : execDoorbell q wr s = .next (s.putQueue q { s.queue q with wr := wr % 2 ^ 32 }) := by
  rw [execDoorbell, putDoorbell, if_pos queue]

/-- While a queue is empty, a write of its configuration takes effect (R347). -/
theorem execQueueConfigWrite_empty (empty : (s.queue q).rd = (s.queue q).wr) (v : Nat) :
    execQueueConfigWrite q 0x008 v s = .next (s.putQueue q { s.queue q with base := w64 (bits v 63 6 * 64 + v % 2) }) ∧
    execQueueConfigWrite q 0x010 v s = .next (s.putQueue q { s.queue q with size := v % 32 }) ∧
    execQueueConfigWrite q 0x018 v s = .next (s.putQueue q { s.queue q with ridxa := w64 v }) := by
  refine ⟨?base, ?size, ?ridxa⟩
  all_goals rw [execQueueConfigWrite, putConfig, if_pos ⟨queue, empty⟩]

omit queue in
/-- While a queue holds entries, a write of its configuration is dropped (R347). -/
theorem execQueueConfigWrite_busy (busy : (s.queue q).rd ≠ (s.queue q).wr) (reg v : Nat) : execQueueConfigWrite q reg v s = .next s := by
  unfold execQueueConfigWrite putConfig
  rw [if_neg fun ⟨_, empty⟩ => busy empty]

theorem execQueueStatusClear_clears (halted : (s.queue q).status ≠ 0) :
    execQueueStatusClear q s = .next ((dropChain q s).putQueue q { s.queue q with status := 0, bufs := [] }) := if_pos ⟨queue, halted⟩

end

section
variable {s : State} {fnc : Nat} (function : fnc < 17)
include function

theorem execErrcntClear_clears : execErrcntClear fnc 0 s = .next (s.putPage fnc { s.page fnc with errcnt := 0 }) := by
  rw [execErrcntClear, putErrcnt, if_pos ⟨rfl, function⟩]

/-! A kernel's write of a page that stands gets to its register by the offset (R346, R347). -/

theorem kernelMay : ¬ ((!true) = true ∨ 17 ≤ fnc) := by simp [function]

theorem execRegisterWrite_actx (v : Nat) : execRegisterWrite true fnc 0 v s = .next (s.putPage fnc { s.page fnc with actx := v % 65536 }) :=
  if_neg (kernelMay function)

theorem execRegisterWrite_abase (v : Nat) :
    execRegisterWrite true fnc 8 v s = .next (s.putPage fnc { s.page fnc with abase := w64 (v / 65536 * 65536) }) :=
  if_neg (kernelMay function)

theorem execRegisterWrite_qctx {n k : Nat} (owned : queueOf s fnc n = some k) (within : n < 255) (v : Nat) :
    execRegisterWrite true fnc ((n + 1) * 4096 + 0x028) v s = .next (s.putQueue k { s.queue k with qctx := v % 65536 }) := by
  have page : ((n + 1) * 4096 + 0x028) / 4096 - 1 = n := by omega
  have register : ((n + 1) * 4096 + 0x028) % 4096 = 0x028 := by omega
  rw [execRegisterWrite, if_neg (kernelMay function), if_neg (by omega), if_neg (by omega), if_neg (by omega), if_pos (by omega), page, owned]
  dsimp only
  rw [if_pos register]

end

/-- A write by any other agent than the resident kernel is dropped (R346). -/
theorem execRegisterWrite_dropped (fnc off v : Nat) (s : State) : execRegisterWrite false fnc off v s = .next s := if_pos (.inl rfl)

/-- Settles O42: each write of a page does what the lemma above about it says. -/
theorem queuePagesComplete : Obligations.QueuePagesComplete := by
  unfold Obligations.QueuePagesComplete
  intro s q fnc v
  refine ⟨fun queue => execDoorbell_sets queue v, fun queue empty => execQueueConfigWrite_empty queue empty v,
    fun _ busy reg => execQueueConfigWrite_busy busy reg v, execQueueStatusClear_clears, execErrcntClear_clears, ?kernel,
    fun off => execRegisterWrite_dropped fnc off v s⟩
  case kernel =>
    exact fun function => ⟨execRegisterWrite_actx function v, execRegisterWrite_abase function v,
      fun n k owned within => execRegisterWrite_qctx function owned within v⟩

end Sys2Proof.Machine
end

section
/-! PROOFS. The Bench strip takes the entries of a command queue and completes its commands (spec 11_queues R216, R217, 18_outside R347 to R349). -/
open Sys2Proof Sys2Proof.Machine

namespace Sys2Proof.Machine

section
variable {s s1 : State} {q : Nat} {bs : List Byte} (on : queueOn s q = true) (next : nextEntry s q = .ok (s1, bs))
include on next

/-- A queue that is on and whose next entry breaks its layout halts with ILLEGAL (R348). -/
theorem execIllegalCommandEntry_halts (broken : entryOk bs = false) : execIllegalCommandEntry q s = .next (haltQueue cILLEGAL q s1) := by
  refine (if_neg (by simp [on])).trans ?_
  rw [next]
  exact if_neg (Bool.eq_false_iff.mp broken)

section
variable (ok : entryOk bs = true) (fence : fenceOk s q bs = true)
include ok fence

/-- A well-formed entry of the type that its FENCE does not hold is taken (R216, R348). -/
theorem takeEntry_takes {ty : Nat} (type : cType bs = ty) {f : List Byte → State → Option State} {t : State} (acts : f bs s1 = some t) :
    takeEntry q ty s f = .next t := by
  refine (if_neg (by simp [on])).trans ?_
  rw [next]
  refine (if_pos (by simp [type, ok, fence])).trans ?_
  rw [acts]
  rfl

theorem execNop_dispatches (type : cType bs = 0) :
    execNop q s = .next (dispatchCmd q bs { HCmd.start s1.nextId with finished := true } { s1 with nextId := s1.nextId + 1 }) :=
  takeEntry_takes on next ok fence type rfl

/-- THREAD starts a halted thread of its control core at its aligned pc (R349, log 75). -/
theorem execThread_dispatches (type : cType bs = 1) {tid : Nat}
    (halted : haltedThread s1 (leAt bs 40 1 / 32 * 32 + leAt bs 40 1 % 32) = some tid) :
    let pc := alignPc (w64 (leAt bs 16 8))
    let s2 := startThread s1 tid (queueThread s1 (s1.queue q) pc) pc (w64 (leAt bs 24 8)) (w64 (leAt bs 32 8)) 0
    execThread q s = .next (dispatchCmd q bs { HCmd.start s2.nextId with tid := some tid, run := s1.nextId } { s2 with nextId := s2.nextId + 1 }) := by
  refine takeEntry_takes on next ok fence type ?_
  dsimp only
  rw [halted]

/-- DELTA is dispatched, then sends its launch or its delta (R349). -/
theorem execDelta_dispatches (type : cType bs = 2) :
    let s2 := dispatchCmd q bs (HCmd.start s1.nextId) { s1 with nextId := s1.nextId + 1 }
    execDelta q s = .next (if leAt bs 40 3 = 0 then Sys2Proof.Machine.deltaLaunch bs (s1.queue q) s1.nextId s2
      else Sys2Proof.Machine.deltaApply bs (s1.queue q) s1.nextId (leAt bs 40 3) s2) :=
  takeEntry_takes on next ok fence type rfl

/-- Below the fourth level INDIRECT opens a buffer that its chain does not hold open (R217, R349). -/
theorem execIndirect_opens (type : cType bs = 3) (shallow : (s1.queue q).bufs.length < 4)
    (unopened : ∀ b ∈ (s1.queue q).bufs, b.va ≠ w64 (leAt bs 16 8)) :
    let c := { HCmd.start s1.nextId with q := q, bytes := bs, lastOf := (passEntry (s1.queue q).bufs).2 }
    execIndirect q s = .next (({ s1 with nextId := s1.nextId + 1, out := { s1.out with cmds := s1.out.cmds ++ [c] } }.putQueue q
      { s1.queue q with bufs := ⟨w64 (leAt bs 16 8), leAt bs 24 3, 0, s1.nextId⟩ :: (passEntry (s1.queue q).bufs).1 }).served q) := by
  refine takeEntry_takes on next ok fence type ?_
  dsimp only
  rw [if_neg (Nat.not_le.mpr shallow), if_neg (by simpa using unopened)]

/-- WAITSIG goes on once its signal is at least its value (R349). -/
theorem execWaitsig_dispatches (type : cType bs = 4) {s2 : State} {v : List Byte}
    (read : readVa s1 ((s1.queue q).who s1) (leAt bs 16 8) 8 = .ok (s2, v)) (reached : leAt bs 24 8 ≤ ofBytes v) :
    execWaitsig q s = .next (dispatchCmd q bs { HCmd.start s2.nextId with finished := true } { s2 with nextId := s2.nextId + 1 }) := by
  refine takeEntry_takes on next ok fence type ?_
  rw [read]
  dsimp only
  rw [if_neg (Nat.not_lt.mpr reached)]

theorem execWrite_dispatches (type : cType bs = 5) {s2 : State}
    (written : writeVa s1 ((s1.queue q).who s1) none (leAt bs 16 8) ((bs.drop 24).take 8) = .ok s2) :
    execWrite q s = .next (dispatchCmd q bs { HCmd.start s2.nextId with finished := true } { s2 with nextId := s2.nextId + 1 }) := by
  refine takeEntry_takes on next ok fence type ?_
  rw [written]

end
end

/-- A command that has done its work leaves its signal, its result word and its vector, and finishes the INDIRECT whose last it was (R348). -/
theorem execCommandComplete_completes {s : State} {c : HCmd} (found : s.out.cmds.find? (fun d => decide (d.id = c.id)) = some c)
    (finished : hostDone s c = true) :
    let sig := leAt c.bytes 8 8
    let s1 := if sig = 0 then s else benchWrite c.q sig (fun _ v => v + 1) s
    let res := if cType c.bytes = 2 then leAt c.bytes 48 8 else 0
    let s2 := if res = 0 then s1 else benchWrite c.q res (fun _ _ => c.result.toNat) s1
    let s3 := if cIrq c.bytes then
      { s2 with out := { s2.out with msix := ((s2.queue c.q).fnc * 64 + cVec c.bytes) :: s2.out.msix } } else s2
    execCommandComplete c.id s = .next { s3 with out := { s3.out with
      cmds := (s3.out.cmds.filter fun d => decide (d.id ≠ c.id)).map fun d => if c.lastOf = some d.id then { d with finished := true } else d } } := by
  unfold execCommandComplete
  rw [found]
  exact if_neg (by simp [finished])

/-- Settles O43: each entry and each completion by the lemma above about it. -/
theorem queueCommandsComplete : Obligations.QueueCommandsComplete := by
  unfold Obligations.QueueCommandsComplete
  refine ⟨fun s s1 q bs on next => ⟨fun ok fence => ?taken, execIllegalCommandEntry_halts on next⟩,
    fun s c => execCommandComplete_completes⟩
  case taken =>
    exact ⟨execNop_dispatches on next ok fence, fun type tid => execThread_dispatches on next ok fence type,
      execDelta_dispatches on next ok fence, execIndirect_opens on next ok fence,
      fun type s2 v => execWaitsig_dispatches on next ok fence type, fun type s2 => execWrite_dispatches on next ok fence type⟩

end Sys2Proof.Machine
end

section
/-! PROOFS. What the entry of a trap changes, and what it leaves alone (spec 17_faults R325, R326, R328, 19_wellhead R366). -/
open Sys2Proof Sys2Proof.Machine

namespace Sys2Proof.Machine

/-! ### Sorted insertion (R366) -/

/-- An insertion in order adds its element and loses none. -/
theorem insertBy_perm {α : Type} (lt : α → α → Bool) (y : α) (xs : List α) : (insertBy lt y xs).Perm (y :: xs) := by
  induction xs with
  | nil => exact .refl _
  | cons x xs ih =>
    by_cases first : lt y x = true
    · rw [insertBy, if_pos first]
    · rw [insertBy, if_neg first]
      exact (ih.cons x).trans (.swap y x xs)

/-! ### The event log (R366) -/

/-- A log that is not full gains one record. -/
theorem logRec_length (s : State) (r : LogRec) (room : s.well.log.length < logSize) :
    (s.logRec r).well.log.length = s.well.log.length + 1 := by
  have kept : (s.logRec r).well.log = insertBy recBefore r s.well.log :=
    congrArg (insertBy recBefore r) (if_neg (by simpa using room))
  rw [kept, (insertBy_perm recBefore r s.well.log).length_eq, List.length_cons]

/-- The record stands in the log, full or not. -/
theorem mem_logRec (s : State) (r : LogRec) : r ∈ (s.logRec r).well.log :=
  (insertBy_perm recBefore r _).mem_iff.mpr List.mem_cons_self

/-! ### The obligation -/

/-- Settles O22: the entry writes the exception registers and the state of its own thread, by `th_takeTrap_self`, and the event log. -/
theorem trapEntrySavesWhatR325Says : Obligations.TrapEntrySavesWhatR325Says := by
  unfold Obligations.TrapEntrySavesWhatR325Says
  intro tid code pc v s t
  have self : t.th tid = _ := th_takeTrap_self s tid code pc v
  refine ⟨?sys, ?stopped, ?pc, ?handler, ?regs, ?preds, ?handles, fun u other => th_takeTrap_ne s code pc v other,
    rfl, rfl, rfl, rfl, rfl, rfl, rfl, ?gains, ?logged⟩
  case sys | stopped | pc | handler => rw [self]
  case regs | preds | handles =>
    rw [self]
    exact fun n => rfl
  case gains => exact logRec_length (s.onTh tid _) _
  case logged => exact mem_logRec (s.onTh tid _) _

end Sys2Proof.Machine
end

section
/-! PROOFS. Flow nodes fire (spec 12_nodes R221 to R224). -/
open Sys2Proof Sys2Proof.Machine

namespace Sys2Proof.Machine

section
variable {w : NW} {s : State} {c : Ctx} (ctx : nodeCtx s = some c)
include ctx

/-! ### STEER, GATE and FCOMP: L goes where P says -/

section
variable (left : c.has 0 = true) (pred : c.has 2 = true)
include left pred

/-- The end token of a flagged L goes to the target that L does not take (R221). -/
theorem steer_fires :
    let t := passTok c 0 [0, 2]
    let ends := fun (x : Nat) => if t.flg.ends then [only x (endTok t)] else []
    Fires (.steer w) s c s (taken c [0, 2]) (if bit (c.val 2).toNat 0 then only 0 t :: ends 1 else only 1 t :: ends 0) := by
  refine fires_of_pass ctx rfl ((if_pos (by simp [left, pred])).trans (congrArg (c.pass [0, 2]) ?_))
  cases on : bit (c.val 2).toNat 0
  case true => rfl
  case false => rfl

theorem gate_fires :
    let t := passTok c 0 [0, 2]
    Fires (.gate w) s c s (taken c [0, 2])
      (if bit (c.val 2).toNat 0 then [⟨none, t⟩] else if t.flg.ends then [⟨none, endTok t⟩] else []) :=
  fires_of_pass ctx rfl (if_pos (by simp [left, pred]))

/-- A token that passes carries the count of those before it (R224). -/
theorem fcomp_passes (on : bit (c.val 2).toNat 0 = true) :
    Fires (.fcomp w) s c s (takenSt c [0, 2] fun x => { x with cnt := (x.cnt + 1) % 65536 })
      [⟨none, { passTok c 0 [0, 2] with tag := laneTag c.base c.i.k c.st.cnt }⟩] :=
  fires_of_passSt ctx rfl ((if_pos (by simp [left, pred])).trans (if_pos on))

theorem fcomp_discards (off : bit (c.val 2).toNat 0 = false) :
    let u := { passTok c 0 [0, 2] with tag := laneTag c.base c.i.k c.st.cnt }
    Fires (.fcomp w) s c s (taken c [0, 2]) (if u.flg.ends then [⟨none, endTok u⟩] else []) :=
  fires_of_pass ctx rfl ((if_pos (by simp [left, pred])).trans (if_neg (Bool.eq_false_iff.mp off)))

end

/-! ### MERGE -/

/-- The operand that P does not choose need not be there (R224). -/
theorem merge_fires (pred : c.has 2 = true) :
    let f := if bit (c.val 2).toNat 0 then 0 else 1
    c.has f = true → Fires (.merge w) s c s (taken c [f, 2]) [⟨none, passTok c f [f, 2]⟩] := by
  intro f chosen
  exact fires_of_pass ctx rfl (if_pos (by rw [pred]; exact chosen))

/-! ### REPEAT -/

/-- One firing for each copy: of none L goes at once, the last takes L with it, and any other leaves it there without its end flags. -/
theorem repeat_fires (left : c.has 0 = true) (counted : w.lit = 0 → c.has 1 = true) :
    let fs := if w.lit = 0 then [0, 1] else [0]
    let t := passTok c 0 fs
    let n := if c.st.busy then c.st.cnt else if w.lit = 0 then (c.val 1).toNat % 65536 else w.lit.toNat
    (n = 0 → Fires (.repeat w) s c s (taken c fs) (if t.flg.ends then [⟨none, endTok t⟩] else [])) ∧
    (n = 1 → Fires (.repeat w) s c s (takenSt c fs fun x => { x with busy := false, cnt := 0 }) [⟨none, t⟩]) ∧
    (1 < n → Fires (.repeat w) s c s (takenSt c [] fun x => { x with busy := true, cnt := n - 1 })
        [⟨none, { t with flg := { t.flg with eos := false, eor := false } }⟩]) := by
  intro fs t n
  have present : ¬(!fs.all c.has) = true := by
    by_cases byR : w.lit = 0
    · rw [show fs = [0, 1] from if_pos byR]
      simp [left, counted byR]
    · rw [show fs = [0] from if_neg byR]
      simp [left]
  refine ⟨fun none => ?_, fun one => ?_, fun more => ?_⟩
  · exact fires_of_pass ctx rfl ((if_neg present).trans (if_pos none))
  · exact fires_of_passSt ctx rfl ((if_neg present).trans ((if_neg (by omega : n ≠ 0)).trans (if_pos one)))
  · exact fires_of_passSt ctx rfl ((if_neg present).trans ((if_neg (by omega : n ≠ 0)).trans (if_neg (by omega : n ≠ 1))))

/-! ### ROUTE and SINK -/

theorem route_fires (left : c.has 0 = true) :
    let t := passTok c 0 [0]
    let x := if bit (c.val 0).toNat (w.lit.toNat % 64) then 1 else 0
    Fires (.route w) s c s (taken c [0]) (only x t :: if t.flg.ends then [only (1 - x) (endTok t)] else []) := by
  refine fires_of_pass ctx rfl ((if_pos left).trans (congrArg (c.pass [0]) ?_))
  cases on : bit (c.val 0).toNat (w.lit.toNat % 64)
  case true => rfl
  case false => rfl

theorem sink_fires (left : c.has 0 = true) : Fires (.sink w) s c s (taken c [0]) [] := fires_of_pass ctx rfl (if_pos left)

end

/-! ### The obligation -/

/-- Settles O25: each node fires as the lemma above about it says. -/
theorem flowNodesFire : Obligations.FlowNodesFire := by
  unfold Obligations.FlowNodesFire
  intro w s c ctx
  exact ⟨fun left pred => ⟨steer_fires ctx left pred, gate_fires ctx left pred, fcomp_passes ctx left pred, fcomp_discards ctx left pred⟩,
    merge_fires ctx, repeat_fires ctx, fun left => ⟨route_fires ctx left, sink_fires ctx left⟩⟩

end Sys2Proof.Machine
end

section
/-! PROOFS. Counter waits and reads complete (spec 13_tables R261, 16_counters R315, R321, R322). -/
open Sys2Proof Sys2Proof.Machine

namespace Sys2Proof.Machine

/-- WAIT's limits hold where each is 15 or its counter does not lie above it (R315). -/
theorem limitsMet_of_each {t : Thread} {l s c k : Nat} (each : ∀ e ∈ [(l, t.l), (s, t.s), (c, t.c), (k, t.k)], e.1 = 15 ∨ e.2 ≤ e.1) :
    limitsMet t l s c k = true := by
  simpa [limitsMet, limitOk, and_assoc] using each

theorem execWait_completes {x : TW} {s : State} (issues : Issues x.pg [] [] s)
    (met : limitsMet s.me x.l.toNat x.s.toNat x.c.toNat x.k.toNat = true) : execWait x s = .next (advance s) :=
  issue_ok issues (if_pos met)

section
variable {x : TX} {s : State} {k : Nat} (allowed : trefKey s s.me.own (s.me.rg x.a.toNat) = some k)
include allowed

theorem execWaitm_completes (issues : Issues x.pg [x.a, x.b] [x.b] s) (clean : (s.tile k).poison = false)
    (met : chunksMet (s.tile k) x.cls.toNat (s.me.rg x.b.toNat) = true) :
    execWaitm x s = .next (advance (s.onMe fun t => (t.wg x.b.toNat (s.tile k).bitmap).sync (decide (x.acq = 1)))) := by
  refine issue_ok issues ?_
  dsimp only
  rw [allowed]
  exact (if_neg (Bool.eq_false_iff.mp clean)).trans (if_pos met)

theorem execWaitt_completes (issues : Issues x.pg [x.a] [x.b] s) (met : (s.tile k).st.code = x.cls.toNat ∨ (s.tile k).poison = true) :
    execWaitt x s = .next (advance (s.onMe fun t => (t.wg x.b.toNat (s.tile k).low).sync (decide (x.acq = 1)))) := by
  refine issue_ok issues ?_
  dsimp only
  rw [allowed]
  exact if_pos met

end

theorem execCntrd_writes {x : T3} {s s1 : State} {v : W} (issues : Issues x.pg [x.a] [x.d] s) (free : needQ [x.d] s = .ok ())
    (read : counterOf s x.c.toNat (s.me.rg x.a.toNat) = .ok v) (put : putV x.d v s = .ok s1) : execCntrd x s = .next (advance s1) :=
  issue_ok issues ((bind_of_ok free _).trans ((bind_of_ok read _).trans put))

/-- Settles O16: each word issues and its body runs to its end, by the lemma above about it. -/
theorem counterWordsComplete : Obligations.CounterWordsComplete := by
  unfold Obligations.CounterWordsComplete
  refine ⟨fun x s issues each => ?wait, fun x s k allowed => ⟨execWaitm_completes allowed, execWaitt_completes allowed⟩,
    fun x s s1 v => execCntrd_writes⟩
  case wait => exact execWait_completes issues (limitsMet_of_each (by simpa using each))

end Sys2Proof.Machine
end

section
/-! PROOFS. Delta instructions and rule commands at issue (spec 14_rules R267, R281 to R290). -/
open Sys2Proof Sys2Proof.Machine

namespace Sys2Proof.Machine

/-! ### Delta instructions (R283, R287) -/

/-- What a delta instruction leaves once its image is read: an imprecise PRIV or BASIN_FULL, or its delta on its way, with a free
reservation taken where it takes one (R267, R287). -/
def deltaIssued (takes : Bool) (m : Msg) (s : State) : State :=
  match ownNet s m.owner m.net with
  | none => dueMe cPRIV m.b s
  | some (_, n) =>
    if takes && decide (n.free = 0) then dueMe cBASIN (basinVal 1 0) s
    else sendDelta m (if takes then reserve m.net s else s)

section
variable {op : Nat} {x : TX} {wid : W} {s : State} (few : needDelta s = .ok ()) (room : s.me.c < 63)
include few room

/-- WMASSERT and WMMODIFY read an image, and take a reservation. -/
theorem deltaBody_reads {a : Nat} {s1 : State} {img : List Byte} (image : readImage a s = .ok (s1, img)) :
    deltaBody op x (some a) wid s = .ok (deltaIssued true { msgOf op x s with opnd := wordsOf img ++ [wid] } s1) := by
  refine (bind_of_ok few _).trans ((bind_of_ok image _).trans ((bind_of_ok (needRoom_c_ok room) _).trans ?_))
  unfold deltaIssued
  dsimp only
  generalize ownNet s1 _ _ = found
  rcases found with _ | ⟨i, n⟩
  · rfl
  · by_cases full : n.free = 0
    · simp [full]
    · simp [full]

/-- WMRETRACT has no image, and takes no reservation. -/
theorem deltaBody_retracts :
    deltaBody op x none wid s = .ok (deltaIssued false { msgOf op x s with opnd := wordsOf (List.replicate 64 0) ++ [wid] } s) := by
  refine (bind_of_ok few _).trans ((bind_of_ok (needRoom_c_ok room) _).trans ?_)
  unfold deltaIssued
  dsimp only
  generalize ownNet s _ _ = found
  rcases found with _ | ⟨i, n⟩
  · rfl
  · rfl

end

/-! ### Commands to the Basin (R281, R286, R288 to R290) -/

section
variable {x : TX} {s : State} (outside : s.specul s.cur = none) (room : s.me.c < 63)
include outside room

theorem sendRule_sends {checks : List (Acc × Nat × Nat × Nat)} {m : Msg} (pass : needAll checks s = .ok ()) :
    sendRule checks m s = .ok (sentTo (basinFor m.b) m s) :=
  (bind_of_ok (needIrrev_ok outside) _).trans ((bind_of_ok pass _).trans (bind_of_ok (needRoom_c_ok room) _))

/-- CSSEL takes the context of its thread along, and acquires when it completes (R281). -/
theorem execCssel_sends (issues : Issues x.pg [x.a, x.b] [x.b] s)
    (pass : needAll [(.write, (s.me.rg x.a.toNat).toNat, 64 * (x.imm.toNat % 64 + 1), 64)] s = .ok ()) :
    execCssel x s = .next (sentTo (basinFor (s.me.rg x.b.toNat))
      { msgOf 0xb9 x s with opnd := [s.me.sys.prio, s.me.sys.quant, s.me.sys.pw, s.me.sys.ctx] }
      (pushPend { Pend.mk0 .acqCmd 0 0 0 0 [] with acq := true } s)) :=
  issueJump_ok issues ((bind_of_ok (needIrrev_ok outside) _).trans ((bind_of_ok pass _).trans (bind_of_ok (needRoom_c_ok room) _)))

/-- Both forms of CSINFO send the same message, whose CLASS tells them apart (R288). -/
theorem execCsinfo_sends (issues : Issues x.pg [x.a, x.b] [x.b] s)
    (pass : needAll [(.write, (s.me.rg x.a.toNat).toNat, 64, 64)] s = .ok ()) :
    let sent : Out := .next (sentTo (basinFor (s.me.rg x.b.toNat)) (msgOf 0xba x s) s)
    execCsinfoSummary x s = sent ∧ execCsinfoEntry x s = sent :=
  ⟨issueJump_ok issues (sendRule_sends outside room pass), issueJump_ok issues (sendRule_sends outside room pass)⟩

/-- CSCLR and RLOAD have no buffer to check (R289, R290). -/
theorem execCsclr_sends (issues : Issues x.pg [x.b] [x.b] s) :
    let sent : Out := .next (sentTo (basinFor (s.me.rg x.b.toNat)) (msgOf 0xbb x s) s)
    execCsclrAll x s = sent ∧ execCsclrRule x s = sent :=
  ⟨issueJump_ok issues (sendRule_sends outside room rfl), issueJump_ok issues (sendRule_sends outside room rfl)⟩

theorem execRload_sends (issues : Issues x.pg [x.b] [x.b] s) :
    execRload x s = .next (sentTo (basinFor (s.me.rg x.b.toNat)) (msgOf 0xbc x s) s) :=
  issueJump_ok issues (sendRule_sends outside room rfl)

end

/-! ### The obligation -/

/-- Settles O18: each delta instruction issues its delta, and each command is sent, by the lemma above about it. -/
theorem ruleCommandsAreSent : Obligations.RuleCommandsAreSent := by
  unfold Obligations.RuleCommandsAreSent
  refine ⟨fun x s s1 img op wid takes few room => ⟨?assert, ?retract, ?modify⟩, fun x s outside room => ⟨?cssel, ?csinfo, ?rest⟩⟩
  case assert =>
    rintro rfl rfl rfl issues image
    exact issueJump_ok issues (deltaBody_reads few room image)
  case retract =>
    rintro rfl rfl rfl issues rfl rfl
    exact issueJump_ok issues (deltaBody_retracts few room)
  case modify =>
    rintro rfl rfl rfl issues image
    exact issueJump_ok issues (deltaBody_reads few room image)
  case cssel => exact execCssel_sends outside room
  case csinfo => exact execCsinfo_sends outside room
  case rest =>
    intro issues
    obtain ⟨all, rule⟩ := execCsclr_sends outside room issues
    exact ⟨all, rule, execRload_sends outside room issues⟩

end Sys2Proof.Machine
end

section
/-! PROOFS. MSGI and the privileged system words complete (spec 17_faults R339, R341 to R344). -/
open Sys2Proof Sys2Proof.Machine

namespace Sys2Proof.Machine

/-- A word whose body stops with an open xval takes a free value (log 2). -/
theorem issue_trapOpen {pg : BitVec 4} {srcs dsts : List Spec} {body : Body} {s : State} {c : Nat} (issues : Issues pg srcs dsts s)
    (stops : body s = .error (.trapOpen c)) :
    issue pg srcs dsts body s = .next (takeTrap s.cur c s.me.pc (Config.freeValue s.fresh) { s with fresh := s.fresh + 1 }) := by
  rw [issue, runBody_issues issues, stops]

/-- A step of a body that stops stops the body. -/
theorem bind_of_error {α β : Type} {m : Except Stop α} {e : Stop} (h : m = .error e) (rest : α → Except Stop β) : m >>= rest = .error e := by
  rw [h]
  rfl

/-- An address on its boundary passes its check (R164). -/
theorem needAlign_ok {a n : Nat} (aligned : a % n = 0) : needAlign a n = .ok () := if_pos aligned

theorem needPrv_stops {s : State} (user : s.me.prv = false) : needPrv s = .error (.trapOpen cPRIV) := if_neg (Bool.eq_false_iff.mp user)

/-! ### MSGI (R341) -/

theorem execMsgi_posts {x : TX} {s : State} (issues : Issues x.pg [x.a] [] s) (outside : s.specul s.cur = none)
    (allowed : needPost ((s.me.rg x.a.toNat).toNat % 65536) s = .ok ()) (released : x.rel = 1 → fenceMet s.me true true = true) :
    execMsgi x s = .next (advance (s.post ((s.me.rg x.a.toNat).toNat % 65536) (bits x.imm.toNat 5 0))) := by
  refine issue_ok issues ((bind_of_ok (needIrrev_ok outside) _).trans ((bind_of_ok allowed _).trans (if_neg ?_)))
  rintro ⟨release, pending⟩
  exact Bool.false_ne_true (pending.symm.trans (released release))

/-- The task of a block, where there is one, is bound to the thread that the block fills (R344). -/
def bindTask (u : Nat) (bs : List Byte) (task : Option Task) (s : State) : State :=
  match task with
  | some k => s.onTask k.id fun t => { t with tid := some u, aborts := leAt bs 672 8, shard := shardOf u }
  | none => s

/-! ### TLBINV, PTSYNC and CTXSAVE (R342, R343) -/

section
variable {x : TM} {s : State} (prv : s.me.prv = true)
include prv

theorem execTlbinv_starts (issues : Issues x.pg [x.a, x.d] [] s) (reserved : fld (s.me.rg x.d.toNat) 63 18 = 0) (room : s.me.c < 63) :
    execTlbinv x s = .next (advance (startOwn (msgOfTM 0xd6 x s) s)) :=
  issue_ok issues ((bind_of_ok (needPrv_ok prv) _).trans ((if_neg (not_not.mpr reserved)).trans (bind_of_ok (needRoom_c_ok room) _)))

/-- Of all ones PTSYNC names no descriptor (R342). -/
theorem execPtsync_reads (issues : Issues x.pg [x.d] [] s) (stored : fenceMet s.me false true = true) :
    let id := fld (s.me.rg x.d.toNat) 15 0
    execPtsync x s = .next (advance (if s.me.rg x.d.toNat = allOnes then s
      else { s with mem := { s.mem with ctx := Tab.put s.mem.ctx id (readCtx s.mem id) } })) :=
  issue_ok issues ((bind_of_ok (needPrv_ok prv) _).trans ((if_neg (by simp [stored])).trans (apply_ite Except.ok _ _ _).symm))

section
variable (issues : Issues x.pg [x.a, x.d] [] s) (aligned : addrTM x s % 64 = 0)
include issues aligned

theorem execCtxsave_starts {s1 : State} {pas : List Nat} (thread : (s.me.rg x.d.toNat).toNat % 65536 < 1024)
    (lives : (s.th ((s.me.rg x.d.toNat).toNat % 65536)).st ≠ .halted) (mapped : xlates .write (addrTM x s) 1024 s = .ok (s1, pas))
    (room : s.me.c < 63) :
    let t := (s.me.rg x.d.toNat).toNat % 65536
    execCtxsave x s = .next (advance (startOwn { msgOfTM 0xd4 x s with opnd := [w64 (addrTM x s), w64 t] } (stopLanes t s1))) :=
  issue_ok issues ((bind_of_ok (needPrv_ok prv) _).trans ((if_neg (by simp [isThreadNo, thread, lives])).trans
    ((bind_of_ok (needAlign_ok aligned) _).trans ((bind_of_ok mapped _).trans (bind_of_ok (needRoom_c_ok room) _)))))

/-! ### CTXREST (R344) -/

/-- The thread is filled from the block, its task is bound to it, and its resume records enter their inbox again. -/
theorem execCtxrest_restores {s1 s2 : State} {bs recs : List Byte} :
    let u := shardOf s.cur * 8 + (s.me.rg x.d.toNat).toNat % 8
    let n := leAt bs 816 1 % 64
    (s.th u).st = .halted → readAtIssue (addrTM x s) 1024 s = .ok (s1, bs) → wrongThread s bs u = false →
    inboxFits s (srcBte u) n = true → readAtIssue (addrTM x s + 1024) (64 * n) s1 = .ok (s2, recs) →
    execCtxrest x s = .next (advance ((recordsOf recs).foldl (resumeOne u)
      (bindTask u bs (taskOfBlock s bs) (holdRecords u false (s2.putTh u (blockThread s bs u)))))) := by
  intro u n halted block own fits records
  exact issue_ok issues ((bind_of_ok (needPrv_ok prv) _).trans ((if_neg (not_not.mpr halted)).trans
    ((bind_of_ok (needAlign_ok aligned) _).trans ((bind_of_ok block _).trans ((if_neg (Bool.eq_false_iff.mp own)).trans
      ((if_neg (by simpa using fits)).trans (bind_of_ok records _)))))))

end

end

/-! ### Without PRV (R339) -/

section
variable {x : TM} {s : State} (user : s.me.prv = false)
include user

/-- Each privileged word asks for PRV before anything else. -/
theorem privileged_traps (issues : Issues x.pg [x.a, x.d] [] s) :
    let trapped : Out := .next (takeTrap s.cur cPRIV s.me.pc (Config.freeValue s.fresh) { s with fresh := s.fresh + 1 })
    execTlbinv x s = trapped ∧ execCtxsave x s = trapped ∧ execCtxrest x s = trapped :=
  ⟨issue_trapOpen issues (bind_of_error (needPrv_stops user) _), issue_trapOpen issues (bind_of_error (needPrv_stops user) _),
    issue_trapOpen issues (bind_of_error (needPrv_stops user) _)⟩

theorem execPtsync_traps (issues : Issues x.pg [x.d] [] s) :
    execPtsync x s = .next (takeTrap s.cur cPRIV s.me.pc (Config.freeValue s.fresh) { s with fresh := s.fresh + 1 }) :=
  issue_trapOpen issues (bind_of_error (needPrv_stops user) _)

end

/-! ### The obligation -/

/-- Settles O23: each word completes, or traps without PRV, by the lemma above about it. -/
theorem systemWordsComplete : Obligations.SystemWordsComplete := by
  unfold Obligations.SystemWordsComplete
  refine ⟨fun x s issues outside => execMsgi_posts issues outside, fun x s prv => ⟨execTlbinv_starts prv, execPtsync_reads prv, ?moves⟩,
    fun x s user => ⟨privileged_traps user, execPtsync_traps user⟩⟩
  case moves =>
    exact fun issues aligned => ⟨fun s1 pas => execCtxsave_starts prv issues aligned,
      fun s1 s2 bs recs => execCtxrest_restores prv issues aligned⟩

end Sys2Proof.Machine
end

section
/-! PROOFS. Match nodes fire on a plus match (spec 14_rules R270 to R276). -/
open Sys2Proof Sys2Proof.Machine

namespace Sys2Proof.Machine

/-! ### Firings of match nodes -/

/-- A plus match is not of the reserved kind (R270). -/
theorem reservedIn_left {c : Ctx} (plus : mKind (c.val 0) = 0) : reservedIn c [0] = false := by
  simp [reservedIn, plus]

section
variable {e : Instr} {s s2 : State} {c : Ctx} {net : Net} {f : Ctx → Net → Except ReadErr (Option State)} (ctx : nodeCtx s = some c)
  (network : s.net c.iid = some net)
include ctx network

/-- A match node that completes in a state and an invocation of its own making fires with them. -/
theorem fires_of_match {i : Inv} {outs : List Emit} (runs : exec e s = matchFire s f) (completes : f c net = .ok (c.done s2 i outs)) :
    Fires e s c s2 i outs := by
  obtain rfl := nodeCtx_s ctx
  intro clean space
  rw [runs]
  exact matchFire_ok ctx clean network (completes.trans (congrArg Except.ok (done_eq_sentFrom space)))

end

section
variable {w : NW} {s s2 : State} {c : Ctx} {net : Net} (ctx : nodeCtx s = some c) (network : s.net c.iid = some net)
include ctx network

/-! ### ALPHA, MEMB and TERM (R272, R273, R276) -/

section
variable (left : c.has 0 = true) (plus : mKind (c.val 0) = 0)
include left plus

theorem alpha_fires {x : Nat}
    (read : attrAt s c.i net (mWid (c.val 0) (mN (c.val 0) - 1)) (bits w.lit.toNat 3 0) = .ok (s2, x)) :
    let p := passTok c 0 [0]
    Fires (.alpha w) s c s2 (taken c [0])
      [only (if alphaTest (bits w.fn.toNat 4 3) (bits w.fn.toNat 2 0) x c.st.const then 0 else 1) { p with flg := { p.flg with scl := false } }] := by
  obtain rfl := nodeCtx_s ctx
  refine fires_of_match ctx network rfl ((if_neg (by simp [left])).trans ((if_neg (by simp [reservedIn_left plus])).trans
    ((if_pos plus).trans ?_)))
  exact readBind_of_ok read _

theorem memb_fires {tts : List Nat} (idle : c.st.outs = []) (room : c.st.beta.length < membCap w.lit.toNat)
    (read : ttsOf c.i net (mWids (c.val 0)) s = .ok (s2, tts)) :
    let q := Tab.getD s2.fab.seq c.nd.place.core 0
    Fires (.memb w) s c { s2 with fab := { s2.fab with seq := Tab.put s2.fab.seq c.nd.place.core ((q + 1) % 2 ^ 32) } }
      ((c.i.onSt c.n fun x => { x with beta := x.beta ++ [⟨c.val 0, tts, q, 0⟩] }).clearFields c.n c.tag [0])
      [⟨none, ⟨c.val 0, c.tag, resFlg false [c.flg 0], q⟩⟩] := by
  obtain rfl := nodeCtx_s ctx
  refine fires_of_match ctx network rfl ((if_neg (not_not.mpr idle)).trans ((if_neg (by simp [left])).trans ?_))
  dsimp only
  rw [plus]
  exact (if_neg (Nat.not_le.mpr room)).trans (readBind_of_ok read _)

/-- TERM enters a match that is in no entry of its rule (R276). -/
theorem term_fires {e : Nat} {tts : List Nat} {sc : Bool} (form : bit w.lit.toNat 12 = sc) (own : bit c.lit 12 = sc)
    (scored : sc = true → c.has 1 = true) (free : freeBasin s c.i.region.die = some e)
    (read : ttsOf c.i net (mWids (c.val 0)) s = .ok (s2, tts)) :
    let r := net.rules.getD (c.lit % 4096) ⟨0, 0, 0⟩
    basinOf s c.iid (fun b => decide (b.rule = r.rule) && decide (b.m = c.val 0)) = [] →
    Fires (.term w) s c ((s2.putBasin (Tab.put s2.fab.basin e
        ⟨r.rule, r.sal, if sc then fld (c.val 1) 31 0 else 0, .ready, mN (c.val 0), c.iid, c.val 0, tts, 0⟩)).onNet c.iid
      fun n => { n with full := n.full.filter fun k => decide (k ≠ c.n) }) (taken c (if sc then [0, 1] else [0])) [] := by
  obtain rfl := nodeCtx_s ctx
  intro r new
  have present : ¬(!(if sc then [0, 1] else [0]).all c.has) = true := by
    cases sc
    case true => simp [left, scored]
    case false => simp [left]
  refine fires_of_match ctx network rfl ?_
  dsimp only
  rw [form]
  refine (if_neg present).trans ?_
  rw [plus]
  refine (if_neg (not_not.mpr new)).trans ?_
  rw [free]
  refine (readBind_of_ok read _).trans ?_
  dsimp only
  rw [own]
  rfl

end

end

/-! ### JOINB and NEGJ (R274) -/

/-- A left match is taken before a right one (log 58). -/
theorem joinField_left {c : Ctx} (left : c.has 0 = true) : joinField c = some 0 := if_pos left

theorem joinField_right {c : Ctx} (noLeft : c.has 0 = false) (right : c.has 1 = true) : joinField c = some 1 :=
  (if_neg (Bool.eq_false_iff.mp noLeft)).trans (if_pos right)

section
variable {w : NW} {s s1 s2 s3 : State} {c : Ctx} {net : Net} {k : Nat} {bs : List Beta} (ctx : nodeCtx s = some c)
  (network : s.net c.iid = some net) (clean : tokPoisoned s c.iid c.i c.n c.tag c.nd = false) (idle : c.st.outs = [])
include ctx network clean idle

section
variable (left : c.has 0 = true) (plus : mKind (c.tok 0).v = 0) (key : leftKey c net (c.tok 0).v s = .ok (s2, k))
  (probe : matching (rightKey c net) k (below (c.tok 0).seq (sideOf c 1).2) s2 = .ok (s3, bs))
include left plus key probe

theorem joinb_left (fits : mN (c.tok 0).v ≠ 3 ∨ bs = [])
    (sends : sendOuts c s3 c.i 0 (bs.map fun b => (plusTok (mWids (c.tok 0).v ++ [mWid b.m 0]), 0)) = some s1) :
    execJoinb w s = .next (endIfDone s1 c.iid) := by
  obtain rfl := nodeCtx_s ctx
  refine matchFire_ok ctx clean network ((if_neg (not_not.mpr idle)).trans ?_)
  rw [joinField_left left]
  dsimp only
  rw [plus]
  refine (readBind_of_ok key _).trans ((readBind_of_ok probe _).trans ((if_neg ?_).trans (congrArg Except.ok sends)))
  exact fun full => fits.elim (· full.1) full.2

/-- NEGJ keeps with a left match how many right ones it has, and sends it where it has none. -/
theorem negj_left (few : bs.length ≤ 65535)
    (sends : sendOuts c s3 (recount c (fun _ => bs.length) [(c.tok 0).seq]) 0 (if bs = [] then [((c.tok 0).v, 0)] else []) = some s1) :
    execNegj w s = .next (endIfDone s1 c.iid) := by
  obtain rfl := nodeCtx_s ctx
  refine matchFire_ok ctx clean network ((if_neg (not_not.mpr idle)).trans ?_)
  rw [joinField_left left]
  dsimp only
  rw [plus]
  exact (readBind_of_ok key _).trans ((readBind_of_ok probe _).trans ((if_neg (Nat.not_lt.mpr few)).trans (congrArg Except.ok sends)))

end

section
variable (noLeft : c.has 0 = false) (right : c.has 1 = true) (plus : mKind (c.tok 1).v = 0)
  (key : rightKey c net (c.tok 1).v s = .ok (s2, k))
  (probe : matching (leftKey c net) k (below (c.tok 1).seq (sideOf c 0).2) s2 = .ok (s3, bs))
include noLeft right plus key probe

theorem joinb_right (fits : ∀ b ∈ bs, mN b.m ≠ 3)
    (sends : sendOuts c s3 c.i 1 (bs.map fun b => (plusTok (mWids b.m ++ [mWid (c.tok 1).v 0]), 0)) = some s1) :
    execJoinb w s = .next (endIfDone s1 c.iid) := by
  obtain rfl := nodeCtx_s ctx
  refine matchFire_ok ctx clean network ((if_neg (not_not.mpr idle)).trans ?_)
  rw [joinField_right noLeft right]
  dsimp only
  rw [plus]
  exact (readBind_of_ok key _).trans ((readBind_of_ok probe _).trans ((if_neg (by simpa using fits)).trans (congrArg Except.ok sends)))

/-- A new right match takes back the left matches that had none. -/
theorem negj_right (few : ∀ b ∈ bs, b.count < 65535)
    (sends : sendOuts c s3 (recount c (fun n => n + 1) (bs.map Beta.seq)) 1
      ((bs.filter fun b => decide (b.count = 0)).map fun b => (minusOf b.m, 0)) = some s1) :
    execNegj w s = .next (endIfDone s1 c.iid) := by
  obtain rfl := nodeCtx_s ctx
  refine matchFire_ok ctx clean network ((if_neg (not_not.mpr idle)).trans ?_)
  rw [joinField_right noLeft right]
  dsimp only
  rw [plus]
  exact (readBind_of_ok key _).trans ((readBind_of_ok probe _).trans ((if_neg (by simpa using few)).trans (congrArg Except.ok sends)))

end

end

/-! ### SCORE and its reply (R275) -/

theorem score_looks {w : NW} {s s1 : State} {c : Ctx} {net : Net} (ctx : nodeCtx s = some c) (network : s.net c.iid = some net)
    (clean : tokPoisoned s c.iid c.i c.n c.tag c.nd = false) (left : c.has 0 = true) (plus : mKind (c.tok 0).v = 0)
    (unasked : Tab.look c.st.score c.tag = none) (looks : scoreLook c net (c.tok 0) = .ok (some s1)) :
    execScore w s = .next (endIfDone s1 c.iid) := by
  obtain rfl := nodeCtx_s ctx
  exact matchFire_ok ctx clean network ((if_neg (by simp [left, unasked])).trans ((if_neg (by simp [plus])).trans ((if_pos plus).trans looks)))

/-- The scorer's answer on R fills the entry that waits for it, and goes to T2. -/
theorem execScoreReply_fires {iid node tag idx : Nat} {s s2 s3 : State} {c : Ctx} {net : Net} {bs : List Byte}
    (ctx : nodeCtx { s with site := (iid, node, tag) } = some c) (clean : tokPoisoned s c.iid c.i c.n c.tag c.nd = false)
    (network : s.net c.iid = some net) (named : c.nd.op = 0xb8) (asked : Tab.look c.st.score c.tag = some idx) (right : c.has 1 = true) :
    let v := fld (c.val 1) 31 0
    let out := [only 1 ⟨w64 v, c.tag, resFlg false [c.flg 1], 0⟩]
    canSend c.s c.i c.n c.nd c.tag out = true → readVa c.s c.i.who (scoreVa net idx) 16 = .ok (s2, bs) →
    scorePut s2 c net idx (toBytes 8 (scoreWord true false (leAt bs 0 8 % 2 ^ 56)) ++ toBytes 4 v) = .ok s3 →
    let i := takenSt c [1] fun n => { n with score := Tab.del n.score c.tag }
    canSend s3 i c.n c.nd c.tag out = true →
    execScoreReply iid node tag s = .next (endIfDone (sentFrom c s3 i out) c.iid) := by
  intro v out room read written i space
  refine matchFire_ok ctx (by rw [nodeCtx_s ctx]; exact clean) (by rw [nodeCtx_s ctx]; exact network) ((if_neg (not_not.mpr named)).trans ?_)
  rw [asked]
  refine (if_neg (by simp [right])).trans ((if_neg (by simpa using room)).trans ((readBind_of_ok read _).trans ((readBind_of_ok written _).trans ?_)))
  exact congrArg Except.ok (done_eq_sentFrom space)

/-! ### The obligation -/

/-- Settles O30: each node fires as the lemma above about its case says. -/
theorem matchNodesFire : Obligations.MatchNodesFire := by
  unfold Obligations.MatchNodesFire
  refine ⟨?left, ?right, ?reply⟩
  case left =>
    intro w s s1 s2 c net ctx clean network left plus v p t
    refine ⟨fun x => alpha_fires ctx network left plus, fun tts => memb_fires ctx network left plus,
      fun k s3 bs idle key probe => ⟨joinb_left (w := w) ctx network clean idle left plus key probe,
        negj_left (w := w) ctx network clean idle left plus key probe⟩,
      score_looks (w := w) ctx network clean left plus, fun e tts sc => term_fires ctx network left plus⟩
  case right =>
    exact fun w s s1 s2 s3 c net k bs ctx clean network idle noLeft right plus key probe =>
      ⟨joinb_right (w := w) ctx network clean idle noLeft right plus key probe,
        negj_right (w := w) ctx network clean idle noLeft right plus key probe⟩
  case reply => exact fun iid node tag idx s s2 s3 c net bs => execScoreReply_fires

end Sys2Proof.Machine
end

section
/-! PROOFS. Dot engines compute tile records (spec 15_tiles R299, R303 to R311). -/
open Sys2Proof Sys2Proof.Machine

namespace Sys2Proof.Machine

/-- A dense fallback counts, saturated, in the counter of its shard (R308). -/
def countFallback (eng : Nat) (o : DotOut) (s : State) : State :=
  if o.fallback then { s with eng := { s.eng with
    fallback := Tab.set s.eng.fallback 0 (coreShard (eng / 4)) (min (Tab.getD s.eng.fallback (coreShard (eng / 4)) 0 + 1) 0xffffffff) } } else s

/-- An engine that holds a record of its instruction, free to compute, holds the result after it (R299). -/
theorem runDot_computes {eng : Nat} {mine : Msg → Bool} {f : Tab Desc → Msg → State → Option (State × Comp)} {s s1 : State} {r : DotRun}
    {o : DotOut} (run : Tab.look s.eng.dots eng = some r) (own : mine r.msg = true) (pending : r.computed = false) (going : r.stop = none)
    (free : acqHeld r.msg s = false) (result : f r.descs r.msg (s.refreshTiles r.msg) = some (s1, .out o)) :
    runDot eng mine f s = .next ((countFallback eng o s1).putDot eng
      { r with out := chunksOf o.bytes, computed := true, flags := o.flags, doneWord := o.done }) := by
  unfold runDot
  rw [run]
  refine (if_neg (by simp [own, pending, going, free])).trans ?_
  rw [result]
  rfl

/-- A tile instruction runs its computation on the records of its TOP and, where FN chooses it, of its FN (R303). -/
def RunsRecords (e : (Nat → Instr) × Nat × Option Nat × (Tab Desc → Msg → State → Option (State × Comp))) : Prop :=
  ∃ mine : Msg → Bool, (∀ m : Msg, m.top = e.2.1 → (∀ n, e.2.2.1 = some n → m.tfn = n) → mine m = true) ∧
    ∀ (eng : Nat) (s : State), exec (e.1 eng) s = runDot eng mine e.2.2.2 s

theorem runsRecords_top {i : Nat → Instr} {top : Nat} {f : Tab Desc → Msg → State → Option (State × Comp)}
    (runs : ∀ eng s, exec (i eng) s = runDot eng (isTop top) f s) : RunsRecords (i, top, none, f) :=
  ⟨isTop top, fun _ named _ => decide_eq_true named, runs⟩

theorem runsRecords_fn {i : Nat → Instr} {top fn : Nat} {f : Tab Desc → Msg → State → Option (State × Comp)}
    (runs : ∀ eng s, exec (i eng) s = runDot eng (fun m => isTop top m && decide (m.tfn = fn)) f s) : RunsRecords (i, top, some fn, f) :=
  ⟨fun m => isTop top m && decide (m.tfn = fn), fun _ named chosen => by simp [isTop, named, chosen fn rfl], runs⟩

theorem tileInstrs_runRecords : ∀ e ∈ tileInstrs, RunsRecords e := by
  simp only [tileInstrs, List.forall_mem_cons]
  exact ⟨runsRecords_top fun _ _ => rfl, runsRecords_top fun _ _ => rfl, runsRecords_fn fun _ _ => rfl, runsRecords_fn fun _ _ => rfl,
    runsRecords_top fun _ _ => rfl, runsRecords_top fun _ _ => rfl, runsRecords_top fun _ _ => rfl, runsRecords_top fun _ _ => rfl,
    runsRecords_top fun _ _ => rfl, runsRecords_top fun _ _ => rfl, runsRecords_top fun _ _ => rfl, runsRecords_top fun _ _ => rfl,
    fun _ none => absurd none List.not_mem_nil⟩

/-- Settles O31: each tile instruction runs its computation on its engine, whose result is the engine's. -/
theorem tileInstructionsCompute : Obligations.TileInstructionsCompute := by
  unfold Obligations.TileInstructionsCompute
  intro e listed eng s s1 r o run named chosen pending going free result sh s2
  obtain ⟨mine, own, runs⟩ := tileInstrs_runRecords e listed
  rw [runs]
  exact runDot_computes run (own r.msg named chosen) pending going free result

end Sys2Proof.Machine
end

section
/-! PROOFS. The tile-task scheduler checks, issues and retires records (spec 15_tiles R292, R296 to R299, R312). -/
open Sys2Proof Sys2Proof.Machine

namespace Sys2Proof.Machine

/-! ### Checks (R298) -/

section
variable {shard k : Nat} {x : RSlot} {s : State} (oldest : (windowOf s shard).find? (fun e => !e.2.checked) = some (k, x))
include oldest

theorem execTileTaskCheck_passes (pass : recCheck s shard x.msg = none) :
    execTileTaskCheck shard s = .next (s.putRing shard { s.ring shard with slots := setAt (s.ring shard).slots k { x with checked := true } }) := by
  unfold execTileTaskCheck
  rw [oldest]
  dsimp only
  rw [pass]

theorem execTileTaskCheck_refuses {reason : Nat} (broken : recCheck s shard x.msg = some reason) :
    execTileTaskCheck shard s = .next (retireSlot shard k x.msg 3 reason 0 s) := by
  unfold execTileTaskCheck
  rw [oldest]
  dsimp only
  rw [broken]

end

/-! ### Issue (R292, R296) and RINGDEF of tiles and rings (R312) -/

section
variable {shard k : Nat} {m : Msg} {ds : Tab Desc} {s : State} (next : nextRec s shard = some (k, m, .ready ds))
include next

theorem execTileTaskIssue_starts {eng : Nat} (record : m.isRingdef = false) (suits : engSuits s shard m eng = true) :
    execTileTaskIssue shard eng s = .next (startRun eng m none ds ((leaveRing shard k (stampTop shard k m s)).mark (.issued shard))) := by
  unfold execTileTaskIssue
  rw [next]
  exact if_pos (by simp [record, suits])

theorem ringdefBy_applies {fn : Nat} {act : Msg → State → Nat ⊕ State} {done : Msg → Nat} {s1 : State} (ringdef : m.isRingdef = true)
    (form : m.tfn = fn) (acts : act m s = .inr s1) :
    ringdefBy fn act done shard s = .next ((retireSlot shard k m 0 0 (done m) (stampTop shard k m s1)).mark (.issued shard)) := by
  unfold ringdefBy
  rw [next]
  refine (if_pos (by simp [ringdef, form])).trans ?_
  rw [acts]

end

/-! ### RINGDEF.tasks (R312) -/

theorem execRingdefTasks_defines {shard : Nat} {m : Msg} {rest : List Msg} {s : State} (waits : (s.ring shard).next = m :: rest)
    (idle : ringIdle s shard = true) (fields : fieldsOk m = true) (prv : m.prv = true) :
    execRingdefTasks shard s = .next (replyTask m 0 0 1 (s.putRing shard ⟨w64 m.aux, m.ctxid, m.arg, 0, 0, [], rest⟩)) := by
  unfold execRingdefTasks
  dsimp only
  rw [waits]
  exact (if_neg (by simp [idle])).trans (if_pos (by simp [fields, prv]))

/-! ### Retirement (R297, R299) -/

theorem execTileTaskRetire_closes {eng st code done : Nat} {r : DotRun} {s : State} (run : Tab.look s.eng.dots eng = some r)
    (record : r.node = none) (ended : dotReply r = some (st, code, done)) :
    execTileTaskRetire eng s = .next (retireK r.msg (closeRun eng r st code done s)) := by
  unfold execTileTaskRetire
  rw [run]
  dsimp only
  rw [ended]
  dsimp only
  rw [record]

/-! ### The obligation -/

/-- Settles O33: each event of the scheduler has the effect of the lemma above about it. -/
theorem tileTasksAreScheduled : Obligations.TileTasksAreScheduled := by
  unfold Obligations.TileTasksAreScheduled
  refine ⟨fun shard k x s oldest => ⟨execTileTaskCheck_passes oldest, fun reason => execTileTaskCheck_refuses oldest⟩,
    fun shard k eng m ds s s1 next => ⟨execTileTaskIssue_starts next, ?tiles, ?ring⟩,
    fun shard m rest s => execRingdefTasks_defines, fun eng st code done r s => execTileTaskRetire_closes⟩
  case tiles => exact fun ringdef form => ringdefBy_applies next ringdef form
  case ring => exact fun ringdef form => ringdefBy_applies next ringdef form

end Sys2Proof.Machine
end

section
/-! PROOFS. Snapshots, drains and stalls of an invocation complete (spec 16_counters R318, 17_faults R334, R335). -/
open Sys2Proof Sys2Proof.Machine

namespace Sys2Proof.Machine

section
variable {iid : Nat} {s : State} {i : Inv} (lives : s.inv iid = some i)
include lives

/-! ### SNAP (R335) -/

section
variable (snap : i.phase = .snap)
include snap

theorem execSnapNodeSave_saves {n : Nat} {nd : Node} (found : Tab.look i.nodes n = some nd) (unsaved : (i.ct n).saved = false)
    (idle : dotRuns s iid (some n) = false) (marked : ∀ f ∈ forwardFields i n nd, f ∈ (i.ct n).marks) (room : markerRoom s iid n i = true) :
    execSnapNodeSave iid n s = .next (snapStep iid (markSaving iid [n] (s.putInv iid (saveNode iid n i)))) := by
  unfold execSnapNodeSave
  rw [lives]
  dsimp only
  rw [found]
  exact if_pos ⟨snap, unsaved, idle, room, by simpa using marked⟩

theorem execLinkTokenRecord_records {k : Nat} {l : Link} (moving : i.links[k]? = some l) (saved : (i.ct l.dst).saved = true)
    (data : l.tok.flg.mrk = false) (first : firstLink i k l = true) (late : arrivesNow s iid i l = false) :
    execLinkTokenRecord iid k s = .next (snapStep iid (s.putInv iid
      ({ i with links := dropAt i.links k, links2 := i.links2 ++ [l] }.give (sendKey i l.node l.which l.dst l.tok.tag)))) := by
  unfold execLinkTokenRecord
  rw [lives]
  dsimp only
  rw [moving]
  exact if_pos ⟨snap, saved, data, first, late⟩

theorem execSnapForcedSave_finishes (idle : idleFor s i (saveWindow i) = true) (free : dotRuns s iid none = false) :
    execSnapForcedSave iid s = .next (finishSave iid s) := by
  unfold execSnapForcedSave
  rw [lives]
  exact if_pos ⟨snap, idle, free⟩

end

/-! ### DRAIN (R334) -/

theorem execDrainComplete_finishes (drain : i.phase = .drain) (ended : drainEmpty i = true ∨ idleFor s i (saveWindow i) = true)
    (free : dotRuns s iid none = false) : execDrainComplete iid s = .next (finishSave iid s) := by
  unfold execDrainComplete
  rw [lives]
  exact if_pos ⟨drain, by simpa using ended, free⟩

/-! ### STALL (R318) -/

/-- A stalled region writes its stall words, and records once where it could not. -/
theorem execStallNoeos_dumps (stalled : stalledRegion s i = true) :
    let r := dumpStalls ⟨i.region.die, i.ctxid, i.owner, true, none⟩ i (i.region.dump.toNat + 65536) (i.nodes.map Prod.fst) s
    execStallNoeos iid s = .next (recElem (r.1.onInv iid fun i => { i with raised := true }) i i.region.router cSTALL
      (w64 (iid + b2n r.2 * 2 ^ 18))) := by
  unfold execStallNoeos
  rw [lives]
  exact if_pos stalled

end

/-! ### The obligation -/

/-- Settles O38: each event of a save or a stall has the effect of the lemma above about it. -/
theorem savesAndStallsComplete : Obligations.SavesAndStallsComplete := by
  unfold Obligations.SavesAndStallsComplete
  intro iid s i lives
  refine ⟨fun n nd found snap => execSnapNodeSave_saves lives snap found, fun k l moving snap => execLinkTokenRecord_records lives snap moving,
    execSnapForcedSave_finishes lives, execDrainComplete_finishes lives, execStallNoeos_dumps lives⟩

end Sys2Proof.Machine
end

section
/-! PROOFS. The region scheduler ages, expires, grants, pre-empts and restores (spec 17_faults R330 to R333, R337). -/
open Sys2Proof Sys2Proof.Machine

namespace Sys2Proof.Machine

/-! ### Requests age and quanta expire (R331, R333) -/

theorem execRequestAging_rises {die k : Nat} {s : State} {r : Request}
    (request : (s.fab.reqs.filter fun r => decide (r.die = die))[k]? = some r)
    (due : r.level - r.prio < s.since r.since / (16 * r.quant)) (below : r.level < 3) :
    execRequestAging die k s = .next { s with fab := { s.fab with
      reqs := s.fab.reqs.map fun q => if q = r then { q with level := q.level + 1 } else q } } := by
  unfold execRequestAging
  rw [request]
  exact if_pos ⟨due, below⟩

section
variable {iid : Nat} {s : State} {i : Inv} (lives : s.inv iid = some i) (runs : i.phase = .run) (free : i.cmd = none)
  (elapsed : i.region.quant ≤ s.since i.region.began)
include lives runs free elapsed

/-- With no request waiting on its die a region has a new quantum. -/
theorem execQuantumExpiry_renews (unasked : ∀ r ∈ s.fab.reqs, r.die ≠ i.region.die) :
    execQuantumExpiry iid s = .next (s.putInv iid { i with region := { i.region with began := s.gtsc, expired := false } }) := by
  unfold execQuantumExpiry
  rw [lives]
  refine (if_pos ⟨runs, free, elapsed⟩).trans ?_
  rw [if_neg (by simpa using unasked)]

theorem execQuantumExpiry_expires (asked : ∃ r ∈ s.fab.reqs, r.die = i.region.die) :
    execQuantumExpiry iid s = .next (s.putInv iid { i with region := { i.region with expired := true } }) := by
  unfold execQuantumExpiry
  rw [lives]
  refine (if_pos ⟨runs, free, elapsed⟩).trans ?_
  rw [if_pos (by simpa using asked)]

end

/-! ### The request served next (R330, R331, R337) -/

theorem execRegionGrant_grants {die : Nat} {s s1 : State} {r : Request} {m : Msg} (turn : served s die = some r) (command : r.msg = some m)
    (grant : grantMsg m r (dropReq s r) = some s1) : execRegionGrant die s = .next s1 := by
  unfold execRegionGrant
  rw [turn]
  dsimp only
  rw [command]
  dsimp only
  rw [grant]

theorem execSchedulerRestore_restores {iid x y k : Nat} {s : State} {i : Inv} {r : Request} (lives : s.inv iid = some i)
    (turn : served s (iid / 65536) = some r) (scheduler : r.msg = none) (own : r.iid = iid) (spot : spotOf s r = some (x, y))
    (slot : freeSlot s i.ctxid = some k) : execSchedulerRestore iid s = .next (restoreHeld r x y i (dropReq s r)) := by
  unfold execSchedulerRestore
  rw [lives]
  dsimp only
  rw [turn]
  refine (if_pos ⟨scheduler, own⟩).trans ?_
  rw [spot, slot]

/-! ### Pre-emption (R332) -/

/-- One region of a die is pre-empted at a time. -/
theorem execPreempt_preempts {die x y iid : Nat} {s : State} {r : Request} {rest : List Request} {i : Inv} (oldest : inOrder s die = r :: rest)
    (unfit : spotOf s r = none) (single : ∀ e ∈ s.fab.invs, e.2.saver = .scheduler → e.2.region.die ≠ die)
    (origin : preemptOrigin s r = some (x, y))
    (victim : firstVictim ((regionsOn s die).filter fun e => overlap e.2.region x y r.w r.h) = some (iid, i)) :
    execPreempt die s = .next (preemptInv iid i s) := by
  unfold execPreempt
  rw [oldest]
  refine (if_neg (by simpa [unfit] using single)).trans ?_
  rw [origin]
  dsimp only
  rw [victim]

/-! ### The obligation -/

/-- Settles O39: each event of the scheduler has the effect of the lemma above about it. -/
theorem schedulerEventsComplete : Obligations.SchedulerEventsComplete := by
  unfold Obligations.SchedulerEventsComplete
  exact ⟨fun die k s r => execRequestAging_rises,
    fun iid s i lives runs free elapsed => ⟨execQuantumExpiry_renews lives runs free elapsed, execQuantumExpiry_expires lives runs free elapsed⟩,
    fun die s s1 r m => execRegionGrant_grants, fun die s r rest x y iid i => execPreempt_preempts,
    fun iid s i r x y k => execSchedulerRestore_restores⟩

end Sys2Proof.Machine
end

section
/-! PROOFS. The aperture, peers and timed-out host reads (spec 18_outside R351 to R353). -/
open Sys2Proof Sys2Proof.Machine

namespace Sys2Proof.Machine

/-! ### The aperture (R351) -/

section
variable {s : State} {fnc off : Nat} (page : fnc < 17)
include page

theorem execHostApertureRead_answers {s1 : State} {len : Nat} {pas : List Nat} (within : off + len ≤ 64 * gib)
    (reach : reachVa s (apertureWho s fnc) (apertureVa s fnc off) len = .ok (s1, pas)) :
    execHostApertureRead fnc off len s = .next (s1.answer (.data (pas.map s1.mem.rd) (pas.any s1.mem.bad))) := by
  refine (if_neg (by omega)).trans ?_
  rw [reach]

section
variable {data : List Byte} (within : off + data.length ≤ 64 * gib)
include within

theorem execHostApertureWrite_writes {s1 : State} (written : writeVa s (apertureWho s fnc) none (apertureVa s fnc off) data = .ok s1) :
    execHostApertureWrite fnc off data s = .next s1 := by
  refine (if_neg (by omega)).trans ?_
  rw [written]

/-- A write that fails is dropped, counted and logged. -/
theorem execHostApertureWrite_fails {k : XKind} {a : Nat}
    (failed : writeVa s (apertureWho s fnc) none (apertureVa s fnc off) data = .error (k, a)) :
    execHostApertureWrite fnc off data s = .next (apertureFail fnc (pageValue k .write a) s) := by
  refine (if_neg (by omega)).trans ?_
  rw [failed]

end

end

/-! ### Peers (R353) -/

theorem execPeerRequest_acts {s : State} {r : PeerReq} (own : s.mem.kind (peerPa r) = .lp6 ∨ s.mem.kind (peerPa r) = .pool) :
    execPeerRequest r s = .next (peerAct r s) := if_pos own

/-- Of a line without poison an exchange answers the old bytes. -/
theorem peerRmw_answers {s : State} {pa : Nat} (n : Nat) (f : Nat → State) (clean : s.mem.bad pa = false) :
    let u := s.refresh (upto pa n)
    peerRmw s pa n f = (f (u.mem.word pa n)).answer (.data (u.mem.rds pa n) false) :=
  if_neg (by rw [refresh_bad, clean]; exact Bool.false_ne_true)

/-- No rule says what a peer gets at any other address (log 71). -/
theorem execPeerRequest_stops {s : State} {r : PeerReq} (noMemory : s.mem.kind (peerPa r) ≠ .lp6) (noPool : s.mem.kind (peerPa r) ≠ .pool) :
    execPeerRequest r s = .fault (.reservedAddress (peerPa r)) := if_neg (not_or.mpr ⟨noMemory, noPool⟩)

/-! ### Reads that time out (R352, R353) -/

theorem execHostReadTimeout_poisons {s : State} {tid k : Nat} {e : Pend} (outstanding : (s.th tid).pend[k]? = some e)
    (load : e.kind.isL = true) (pending : e.done = false) (away : ∃ p ∈ e.pas, s.mem.kind p = .host ∨ s.mem.kind p = .peer) :
    execHostReadTimeout tid k s = .next (retire tid (setPend s tid k { e with done := true, poison := true })) := by
  unfold execHostReadTimeout
  rw [outstanding]
  exact if_pos (by simpa [load, pending] using away)

/-! ### The obligation -/

/-- Settles O44: each access from outside has the effect of the lemma above about it. -/
theorem outsideAccessesComplete : Obligations.OutsideAccessesComplete := by
  unfold Obligations.OutsideAccessesComplete
  refine ⟨fun s s1 fnc off len pas page => execHostApertureRead_answers page,
    fun s s1 fnc off data page within => execHostApertureWrite_writes page within,
    fun s fnc off a data k page within => execHostApertureWrite_fails page within, fun s fnc off => rfl,
    fun s pa n bs own => ⟨?read, ?write, fun clean fn x => ?atom⟩, fun s r => execPeerRequest_stops,
    fun s tid k e => execHostReadTimeout_poisons⟩
  case read => exact execPeerRequest_acts (r := .read pa n) own
  case write => exact execPeerRequest_acts (r := .write pa bs) own
  case atom =>
    intro u
    rw [exec_peerRequest, execPeerRequest_acts (r := .atom fn pa x) own, peerAct, peerRmw_answers _ _ clean]

end Sys2Proof.Machine
end

section
/-! PROOFS. The event log, measurements, key slots and the debug port (spec 19_wellhead R366 to R370). -/
open Sys2Proof Sys2Proof.Machine

namespace Sys2Proof.Machine

/-! ### The firmware's answers (R366, R367, R370) -/

/-- While reserved indices are left, none are reserved (R367). -/
theorem reserveIndex_of_left {w : Wellhead} (left : w.nextSig < w.endSig) : reserveIndex w = w := if_pos left

section
variable {s : State} (firmware : s.firmware = true)
include firmware

/-- The management port needs no kernel (R366). -/
theorem execEventLogRead_answers : execEventLogRead false s = .next (s.answer (.data (s.well.log.flatMap logBytes) false)) := by
  rw [execEventLogRead, if_pos (by simp [firmware])]

theorem execAttestationReport_signs {nonce : List Byte} (sized : nonce.length = 32) (more : s.well.nextSig < 2 ^ 40)
    (left : s.well.nextSig < s.well.endSig) :
    let body := reportBytes s.well nonce
    execAttestationReport nonce s = .next (({ s with well := { s.well with nextSig := s.well.nextSig + 1 } } : State).answer
      (.data (body ++ Config.sign s.well.nextSig body) false)) := by
  refine (if_neg (by simpa [firmware, sized] using more)).trans ?_
  rw [reserveIndex_of_left left]
  rfl

theorem execDebugNonceRequest_issues {nonce : List Byte} (sized : nonce.length = 32) :
    execDebugNonceRequest nonce s =
      .next (({ s with well := { s.well with nonce := some nonce } } : State).answer (.data nonce false)) := by
  rw [execDebugNonceRequest, if_pos (by simp [firmware, sized])]
  rfl

end

/-! ### The kernel's mailbox: measurements and key slots (R368, R369) -/

section
variable {s : State} (mailbox : s.mailbox = true)
include mailbox

theorem execMeasurementExtend_extends {reg : Nat} {d : List Byte} (kernels : reg = 5 ∨ reg = 6) (sized : d.length = 32) :
    execMeasurementExtend reg d s = .next { s with well := extendMx reg d s.well } := by
  rw [execMeasurementExtend, if_pos (by simp [mailbox, kernels, sized])]
  rfl

theorem execKeySlotWrite_writes {slot owner : Nat} {key : List Byte} (within : slot < 64) (sized : key.length = 32) :
    execKeySlotWrite slot owner key s = .next { s with well := { s.well with keys := Tab.put s.well.keys slot ⟨owner, key⟩ } } := by
  rw [execKeySlotWrite, if_pos (by simp [mailbox, within, sized])]
  rfl

theorem execKeySlotRead_answers {slot : Nat} {k : KeySlot} (written : Tab.look s.well.keys slot = some k) :
    execKeySlotRead slot k.owner s = .next (s.answer (.data k.key (slotBad s slot))) := by
  unfold execKeySlotRead
  rw [written]
  dsimp only
  rw [if_pos (by simp [mailbox])]

theorem execKeySlotClear_clears {slot : Nat} :
    execKeySlotClear slot s = .next { s with well := { s.well with keys := Tab.del s.well.keys slot } } := by
  rw [execKeySlotClear, if_pos mailbox]
  rfl

end

/-- A key is read by its owner alone (R369). -/
theorem execKeySlotRead_refuses {s : State} {slot other : Nat} {k : KeySlot} (written : Tab.look s.well.keys slot = some k)
    (foreign : other ≠ k.owner) : execKeySlotRead slot other s = .next (s.answer .refused) := by
  unfold execKeySlotRead
  rw [written]
  dsimp only
  rw [if_neg (by simp [foreign.symm])]

/-! ### The debug port opens and closes (R370) -/

section
variable {s : State} {token : List Byte} (firmware : s.firmware = true)
include firmware

/-- A good token wipes the key slots, closes every handle and extends mx7 before the port opens. -/
theorem execDebugUnlock_opens {level expiry : Nat} (good : tokenOk s token = some (level, expiry)) :
    let s1 := closeAll (clearWellLines { s with well := { s.well with nonce := none, keys := [] } })
    execDebugUnlock token s =
      .next (logOpen 0x07 level expiry { s1 with well := { extendMx 7 (sha256 token) s1.well with debug := some (level, expiry) } }) := by
  refine (if_neg (by simp [firmware])).trans ?_
  rw [good]
  rfl

theorem execDebugUnlock_refuses (bad : tokenOk s token = none) :
    execDebugUnlock token s = .next (({ s with well := { s.well with nonce := none } } : State).answer .refused) := by
  refine (if_neg (by simp [firmware])).trans ?_
  rw [bad]
  rfl

end

theorem execDebugExpiry_closes {s : State} {l e : Nat} (opened : s.well.debug = some (l, e)) (passed : e < s.gtsc) :
    execDebugExpiry s = .next { s with well := { s.well with debug := none, halted := [], stepping := none, breaks := [] } } := by
  unfold execDebugExpiry
  rw [opened]
  dsimp only
  rw [if_pos passed]
  rfl

/-! ### Accesses through the debug port (R370) -/

theorem execDebugPortAccess_refuses {s : State} {r : DebugReq} (low : debugLevel s < debugNeeds r) :
    execDebugPortAccess r s = .next (s.answer .refused) := if_pos low

section
variable {s : State} (r : DebugReq) (level : debugNeeds r ≤ debugLevel s)
include level

theorem execDebugPortAccess_reads {bs : List Byte} {ep : Bool} (found : debugRead s r = some (bs, ep)) :
    execDebugPortAccess r s = .next (s.answer (.data bs ep)) := by
  refine (if_neg (Nat.not_lt.mpr level)).trans ?_
  rw [found]

section
variable (noRead : debugRead s r = none)
include noRead

theorem execDebugPortAccess_acts {s1 : State} (acts : debugAct s r = some s1) : execDebugPortAccess r s = .next s1 := by
  refine (if_neg (Nat.not_lt.mpr level)).trans ?_
  rw [noRead, acts]

/-- What names an address that is no memory of this package stops the model (log 71). -/
theorem execDebugPortAccess_stops {pa : Nat} (noAct : debugAct s r = none) (named : debugPa r = some pa) :
    execDebugPortAccess r s = .fault (.reservedAddress pa) := by
  refine (if_neg (Nat.not_lt.mpr level)).trans ?_
  rw [noRead, noAct, named]

end

end

section
variable {s : State} (level : 1 ≤ debugLevel s)
include level

theorem debugPort_readsThread {tid : Nat} (thread : tid < 1024) :
    execDebugPortAccess (.readThread tid) s = .next (s.answer (.data (ctxBytes s tid 0) false)) :=
  execDebugPortAccess_reads (.readThread tid) level (if_pos thread)

theorem debugPort_readsMem {pa n : Nat} (own : ownMem s pa = true) :
    execDebugPortAccess (.readMem pa n) s = .next (s.answer (.data ((s.refresh (upto pa n)).mem.rds pa n) (s.mem.bads pa n))) :=
  execDebugPortAccess_reads (.readMem pa n) level (if_pos own)

theorem debugPort_stopsElsewhere {pa n : Nat} (other : ownMem s pa = false) :
    execDebugPortAccess (.readMem pa n) s = .fault (.reservedAddress pa) :=
  execDebugPortAccess_stops (.readMem pa n) level (if_neg (Bool.eq_false_iff.mp other)) rfl rfl

end

section
variable {s : State} (level : 2 ≤ debugLevel s)
include level

theorem debugPort_halts {shard : Nat} (within : shard < 128) :
    execDebugPortAccess (.halt shard) s =
      .next { s with well := { s.well with halted := shard :: s.well.halted.filter fun x => decide (x ≠ shard) } } :=
  execDebugPortAccess_acts (.halt shard) level rfl (if_pos within)

theorem debugPort_steps {tid : Nat} (held : shardOf tid ∈ s.well.halted) :
    execDebugPortAccess (.step tid) s = .next (stepThread tid s) :=
  execDebugPortAccess_acts (.step tid) level rfl (if_pos held)

theorem debugPort_releases {shard : Nat} :
    execDebugPortAccess (.release shard) s = .next { s with well := { s.well with halted := s.well.halted.filter fun x => decide (x ≠ shard) } } :=
  execDebugPortAccess_acts (.release shard) level rfl rfl

end

section
variable {s : State} (level : 3 ≤ debugLevel s)
include level

theorem debugPort_writesMem {pa : Nat} {bs : List Byte} (own : ownMem s pa = true) :
    execDebugPortAccess (.writeMem pa bs) s = .next (homeWrite s none pa bs) :=
  execDebugPortAccess_acts (.writeMem pa bs) level rfl (if_pos own)

/-- Flash is written anywhere but in its reserved area (R361). -/
theorem debugPort_writesFlash {off : Nat} {v : Byte} (within : off < flashEnd) (free : ¬(flashReserved ≤ off ∧ off < flashLog)) :
    execDebugPortAccess (.writeFlash off v) s = .next { s with well := flashPut off v s.well } :=
  execDebugPortAccess_acts (.writeFlash off v) level rfl (if_pos ⟨within, free⟩)

theorem debugPort_writesClock {mhz : Nat} :
    execDebugPortAccess (.writeClock mhz) s = .next { s with well := { s.well with mhz := mhz } } :=
  execDebugPortAccess_acts (.writeClock mhz) level rfl rfl

end

/-! ### The obligation -/

/-- Settles O47: each event of the Wellhead has the effect of the lemma above about it. -/
theorem securityEventsComplete : Obligations.SecurityEventsComplete := by
  unfold Obligations.SecurityEventsComplete
  intro s
  refine ⟨execEventLogRead_answers, fun nonce firmware => execAttestationReport_signs firmware,
    fun reg d mailbox => execMeasurementExtend_extends mailbox, fun slot owner key mailbox => execKeySlotWrite_writes mailbox,
    fun slot k mailbox written => ?read, fun slot mailbox => execKeySlotClear_clears mailbox,
    fun nonce firmware => execDebugNonceRequest_issues firmware, fun token firmware => ?unlock, fun l e => execDebugExpiry_closes,
    fun r => execDebugPortAccess_refuses, fun level => ⟨fun tid => debugPort_readsThread level, fun pa n => ?memory⟩,
    fun level => ⟨fun shard => debugPort_halts level, fun tid => debugPort_steps level, fun shard => debugPort_releases level⟩,
    fun level => ⟨fun pa bs => debugPort_writesMem level, fun off v => debugPort_writesFlash level, fun mhz => debugPort_writesClock level⟩⟩
  case read => exact ⟨execKeySlotRead_answers mailbox written, fun other => execKeySlotRead_refuses written⟩
  case unlock =>
    split
    case h_1 l e good => exact execDebugUnlock_opens firmware good
    case h_2 bad => exact execDebugUnlock_refuses firmware bad
  case memory => exact ⟨debugPort_readsMem level, debugPort_stopsElsewhere level⟩

end Sys2Proof.Machine
end

section
/-! PROOFS. Memory stays canonical: what the results of the model may hold (spec 08_memories R103, R136). -/
open Sys2Proof Sys2Proof.Machine

namespace Sys2Proof.Machine

/-! ### What a result may hold

Memory is written by the operations of Laws/Memory alone, each of which keeps the canonical form. So each function of the model
that answers a state has a lemma `inv_<function>`: from a canonical state it answers canonical ones, its branches taken one by one.
A function that leaves `State.mem` as it stands needs none: the canonical form of what it answers is by definition that of its
argument. -/

/-- The state of a pair is canonical. -/
def FstInv {α : Type} (r : State × α) : Prop := r.1.Inv

/-- `P` holds of what a computation answers, where it answers. -/
def OkAll {ε α : Type} (P : α → Prop) : Except ε α → Prop
  | .ok a => P a
  | .error _ => True

/-- `P` holds of what an option holds. -/
def SomeAll {α : Type} (P : α → Prop) : Option α → Prop
  | some a => P a
  | none => True

/-- The next state of an outcome is canonical, where there is one. -/
def NextInv : Out → Prop
  | .next t => t.Inv
  | _ => True

theorem FstInv.fst {α : Type} {r : State × α} {s : State} {a : α} (k : FstInv r) (e : r = (s, a)) : s.Inv := by
  rw [e] at k
  exact k

theorem OkAll.ok {ε α : Type} {P : α → Prop} {x : Except ε α} {a : α} (k : OkAll P x) (e : x = .ok a) : P a := by
  rw [e] at k
  exact k

theorem SomeAll.some {α : Type} {P : α → Prop} {x : Option α} {a : α} (k : SomeAll P x) (e : x = .some a) : P a := by
  rw [e] at k
  exact k

theorem NextInv.next {o : Out} {t : State} (k : NextInv o) (e : o = .next t) : t.Inv := by
  rw [e] at k
  exact k

/-! The same with the equation first, so that it fixes which computation answered. -/

theorem inv_of_ok {ε : Type} {x : Except ε State} {s : State} (e : x = .ok s) (k : OkAll State.Inv x) : s.Inv := k.ok e

theorem inv_of_okPair {ε α : Type} {x : Except ε (State × α)} {s : State} {a : α} (e : x = .ok (s, a)) (k : OkAll FstInv x) : s.Inv :=
  k.ok e

theorem inv_of_some {x : Option State} {s : State} (e : x = .some s) (k : SomeAll State.Inv x) : s.Inv := k.some e

theorem inv_of_somePair {α : Type} {x : Option (State × α)} {s : State} {a : α} (e : x = .some (s, a)) (k : SomeAll FstInv x) : s.Inv :=
  k.some e

theorem inv_of_pair {α : Type} {x : State × α} {s : State} {a : α} (e : x = (s, a)) (k : FstInv x) : s.Inv := k.fst e

theorem okAll_intro {ε α : Type} {P : α → Prop} {x : Except ε α} (k : ∀ a, x = .ok a → P a) : OkAll P x := by
  cases x with
  | ok a => exact k a rfl
  | error e => trivial

theorem someAll_intro {α : Type} {P : α → Prop} {x : Option α} (k : ∀ a, x = .some a → P a) : SomeAll P x := by
  cases x with
  | some a => exact k a rfl
  | none => trivial

theorem okAll_bind {ε α β : Type} {Q : α → Prop} {P : β → Prop} {x : Except ε α} {f : α → Except ε β} (k : OkAll Q x)
    (l : ∀ a, Q a → OkAll P (f a)) : OkAll P (x >>= f) :=
  okAll_intro fun _ e => by
    obtain ⟨a, hx, hf⟩ := except_bind_ok e
    exact (l a (k.ok hx)).ok hf

/-- A check or a reading says nothing about the state. -/
theorem okAll_then {ε α β : Type} {P : β → Prop} {x : Except ε α} {f : α → Except ε β} (l : ∀ a, OkAll P (f a)) : OkAll P (x >>= f) :=
  okAll_bind (Q := fun _ => True) (okAll_intro fun _ _ => trivial) fun a _ => l a

theorem someAll_bind {α β : Type} {Q : α → Prop} {P : β → Prop} {x : Option α} {f : α → Option β} (k : SomeAll Q x)
    (l : ∀ a, Q a → SomeAll P (f a)) : SomeAll P (x >>= f) := by
  cases x with
  | some a => exact l a k
  | none => trivial

theorem someAll_then {α β : Type} {P : β → Prop} {x : Option α} {f : α → Option β} (l : ∀ a, SomeAll P (f a)) : SomeAll P (x >>= f) :=
  someAll_bind (Q := fun _ => True) (someAll_intro fun _ _ => trivial) fun a _ => l a

theorem someAll_map {α β : Type} {Q : α → Prop} {P : β → Prop} {x : Option α} {f : α → β} (k : SomeAll Q x) (l : ∀ a, Q a → P (f a)) :
    SomeAll P (x.map f) := by
  cases x with
  | some a => exact l a k
  | none => trivial

/-- What a check answers is no state. -/
theorem okAll_map {ε α β : Type} {P : β → Prop} {x : Except ε α} {f : α → β} (l : ∀ a, P (f a)) : OkAll P (x.map f) := by
  cases x with
  | ok a => exact l a
  | error e => trivial

theorem inv_getD {o : Option State} {s : State} (k : SomeAll State.Inv o) (h : s.Inv) : (o.getD s).Inv := by
  cases o with
  | some t => exact k
  | none => exact h

/-- A fold keeps the form when every step of it does. -/
theorem inv_foldl {α : Type} {f : State → α → State} {xs : List α} {s : State} (step : ∀ s a, s.Inv → (f s a).Inv) (h : s.Inv) :
    (xs.foldl f s).Inv :=
  foldl_keeps step xs h

theorem inv_of_mem {s t : State} (e : t.mem = s.mem) (h : s.Inv) : t.Inv := by
  unfold State.Inv
  rw [e]
  exact h

theorem inv_of_bytes {s t : State} (e : t.mem.bytes = s.mem.bytes) (h : s.Inv) : t.Inv := wf_of_bytes e h

/-! ### The operations of memory, and the frames of words, in these terms -/

theorem inv_refresh {s : State} {pas : List Nat} (h : s.Inv) : (s.refresh pas).Inv := wf_refresh pas h

theorem inv_bring {s : State} {pas : List Nat} (h : s.Inv) : (s.bring pas).Inv := wf_of_bytes (bring_bytes s pas) h

theorem inv_returnReservations {s : State} {ds : List Delta} (h : s.Inv) : (returnReservations s ds).Inv :=
  inv_of_mem (returnReservations_mem ds s) h

theorem inv_homeWriteUnc {s : State} {w : Option Nat} {unc : List Nat} {pa : Nat} {bs : List Byte} (h : s.Inv) :
    (homeWriteUnc s w unc pa bs).Inv :=
  wf_homeWriteUnc w unc pa bs h

theorem inv_homeWrite {s : State} {w : Option Nat} {pa : Nat} {bs : List Byte} (h : s.Inv) : (homeWrite s w pa bs).Inv :=
  wf_homeWrite w pa bs h

theorem inv_writeRunsUnc {s : State} {w : Option Nat} {unc pas : List Nat} {bs : List Byte} (h : s.Inv) :
    (writeRunsUnc s w unc pas bs).Inv :=
  wf_writeRunsUnc w unc pas bs h

theorem inv_walkOnce {s : State} {who : Who} {acc : Acc} {va : Nat} (h : s.Inv) : OkAll FstInv (walkOnce s who acc va) :=
  okAll_intro fun _ e => wf_walkOnce e h

theorem inv_translate {s : State} {who : Who} {acc : Acc} {va : Nat} (h : s.Inv) : OkAll FstInv (translate s who acc va) :=
  okAll_intro fun _ e => wf_translate e h

theorem inv_translatesX {s : State} {who : Who} {acc : Acc} {va n : Nat} (h : s.Inv) : OkAll FstInv (translatesX s who acc va n) :=
  okAll_intro fun _ e => wf_translatesX n e h

theorem inv_writeVa {s : State} {who : Who} {w : Option Nat} {va : Nat} {bs : List Byte} (h : s.Inv) :
    OkAll State.Inv (writeVa s who w va bs) :=
  okAll_intro fun _ e => wf_writeVa e h

theorem inv_reachVa {s : State} {who : Who} {va n : Nat} (h : s.Inv) : OkAll FstInv (reachVa s who va n) :=
  okAll_intro fun _ e => wf_reachVa e h

theorem inv_readVa {s : State} {who : Who} {va n : Nat} (h : s.Inv) : OkAll FstInv (readVa s who va n) :=
  okAll_intro fun _ e => wf_readVa e h

theorem inv_recThread {s : State} {tid src code kind loc : Nat} {v : W} (h : s.Inv) : (s.recThread tid src code kind loc v).Inv :=
  wf_recThread tid src code kind loc v h

theorem inv_retire {tid : Nat} {s : State} (h : s.Inv) : (retire tid s).Inv := inv_of_mem (retire_mem tid s) h

/-- A word that runs its body answers what the body answers; one that stalls, traps or is skipped leaves memory alone. -/
theorem inv_runBody {past : Bool} {pg : BitVec 4} {srcs dsts : List Spec} {body : Body} {s : State} (h : s.Inv)
    (k : OkAll State.Inv (body s)) : NextInv (runBody past pg srcs dsts body s) := by
  cases e : runBody past pg srcs dsts body s with
  | next t =>
    obtain rfl | ⟨c, v, rfl⟩ | ⟨c, rfl⟩ | ⟨w, rfl⟩ | ⟨-, s1, hb, rfl⟩ := runBody_cases e
    · exact h
    · exact h
    · exact h
    · exact h
    · have h1 := k.ok hb
      cases past <;> exact h1
  | fault f => trivial
  | refused r => trivial

theorem inv_issue {pg : BitVec 4} {srcs dsts : List Spec} {body : Body} {s : State} (h : s.Inv) (k : OkAll State.Inv (body s)) :
    NextInv (issue pg srcs dsts body s) :=
  inv_runBody h k

theorem inv_issueJump {pg : BitVec 4} {srcs dsts : List Spec} {body : Body} {s : State} (h : s.Inv) (k : OkAll State.Inv (body s)) :
    NextInv (issueJump pg srcs dsts body s) :=
  inv_runBody h k

end Sys2Proof.Machine
end

section
/-! PROOFS. Homes, poison and translation keep memory canonical (spec 08_memories R137 to R158). -/
open Sys2Proof Sys2Proof.Machine

namespace Sys2Proof.Machine

variable {s : State}

theorem inv_onInv {iid : Nat} {f : Inv → Inv} (h : s.Inv) : (s.onInv iid f).Inv := by
  unfold State.onInv
  split <;> exact h

theorem inv_writeRuns {writer : Option Nat} {pas : List Nat} {bs : List Byte} (h : s.Inv) : (writeRuns s writer pas bs).Inv :=
  inv_writeRunsUnc h

theorem inv_translates {who : Who} {acc : Acc} {va n : Nat} (h : s.Inv) : OkAll FstInv (translates s who acc va n) := by
  unfold translates
  split
  · exact trivial
  · rename_i e
    exact inv_of_okPair e (inv_translatesX h)

theorem inv_logEvent {code v : Nat} (h : s.Inv) : (s.logEvent code v).Inv := h

end Sys2Proof.Machine
end

section
/-! PROOFS. Queues, destinations and words that compute a value keep memory canonical (spec 04_registers R73, 05_integer R85 to R96). -/
open Sys2Proof Sys2Proof.Machine

namespace Sys2Proof.Machine

variable {s : State}

theorem inv_active {iid : Nat} (h : s.Inv) : (s.active iid).Inv := inv_onInv h

theorem inv_markQueued {iid node d : Nat} {old : List Tok} (h : s.Inv) : (markQueued s iid node d old).Inv := by
  unfold markQueued
  split <;> exact h

theorem inv_qDeq {sp : Spec} (h : s.Inv) : (qDeq s sp).Inv := by
  unfold qDeq
  split
  · exact h
  · split
    · exact h
    · split
      · exact h
      · dsimp only
        split <;> exact h

theorem inv_qReserve {sp : Spec} (h : s.Inv) : (qReserve s sp).Inv := by
  unfold qReserve
  split
  · exact h
  · exact inv_onInv h

theorem inv_qPut {tid : Nat} {sp : Spec} {v : W} (h : s.Inv) : (qPut s tid sp v).Inv := by
  unfold qPut
  split
  · exact h
  · split
    · exact h
    · exact inv_markQueued h

theorem inv_deqAll {sps : List Spec} (h : s.Inv) : (deqAll sps s).Inv := by
  unfold deqAll
  split
  · exact h
  · exact inv_foldl (fun _ _ h1 => inv_qDeq h1) h

theorem inv_putV {d : Spec} {v : W} (h : s.Inv) : OkAll State.Inv (putV d v s) := by
  unfold putV
  split
  · split
    · exact inv_qPut (inv_qReserve h)
    · exact trivial
    · exact trivial
  · exact h

theorem inv_computeT3 {f : Pure3} {useC : Bool} {x : T3} (h : s.Inv) : NextInv (computeT3 f useC x s) := by
  unfold computeT3
  refine inv_issue h (okAll_then fun _ => okAll_then fun _ => okAll_then fun _ => ?_)
  dsimp only
  split <;> exact okAll_then fun _ => okAll_bind (inv_putV (inv_deqAll h)) fun _ h1 => h1

theorem inv_computeTI {f : Nat → Nat → W → W × Nat} {x : TI} (h : s.Inv) : NextInv (computeTI f x s) :=
  inv_issue h (okAll_then fun _ => okAll_then fun _ => okAll_bind (inv_putV (inv_deqAll h)) fun _ h1 => h1)

theorem inv_compareT3 {f : Nat → Nat → Nat → W → W → Bool × Nat} {x : T3} (h : s.Inv) : NextInv (compareT3 f x s) :=
  inv_issue h (okAll_then fun _ => okAll_then fun _ => okAll_then fun _ => inv_deqAll h)

theorem inv_execBfi {x : TI} (h : s.Inv) : NextInv (execBfi x s) :=
  inv_issue h (okAll_then fun _ => okAll_then fun _ => okAll_bind (inv_putV (inv_deqAll h)) fun _ h1 => h1)

end Sys2Proof.Machine
end

section
/-! PROOFS. Outstanding accesses keep memory canonical (spec 09_memory_ops R165 to R175, 10_ordering R189, R190). -/
open Sys2Proof Sys2Proof.Machine

namespace Sys2Proof.Machine

variable {s : State}

theorem inv_arrive {writer : Option Nat} {pa : Nat} (h : s.Inv) : (arrive s writer pa).Inv := by
  unfold arrive
  dsimp only
  split
  · exact inv_homeWrite (inv_homeWrite h)
  · exact inv_homeWrite h

theorem inv_noteRead {tid : Nat} {unc pas : List Nat} (h : s.Inv) : (noteRead s tid unc pas).Inv := by
  unfold noteRead
  dsimp only
  split <;> exact inv_bring h

theorem inv_writeAs {tid : Nat} {unc : List Nat} {pa : Nat} {bs : List Byte} (h : s.Inv) : (writeAs s tid unc pa bs).Inv := by
  unfold writeAs
  split
  · exact h
  · exact inv_homeWriteUnc h

theorem inv_writeEach {tid : Nat} {unc pas : List Nat} {bs : List Byte} (h : s.Inv) : (writeEach s tid unc pas bs).Inv :=
  inv_foldl (fun _ _ h1 => inv_writeAs h1) h

theorem inv_put {e : Pend} {tid pa : Nat} {bs : List Byte} (h : s.Inv) : (e.put s tid pa bs).Inv := inv_homeWriteUnc h

theorem inv_performRmw {tid : Nat} {e : Pend} {pa : Nat} (h : s.Inv) : FstInv (performRmw s tid e pa) := by
  unfold performRmw
  dsimp only
  split
  · split
    · exact inv_put (inv_bring h)
    · exact inv_bring h
  · exact inv_arrive (inv_bring h)
  · split <;> exact inv_put (inv_bring h)
  · exact inv_put (inv_bring h)

theorem inv_earlyRead {tid : Nat} {pas : List Nat} {bs : List Byte} (h : s.Inv) : FstInv (earlyRead s tid pas bs) := by
  unfold earlyRead
  dsimp only
  split
  · exact h
  · split <;> exact h

theorem inv_performLoad {tid : Nat} {e : Pend} (h : s.Inv) : FstInv (performLoad s tid e) := by
  unfold performLoad
  split
  · dsimp only
    split
    · exact inv_noteRead h
    · exact inv_earlyRead (inv_noteRead h)
  · dsimp only
    split <;> exact inv_noteRead h
  · exact h
  · exact inv_performRmw h
  · exact h

theorem inv_performStore {tid : Nat} {e : Pend} (h : s.Inv) : FstInv (performStore s tid e) := by
  unfold performStore
  split
  · split
    · exact inv_writeAs h
    · exact h
  · split
    · exact inv_put h
    · exact h
  · dsimp only
    split
    · exact h
    · split
      · refine inv_put ?_
        split <;> exact h
      · refine inv_put ?_
        split <;> exact h
  · dsimp only
    split
    · exact h
    · split
      · refine inv_put ?_
        split <;> exact h
      · refine inv_put ?_
        split <;> exact h
  · dsimp only
    split
    · exact inv_put h
    · exact h
  · exact inv_writeEach h
  · exact h

theorem inv_execLoadComplete {tid i : Nat} (h : s.Inv) : NextInv (execLoadComplete tid i s) := by
  unfold execLoadComplete
  split
  · split
    · exact inv_retire (inv_performLoad h)
    · exact h
  · exact h

theorem inv_execStoreRetire {tid i : Nat} (h : s.Inv) : NextInv (execStoreRetire tid i s) := by
  unfold execStoreRetire
  split
  · split
    · exact inv_retire (inv_performStore h)
    · exact h
  · exact h

theorem inv_execBarrierArrival {i : Nat} (h : s.Inv) : NextInv (execBarrierArrival i s) := by
  unfold execBarrierArrival
  split
  · exact h
  · dsimp only
    split
    · dsimp only
      split
      · exact h
      · exact inv_retire (inv_arrive h)
    · dsimp only
      split
      · exact h
      · exact inv_arrive h

theorem inv_reads {x : Xl} {n : Nat} (h : s.Inv) : (s.reads x n).Inv := by
  unfold State.reads
  refine inv_refresh ?_
  split
  · exact inv_bring h
  · exact h

theorem inv_xlate {acc : Acc} {va n : Nat} (h : s.Inv) : OkAll FstInv (xlate acc va n s) := by
  unfold xlate
  refine okAll_then fun _ => ?_
  split
  · exact trivial
  · split
    · exact trivial
    · rename_i e
      exact (inv_translate h).ok e

theorem inv_xlatesX {acc : Acc} {va n : Nat} (h : s.Inv) : OkAll FstInv (xlatesX acc va n s) := by
  unfold xlatesX
  split
  · exact trivial
  · split
    · exact trivial
    · rename_i e
      exact (inv_translatesX h).ok e

theorem inv_xlates {acc : Acc} {va n : Nat} (h : s.Inv) : OkAll FstInv (xlates acc va n s) := by
  unfold xlates
  split
  · exact trivial
  · rename_i e
    exact inv_of_okPair e (inv_xlatesX h)

theorem inv_takeLines {ls : List Nat} (h : s.Inv) : OkAll State.Inv (takeLines ls s) := by
  induction ls generalizing s with
  | nil => exact h
  | cons l ls ih =>
    unfold takeLines
    split
    · exact h
    · split
      · exact ih h
      · split
        · exact trivial
        · split
          · exact trivial
          · exact ih (inv_of_bytes (s := s) rfl h)

end Sys2Proof.Machine
end

section
/-! PROOFS. Memory words keep memory canonical (spec 09_memory_ops R164 to R175). -/
open Sys2Proof Sys2Proof.Machine

namespace Sys2Proof.Machine

variable {s : State}

theorem inv_loadBody {fn d va scope : Nat} {acq : Bool} {dsp : Spec} (h : s.Inv) : OkAll State.Inv (loadBody fn d va scope acq dsp s) := by
  unfold loadBody
  refine okAll_then fun _ => okAll_bind (inv_xlate h) fun _ h1 => okAll_then fun _ => okAll_then fun _ => ?_
  dsimp only
  split
  · exact okAll_bind (okAll_map (fun _ => inv_qReserve h1)) fun _ h2 => h2
  · exact okAll_bind (Q := State.Inv) h1 fun _ h2 => h2

theorem inv_storeBody {fn va scope : Nat} {rel : Bool} {dsp : Spec} (h : s.Inv) : OkAll State.Inv (storeBody fn va scope rel dsp s) :=
  okAll_then fun _ => okAll_then fun _ => okAll_bind (inv_xlate h) fun _ h1 => okAll_then fun _ => okAll_then fun _ =>
    okAll_bind (inv_takeLines h1) fun _ h2 => inv_deqAll h2

theorem inv_execLd {x : TM} (h : s.Inv) : NextInv (execLd x s) := inv_issue h (inv_loadBody h)

theorem inv_execLdIndexed {x : T3} (h : s.Inv) : NextInv (execLdIndexed x s) := inv_issue h (inv_loadBody h)

theorem inv_execSt {x : TM} (h : s.Inv) : NextInv (execSt x s) := inv_issue h (inv_storeBody h)

theorem inv_execStIndexed {x : T3} (h : s.Inv) : NextInv (execStIndexed x s) := inv_issue h (inv_storeBody h)

theorem inv_rmwBody {kind : PKind} {fn d va n align scope : Nat} {acq rel : Bool} {data data2 : W} (h : s.Inv) :
    OkAll State.Inv (rmwBody kind fn d va n align scope acq rel data data2 s) := by
  unfold rmwBody
  refine okAll_then fun _ => ?_
  split
  · exact trivial
  · exact okAll_bind (inv_xlate h) fun _ h1 => okAll_then fun _ => okAll_then fun _ => okAll_then fun _ => okAll_then fun _ => h1

theorem inv_execAtom {x : TM} (h : s.Inv) : NextInv (execAtom x s) := inv_issue h (inv_rmwBody h)

theorem inv_execCas {x : TM} (h : s.Inv) : NextInv (execCas x s) := inv_issue h (inv_rmwBody h)

theorem inv_execStb {x : TX} (h : s.Inv) : NextInv (execStb x s) :=
  inv_issue h (okAll_then fun _ => okAll_then fun _ => okAll_then fun _ => okAll_bind (inv_xlate h) fun _ h1 => okAll_then fun _ =>
    okAll_bind (inv_xlate h1) fun _ h2 => okAll_then fun _ => okAll_then fun _ => inv_deqAll h2)

theorem inv_xlateDests {host : Bool} {n : Nat} {vas : List Nat} (h : s.Inv) : OkAll FstInv (xlateDests host n vas s) := by
  induction vas generalizing s with
  | nil => exact h
  | cons va vas ih => exact okAll_bind (inv_xlate h) fun _ h1 => okAll_then fun _ => okAll_bind (ih h1) fun _ h2 => h2

theorem inv_destList {va n : Nat} (h : s.Inv) : OkAll FstInv (destList va n s) := by
  unfold destList
  refine okAll_then fun _ => okAll_bind (inv_xlatesX h) fun _ h1 => ?_
  split
  · dsimp only
    split
    · exact trivial
    · split
      · exact trivial
      · exact inv_refresh (inv_bring h1)

theorem inv_multiBody {kind : PKind} {fn n : Nat} {x : TX} (h : s.Inv) : OkAll State.Inv (multiBody kind fn n x s) :=
  okAll_then fun _ => okAll_then fun _ => okAll_bind (inv_destList h) fun _ h1 => okAll_bind (inv_xlateDests h1) fun _ h2 =>
    okAll_then fun _ => okAll_then fun _ => inv_deqAll h2

theorem inv_execStm {x : TX} (h : s.Inv) : NextInv (execStm x s) := inv_issue h (inv_multiBody h)

theorem inv_execStred {x : TX} (h : s.Inv) : NextInv (execStred x s) := inv_issue h (inv_multiBody h)

theorem inv_execPref {x : TM} (h : s.Inv) : NextInv (execPref x s) := by
  unfold execPref
  refine inv_issue h ?_
  split
  · exact trivial
  · split
    · exact h
    · rename_i e
      have h1 := inv_of_okPair e (inv_translate h)
      split
      · exact inv_bring h1
      · exact h1

theorem inv_execFence {x : TM} (h : s.Inv) : NextInv (execFence x s) := by
  unfold execFence
  refine inv_issue h ?_
  split
  · exact h
  · split
    · split
      · exact h
      · exact trivial
    · split <;> exact h

theorem inv_convBody {x : T3} {srcN srcAlign dstN dstAlign : Nat} (h : s.Inv) :
    OkAll State.Inv (convBody x srcN srcAlign dstN dstAlign s) :=
  okAll_then fun _ => okAll_bind (inv_xlatesX h) fun _ h1 => okAll_bind (inv_xlatesX h1) fun _ h2 => okAll_then fun _ =>
    okAll_then fun _ => okAll_then fun _ => okAll_bind (inv_takeLines h2) fun _ h3 => h3

theorem inv_execBxpack {x : T3} (h : s.Inv) : NextInv (execBxpack x s) := inv_issue h (inv_convBody h)

theorem inv_execBxunpk {x : T3} (h : s.Inv) : NextInv (execBxunpk x s) := inv_issue h (inv_convBody h)

theorem inv_execMxpack {x : T3} (h : s.Inv) : NextInv (execMxpack x s) := inv_issue h (inv_convBody h)

theorem inv_execMxunpk {x : T3} (h : s.Inv) : NextInv (execMxunpk x s) := inv_issue h (inv_convBody h)

end Sys2Proof.Machine
end

section
/-! PROOFS. Deltas, tasks and control words keep memory canonical (spec 05_integer R97 to R102, 09_memory_ops R176 to R181). -/
open Sys2Proof Sys2Proof.Machine

namespace Sys2Proof.Machine

variable {s : State}

theorem inv_onNet {iid : Nat} {f : Net → Net} (h : s.Inv) : (s.onNet iid f).Inv := by
  unfold State.onNet
  split <;> exact h

theorem inv_mereWrite {i : Inv} {writer : Option Nat} {va : Nat} {bs : List Byte} (h : s.Inv) : (mereWrite s i writer va bs).Inv := by
  unfold mereWrite
  split
  · rename_i e
    exact inv_of_ok e (inv_writeVa h)
  · exact h

theorem inv_applyAssert {writer : Option Nat} {iid : Nat} {img : List Byte} (h : s.Inv) : (applyAssert s writer iid img).Inv := by
  unfold applyAssert
  split
  · dsimp only
    split
    · exact h
    · exact inv_onNet (inv_mereWrite h)
  · exact h

theorem inv_applyRetract {writer : Option Nat} {iid w : Nat} (h : s.Inv) : (applyRetract s writer iid w).Inv := by
  unfold applyRetract
  split
  · split
    · exact inv_onNet (inv_mereWrite h)
    · exact inv_onNet h
  · exact h

theorem inv_applyDelta {writer : Option Nat} {d : Delta} (h : s.Inv) : (applyDelta writer s d).Inv := by
  unfold applyDelta
  split
  · exact inv_applyAssert h
  · exact inv_applyRetract h
  · exact inv_applyAssert (inv_applyRetract h)

theorem inv_commitLines {k : Task} (h : s.Inv) : (commitLines s k).Inv :=
  inv_foldl (fun _ _ h1 => inv_applyDelta h1) (inv_foldl (fun _ _ h1 => inv_foldl (fun _ _ h2 => inv_homeWrite h2) h1) h)

theorem inv_dropTask {k : Task} (h : s.Inv) : (dropTask s k).Inv := by
  unfold dropTask
  dsimp only
  split <;> exact h

theorem inv_commitTask {k : Task} (h : s.Inv) : (commitTask s k).Inv := by
  unfold commitTask
  refine inv_dropTask ?_
  split
  · split <;> exact inv_commitLines h
  · exact inv_commitLines h

theorem inv_discardTask {k : Task} (h : s.Inv) : (discardTask s k).Inv := inv_dropTask (inv_returnReservations h)

theorem inv_withdrawFiring {k : Task} (h : s.Inv) : (withdrawFiring s k).Inv := by
  unfold withdrawFiring
  split
  · exact inv_discardTask h
  · split
    · exact inv_returnReservations h
    · exact inv_discardTask h

theorem inv_removeEntry {e : Nat} (h : s.Inv) : (removeEntry s e).Inv := by
  unfold removeEntry
  split
  · exact h
  · dsimp only
    split
    · exact h
    · split
      · exact h
      · exact inv_withdrawFiring h

theorem inv_execTaskCommit (h : s.Inv) : NextInv (execTaskCommit s) := by
  unfold execTaskCommit
  split
  · exact inv_discardTask h
  · split
    · exact h
    · split
      · exact h
      · split
        · exact inv_commitTask h
        · exact h

theorem inv_execTaskIrrevocable (h : s.Inv) : NextInv (execTaskIrrevocable s) := by
  unfold execTaskIrrevocable
  split
  · exact h
  · split
    · exact h
    · split
      · exact inv_commitLines h
      · exact h

theorem inv_execBr {x : TB} (h : s.Inv) : NextInv (execBr x s) := inv_issueJump h h

theorem inv_gotoReg {x : TB} (h : s.Inv) : OkAll State.Inv (gotoReg x s) := by
  unfold gotoReg
  dsimp only
  split
  · exact trivial
  · exact h

theorem inv_execBri {x : TB} (h : s.Inv) : NextInv (execBri x s) := inv_issueJump h (inv_gotoReg h)

theorem inv_execRet {x : TB} (h : s.Inv) : NextInv (execRet x s) := inv_issueJump h (inv_gotoReg h)

theorem inv_execCall {x : TB} (h : s.Inv) : NextInv (execCall x s) := inv_issueJump h h

theorem inv_endTask {d : Option Nat} : OkAll State.Inv (endTask d) := trivial

theorem inv_execHalt {x : T3} (h : s.Inv) : NextInv (execHalt x s) := by
  unfold execHalt
  refine inv_issueJump h ?_
  split
  · exact inv_endTask
  · split
    · exact h
    · exact trivial

theorem inv_execYield {x : T3} (h : s.Inv) : NextInv (execYield x s) := inv_issue h h

theorem inv_execSpawn {x : TB} (h : s.Inv) : NextInv (execSpawn x s) := by
  unfold execSpawn
  refine inv_issue h (okAll_then fun _ => ?_)
  split <;> exact h

theorem inv_execWaita {x : TM} (h : s.Inv) : NextInv (execWaita x s) := by
  unfold execWaita
  refine inv_issueJump h (okAll_then fun _ => okAll_then fun _ => okAll_bind (inv_xlate h) fun r h1 => ?_)
  split
  rename_i s0 t
  have h2 : (s0.reads t 8).Inv := inv_reads h1
  generalize s0.reads t 8 = s1 at h2 ⊢
  dsimp only
  split
  · exact trivial
  · split
    · exact trivial
    · generalize w64 (s1.mem.word t.pa 8) = v
      split <;> exact h2

theorem inv_execTspawn {x : TB} (h : s.Inv) : NextInv (execTspawn x s) := by
  unfold execTspawn
  refine inv_issue h (okAll_then fun _ => okAll_then fun _ => ?_)
  split
  · exact trivial
  · split <;> exact h

theorem inv_execTend {x : T3} (h : s.Inv) : NextInv (execTend x s) := by
  unfold execTend
  refine inv_issue h ?_
  split
  · exact h
  · exact inv_endTask

theorem inv_execTabort {x : T3} (h : s.Inv) : NextInv (execTabort x s) := by
  unfold execTabort
  refine inv_issue h ?_
  split
  · exact h
  · split
    · exact inv_endTask
    · dsimp only
      split
      · exact inv_removeEntry (inv_discardTask h)
      · exact inv_discardTask h

theorem inv_execTstamp {x : T3} (h : s.Inv) : NextInv (execTstamp x s) := inv_issue h h

theorem inv_execTbarrier {x : T3} (h : s.Inv) : NextInv (execTbarrier x s) := by
  unfold execTbarrier
  refine inv_issueJump h (okAll_then fun _ => ?_)
  split
  · exact trivial
  · dsimp only
    split <;> exact h

theorem inv_execTdirect {x : T3} (h : s.Inv) : NextInv (execTdirect x s) := inv_issue h (okAll_then fun _ => h)

theorem inv_execGvt {x : T3} (h : s.Inv) : NextInv (execGvt x s) := by
  unfold execGvt
  refine inv_issue h ?_
  dsimp only
  split
  · exact h
  · exact trivial

theorem inv_execWait {x : TW} (h : s.Inv) : NextInv (execWait x s) := by
  unfold execWait
  refine inv_issue h ?_
  split
  · exact h
  · exact trivial

theorem inv_execWaitm {x : TX} (h : s.Inv) : NextInv (execWaitm x s) := by
  unfold execWaitm
  refine inv_issue h ?_
  dsimp only
  split
  · exact trivial
  · split
    · exact trivial
    · split
      · exact h
      · exact trivial

theorem inv_execWaitt {x : TX} (h : s.Inv) : NextInv (execWaitt x s) := by
  unfold execWaitt
  refine inv_issue h ?_
  dsimp only
  split
  · exact trivial
  · split
    · exact h
    · exact trivial

theorem inv_barrierBody {kind : PKind} {d : Nat} {x : TM} {data data2 : W} (h : s.Inv) :
    OkAll State.Inv (barrierBody kind d x data data2 s) :=
  okAll_then fun _ => okAll_bind (inv_xlate h) fun _ h1 => okAll_then fun _ => okAll_then fun _ => okAll_then fun _ => okAll_then fun _ =>
    h1

theorem inv_execBinit {x : TM} (h : s.Inv) : NextInv (execBinit x s) := inv_issue h (inv_barrierBody h)

theorem inv_execBarr {x : TM} (h : s.Inv) : NextInv (execBarr x s) := inv_issue h (inv_barrierBody h)

theorem inv_execBwait {x : TM} (h : s.Inv) : NextInv (execBwait x s) := by
  unfold execBwait
  refine inv_issueJump h (okAll_then fun _ => okAll_bind (inv_xlate h) fun _ h1 => ?_)
  split
  · dsimp only
    split
    · exact trivial
    · split
      · exact trivial
      · split <;> exact inv_reads h1

theorem inv_execCntrd {x : T3} (h : s.Inv) : NextInv (execCntrd x s) := inv_issue h (okAll_then fun _ => okAll_then fun _ => inv_putV h)

end Sys2Proof.Machine
end

section
/-! PROOFS. Messages, exceptions and system words keep memory canonical (spec 02_machine R32, 17_faults R325 to R344). -/
open Sys2Proof Sys2Proof.Machine

namespace Sys2Proof.Machine

variable {s : State}

theorem inv_sendCmd {eng : Nat} {m : Msg} (h : s.Inv) : (sendCmd eng m s).Inv := by
  unfold sendCmd
  dsimp only
  split <;> exact h

theorem inv_onSender {m : Msg} {f : Thread → Thread} (h : s.Inv) : (onSender m f s).Inv := by
  unfold onSender
  split <;> exact h

theorem inv_retireC {m : Msg} (h : s.Inv) : (retireC m s).Inv := inv_onSender h

theorem inv_retireK {m : Msg} (h : s.Inv) : (retireK m s).Inv := inv_onSender h

theorem inv_dueTrap {m : Msg} {code : Nat} {v : W} (h : s.Inv) : (dueTrap m code v s).Inv := inv_onSender h

theorem inv_setResult {m : Msg} {v : W} (h : s.Inv) : (setResult m v s).Inv := inv_onSender h

theorem inv_readAtIssue {va n : Nat} (h : s.Inv) : OkAll FstInv (readAtIssue va n s) := by
  unfold readAtIssue
  refine okAll_bind (inv_xlatesX h) fun _ h1 => ?_
  split
  · dsimp only
    split
    · exact trivial
    · split
      · exact trivial
      · exact inv_refresh (inv_bring h1)

theorem inv_recSender {m : Msg} {src code : Nat} {v : W} (h : s.Inv) : (recSender m src code v s).Inv := inv_recThread h

theorem inv_writeReply {m : Msg} {src status code done : Nat} (h : s.Inv) : (writeReply m src status code done s).Inv := by
  unfold writeReply
  split
  · exact h
  · split
    · rename_i e
      exact inv_of_ok e (inv_writeVa h)
    · exact inv_recSender h

theorem inv_execTrap {x : TI} (h : s.Inv) : NextInv (execTrap x s) := inv_issueJump h trivial

theorem inv_toPort {pg : BitVec 4} (h : s.Inv) : (toPort pg s).Inv := by
  unfold toPort
  split <;> exact h

theorem inv_execBrk {x : TI} (h : s.Inv) : NextInv (execBrk x s) := inv_issueJump (inv_toPort h) trivial

theorem inv_execEret {x : T3} (h : s.Inv) : NextInv (execEret x s) := by
  unfold execEret
  refine inv_issueJump h ?_
  split
  · exact trivial
  · split
    · exact trivial
    · exact h

theorem inv_execMsgi {x : TX} (h : s.Inv) : NextInv (execMsgi x s) := by
  unfold execMsgi
  refine inv_issue h (okAll_then fun _ => okAll_then fun _ => ?_)
  split
  · exact trivial
  · exact h

theorem inv_execIdle {x : T3} (h : s.Inv) : NextInv (execIdle x s) := by
  unfold execIdle
  refine inv_issueJump h ?_
  split <;> exact h

theorem inv_execSignal {x : TM} (h : s.Inv) : NextInv (execSignal x s) :=
  inv_issue h (okAll_then fun _ => okAll_then fun _ => inv_rmwBody h)

theorem inv_execPtsync {x : TM} (h : s.Inv) : NextInv (execPtsync x s) := by
  unfold execPtsync
  refine inv_issue h (okAll_then fun _ => ?_)
  split
  · exact trivial
  · dsimp only
    split
    · exact h
    · exact inv_of_bytes rfl h

theorem inv_execTlbinv {x : TM} (h : s.Inv) : NextInv (execTlbinv x s) := by
  unfold execTlbinv
  refine inv_issue h (okAll_then fun _ => ?_)
  split
  · exact trivial
  · exact okAll_then fun _ => h

theorem inv_tlbInvalidate {m : Msg} (h : s.Inv) : (tlbInvalidate m s).Inv := inv_of_bytes rfl h

theorem inv_execTrapResume {tid : Nat} (h : s.Inv) : NextInv (execTrapResume tid s) := by
  unfold execTrapResume
  split <;> exact h

theorem inv_execTrapSkip {tid : Nat} (h : s.Inv) : NextInv (execTrapSkip tid s) := by
  unfold execTrapSkip
  split <;> exact h

theorem inv_execTrapHandler {tid : Nat} (h : s.Inv) : NextInv (execTrapHandler tid s) := by
  unfold execTrapHandler
  split <;> exact h

theorem inv_execTrapEnd {tid : Nat} (h : s.Inv) : NextInv (execTrapEnd tid s) := by
  unfold execTrapEnd
  split
  · split
    · exact h
    · split
      · exact h
      · dsimp only
        split
        · exact inv_removeEntry (inv_discardTask h)
        · exact inv_discardTask h
  · exact h

theorem inv_finishPark {tid : Nat} (h : s.Inv) : (finishPark tid s).Inv := by
  unfold finishPark
  dsimp only
  split <;> exact h

theorem inv_execThreadWake {tid : Nat} (h : s.Inv) : NextInv (execThreadWake tid s) := by
  unfold execThreadWake
  dsimp only
  split
  · exact h
  · split
    · split
      · exact inv_finishPark h
      · exact h
    · split
      · exact inv_finishPark h
      · exact h
    · split
      · exact inv_finishPark h
      · exact h
    · split
      · exact inv_finishPark h
      · exact h
    · exact h

theorem inv_execParkTimeout {tid : Nat} (h : s.Inv) : NextInv (execParkTimeout tid s) := by
  unfold execParkTimeout
  split
  · exact h
  · split
    · split
      · exact inv_finishPark h
      · exact h
    · split
      · exact inv_finishPark h
      · exact h
    · exact h

end Sys2Proof.Machine
end

section
/-! PROOFS. The name directory keeps memory canonical (spec 13_tables R250 to R260). -/
open Sys2Proof Sys2Proof.Machine

namespace Sys2Proof.Machine

variable {s : State}

theorem inv_reclaim {k : Nat} (h : s.Inv) : (reclaim s k).Inv := by
  unfold reclaim
  split
  · exact h
  · split
    · exact h
    · dsimp only
      split
      · exact h
      · split
        · exact h
        · rename_i e
          exact inv_writeRuns (inv_writeRuns (inv_of_okPair e (inv_translates h)))

theorem inv_onObj {k : Nat} {f : Obj → Obj} (h : s.Inv) : (onObj s k f).Inv := by
  unfold onObj
  split
  · exact inv_reclaim h
  · exact h

theorem inv_writeHandle {ctxid idx : Nat} {d : Desc} {v : Bool} (h : s.Inv) : (writeHandle s ctxid idx d v).Inv := by
  unfold writeHandle
  split
  · exact inv_homeWrite h
  · exact h

theorem inv_openObj {ctxid obj : Nat} {wr : Bool} (h : s.Inv) : SomeAll FstInv (openObj s ctxid obj wr) := by
  unfold openObj
  split
  · exact inv_writeHandle h
  · exact trivial

theorem inv_closeHandle {ctxid idx : Nat} (h : s.Inv) : (closeHandle s ctxid idx).Inv := by
  unfold closeHandle
  split
  · exact h
  · exact inv_onObj (inv_writeHandle h)

theorem inv_closeCtx {ctxid : Nat} (h : s.Inv) : (closeCtx s ctxid).Inv := inv_foldl (fun _ _ h1 => inv_closeHandle h1) h

theorem inv_doneAcq {m : Msg} (h : s.Inv) : (doneAcq m s).Inv := inv_retire h

theorem inv_dirDone {m : Msg} (h : s.Inv) : (dirDone m s).Inv := inv_retireC (inv_doneAcq h)

theorem inv_failOpen {m : Msg} {code : Nat} {v : W} (h : s.Inv) : (failOpen m code v s).Inv := inv_dueTrap (inv_dirDone h)

theorem inv_finishOpen {m : Msg} {obj : Nat} (h : s.Inv) : (finishOpen m obj s).Inv := by
  unfold finishOpen
  split
  · rename_i e
    have h1 := inv_of_somePair e (inv_openObj h)
    exact inv_dirDone h1
  · exact inv_failOpen h

theorem inv_dirOpen {m : Msg} (h : s.Inv) : (dirOpen m s).Inv := by
  unfold dirOpen
  split
  · exact inv_failOpen h
  · rename_i e
    have h1 := inv_of_okPair e (inv_readVa h)
    split
    · exact inv_finishOpen h1
    · split
      · exact inv_failOpen h1
      · split
        · exact inv_failOpen h1
        · exact h1

theorem inv_dirClose {m : Msg} (h : s.Inv) : (dirClose m s).Inv := by
  unfold dirClose
  split
  · exact inv_dirDone (inv_closeHandle (inv_onSender h))
  · exact inv_dirDone h

theorem inv_unbindName {e : NameEnt} (h : s.Inv) : (unbindName s e).Inv := inv_onObj h

theorem inv_dirUnbind {m : Msg} (h : s.Inv) : (dirUnbind m s).Inv := by
  unfold dirUnbind
  split
  · exact inv_dueTrap (inv_dirDone h)
  · rename_i e
    have h1 := inv_of_okPair e (inv_readVa h)
    split
    · split
      · exact inv_dirDone (inv_unbindName h1)
      · exact inv_dueTrap (inv_dirDone h1)
    · exact inv_dueTrap (inv_dirDone h1)

theorem inv_readRec {who : Who} {e : Nat × Nat × Nat} (h : s.Inv) : OkAll FstInv (readRec who e s) := by
  unfold readRec
  split
  · exact trivial
  · rename_i e1
    have h1 := inv_of_okPair e1 (inv_readVa h)
    split
    · exact h1
    · split
      · exact trivial
      · rename_i e2
        exact inv_of_okPair e2 (inv_readVa h1)

theorem inv_readRecs {who : Who} {es : List (Nat × Nat × Nat)} (h : s.Inv) : OkAll FstInv (readRecs who es s) := by
  induction es generalizing s with
  | nil => exact h
  | cons e es ih =>
    unfold readRecs
    split
    · exact trivial
    · rename_i e1
      split
      · exact trivial
      · rename_i e2
        exact inv_of_okPair e2 (ih (inv_of_okPair e1 (inv_readRec h)))

theorem inv_bindOne {m : Msg} {gen : Nat} {r : BindRec} (h : s.Inv) : (bindOne m gen s r).Inv := by
  unfold bindOne
  dsimp only
  split
  · split
    · exact inv_unbindName h
    · exact h
  · split
    · exact inv_unbindName h
    · exact h

theorem inv_wakeOpens {names : List (List Byte)} (h : s.Inv) : (wakeOpens names s).Inv := by
  unfold wakeOpens
  refine inv_foldl (fun _ _ h1 => ?_) h
  split
  · split
    · exact inv_finishOpen h1
    · exact h1
  · exact h1

theorem inv_bindSet {m : Msg} {es : List (Nat × Nat × Nat)} (h : s.Inv) : (bindSet m es s).Inv := by
  unfold bindSet
  split
  · exact inv_dueTrap (inv_dirDone h)
  · rename_i e
    have h1 := inv_of_okPair e (inv_readRecs h)
    split
    · exact inv_dueTrap (inv_dirDone h1)
    · exact inv_dirDone (inv_wakeOpens (inv_foldl (fun _ _ h2 => inv_bindOne h2) h1))

theorem inv_dirBind {m : Msg} (h : s.Inv) : (dirBind m s).Inv := by
  unfold dirBind
  split
  · exact inv_bindSet h
  · split
    · exact inv_dueTrap (inv_dirDone h)
    · rename_i e
      exact inv_bindSet (inv_of_okPair e (inv_readVa h))

theorem inv_dirStat {m : Msg} (h : s.Inv) : (dirStat m s).Inv := by
  unfold dirStat
  split
  · exact inv_dueTrap (inv_dirDone h)
  · rename_i e
    exact inv_dirDone (inv_setResult (inv_of_okPair e (inv_readVa h)))

theorem inv_dirDesc {m : Msg} (h : s.Inv) : (dirDesc m s).Inv := by
  unfold dirDesc
  dsimp only
  split
  · rename_i e
    exact inv_dirDone (inv_of_ok e (inv_writeVa h))
  · exact inv_dueTrap (inv_dirDone h)

theorem inv_dirTurn {m : Msg} (h : s.Inv) : (dirTurn m s).Inv := by
  unfold dirTurn
  split
  · exact inv_dirOpen h
  · exact inv_dirClose h
  · exact inv_dirBind h
  · exact inv_dirUnbind h
  · exact inv_dirStat h
  · exact inv_dirDesc h

theorem inv_sendDir {m : Msg} (h : s.Inv) : (sendDir m s).Inv := by
  unfold sendDir
  refine inv_sendCmd ?_
  split <;> exact h

theorem inv_dirIssue {checks : List (Acc × Nat × Nat × Nat)} {m : Msg} (h : s.Inv) : OkAll State.Inv (dirIssue checks m s) :=
  okAll_then fun _ => okAll_then fun _ => okAll_then fun _ => inv_sendDir h

theorem inv_execDopen {x : TX} (h : s.Inv) : NextInv (execDopen x s) := inv_issueJump h (okAll_bind (inv_dirIssue h) fun _ h1 => h1)

theorem inv_execDopenWait {x : TX} (h : s.Inv) : NextInv (execDopenWait x s) := by
  unfold execDopenWait
  refine inv_issueJump h (okAll_then fun _ => okAll_then fun _ => okAll_then fun _ => ?_)
  dsimp only
  split <;> exact inv_sendDir h

theorem inv_execDclose {x : TX} (h : s.Inv) : NextInv (execDclose x s) := inv_issueJump h (inv_dirIssue h)

theorem inv_execDbind {x : TX} (h : s.Inv) : NextInv (execDbind x s) := inv_issueJump h (inv_dirIssue h)

theorem inv_execDbindSet {x : TX} (h : s.Inv) : NextInv (execDbindSet x s) := by
  unfold execDbindSet
  refine inv_issueJump h (okAll_then fun _ => okAll_then fun _ => okAll_bind (inv_xlatesX h) fun _ h1 => ?_)
  split
  · dsimp only
    split
    · exact trivial
    · exact inv_dirIssue h

theorem inv_execDunbind {x : TX} (h : s.Inv) : NextInv (execDunbind x s) := inv_issueJump h (inv_dirIssue h)

theorem inv_execDstat {x : TX} (h : s.Inv) : NextInv (execDstat x s) := inv_issueJump h (inv_dirIssue h)

theorem inv_execDdesc {x : TX} (h : s.Inv) : NextInv (execDdesc x s) := inv_issueJump h (inv_dirIssue h)

theorem inv_execDopenTimeout {tid : Nat} (h : s.Inv) : NextInv (execDopenTimeout tid s) := by
  unfold execDopenTimeout
  split
  · exact h
  · exact inv_failOpen h

end Sys2Proof.Machine
end

section
/-! PROOFS. Firings of nodes and register words keep memory canonical (spec 04_registers R75 to R84, 12_nodes R218 to R224). -/
open Sys2Proof Sys2Proof.Machine

namespace Sys2Proof.Machine

variable {s : State}

theorem inv_recElem {i : Inv} {p : Place} {code : Nat} {v : W} (h : s.Inv) : (recElem s i p code v).Inv := inv_recThread h

theorem inv_endNet {iid : Nat} {i : Inv} (h : s.Inv) : (endNet s iid i).Inv := by
  unfold endNet
  split
  · exact h
  · exact inv_foldl (fun _ _ h1 => inv_closeHandle h1) (inv_foldl (fun _ _ h1 => inv_removeEntry h1) h)

theorem inv_putPlaced {ps : List Placed} (h : s.Inv) : (s.putPlaced ps).Inv := by
  unfold State.putPlaced
  dsimp only
  split
  · exact h
  · refine inv_foldl (fun _ _ h1 => ?_) h
    split
    · exact h1
    · split
      · exact inv_homeWrite h1
      · exact h1

theorem inv_unplace {i : Inv} (h : s.Inv) : (unplace s i).Inv := by
  unfold unplace
  split
  · exact inv_putPlaced h
  · exact h

theorem inv_graphReply {m : Msg} {status iid : Nat} (h : s.Inv) : (graphReply m status iid s).Inv := by
  unfold graphReply
  dsimp only
  split
  · exact h
  · exact inv_retireC (inv_setResult h)

theorem inv_saveWrite {m : Msg} {off : Nat} {bs : List Byte} (h : s.Inv) : (saveWrite m off bs s).Inv := by
  unfold saveWrite
  split
  · rename_i e
    exact inv_of_ok e (inv_writeVa h)
  · exact h

theorem inv_endCmds {i : Inv} {iid : Nat} (h : s.Inv) : (endCmds i iid s).Inv := by
  unfold endCmds
  split
  · exact h
  · split
    · refine inv_graphReply ?_
      split
      · exact h
      · exact inv_saveWrite h
    · exact inv_graphReply h

theorem inv_endInv {iid : Nat} (h : s.Inv) : (endInv s iid).Inv := by
  unfold endInv
  split
  · exact h
  · exact inv_endCmds (inv_unplace (inv_endNet h))

theorem inv_failInv {iid : Nat} {p : Place} {code : Nat} {v : W} (h : s.Inv) : (failInv s iid p code v).Inv := by
  unfold failInv
  split
  · exact h
  · exact inv_endInv (inv_recElem h)

theorem inv_failNode {iid : Nat} {nd : Node} {code : Nat} {v : W} (h : s.Inv) : (failNode s iid nd code v).Inv := by
  unfold failNode
  split
  · exact inv_endInv h
  · exact inv_failInv h

theorem inv_done {c : Ctx} {i : Inv} {outs : List Emit} (h : s.Inv) : SomeAll State.Inv (c.done s i outs) := by
  unfold Ctx.done
  split
  · dsimp only
    split
    · exact h
    · split <;> exact h
  · exact trivial

theorem inv_pass {c : Ctx} {fs : List Nat} {outs : List Emit} (h : c.s.Inv) : SomeAll State.Inv (c.pass fs outs) := inv_done h

theorem inv_passSt {c : Ctx} {fs : List Nat} {f : NodeSt → NodeSt} {outs : List Emit} (h : c.s.Inv) :
    SomeAll State.Inv (c.passSt fs f outs) :=
  inv_done h

theorem inv_nodeCtx {c : Ctx} (h : s.Inv) (e : nodeCtx s = some c) : c.s.Inv := by
  rw [nodeCtx_s e]
  exact h

theorem inv_endIfDone {iid : Nat} (h : s.Inv) : (endIfDone s iid).Inv := by
  unfold endIfDone
  split
  · split
    · exact inv_endInv h
    · exact h
  · exact h

theorem inv_poisonEnd {c : Ctx} (h : s.Inv) : (poisonEnd s c).Inv := inv_failNode h

theorem inv_fails {c : Ctx} {t : State} (h : t.Inv) : SomeAll State.Inv (c.fails t) := by
  unfold Ctx.fails
  split
  · exact h
  · exact trivial

/-- A firing answers the state its node answers, and may end its invocation; a node that does not fire changes nothing. -/
theorem inv_fireAny {f : Ctx → Option State} (h : s.Inv) (k : ∀ c, c.s.Inv → SomeAll State.Inv (f c)) : NextInv (fireAny s f) := by
  rcases fireAny_cases s f with e | ⟨c, s1, hc, hf, e⟩
  · rw [e]
    exact h
  · rw [e]
    exact inv_endIfDone ((k c (inv_nodeCtx h hc)).some hf)

theorem inv_fire {f : Ctx → Option State} (h : s.Inv) (k : ∀ c, c.s.Inv → SomeAll State.Inv (f c)) : NextInv (fire s f) :=
  inv_fireAny h fun c hc => someAll_map (k c hc) fun s1 h1 => by
    split
    · exact inv_poisonEnd hc
    · exact h1

theorem inv_execMov {x : T3} (h : s.Inv) : NextInv (execMov x s) :=
  inv_issue h (okAll_then fun _ => okAll_then fun _ => inv_putV (inv_deqAll h))

theorem inv_execMovi {x : TI} (h : s.Inv) : NextInv (execMovi x s) := inv_issue h (okAll_then fun _ => inv_putV h)

theorem inv_execMovhi {x : TI} (h : s.Inv) : NextInv (execMovhi x s) := inv_issue h (inv_putV h)

theorem inv_execLea {x : TM} (h : s.Inv) : NextInv (execLea x s) := inv_issue h (okAll_then fun _ => inv_putV h)

theorem inv_execLeaIndexed {x : T3} (h : s.Inv) : NextInv (execLeaIndexed x s) := inv_issue h (okAll_then fun _ => inv_putV h)

theorem inv_execPlog {x : T3} (h : s.Inv) : NextInv (execPlog x s) := inv_issue h h

theorem inv_execCsrr {x : T3} (h : s.Inv) : NextInv (execCsrr x s) := inv_issue h (okAll_then fun _ => okAll_then fun _ => inv_putV h)

theorem inv_execCsrw {x : T3} (h : s.Inv) : NextInv (execCsrw x s) := by
  unfold execCsrw
  refine inv_issue h (okAll_then fun _ => ?_)
  split
  · exact trivial
  · exact okAll_then fun _ => okAll_then fun _ => inv_deqAll h

theorem inv_execTsc {x : T3} (h : s.Inv) : NextInv (execTsc x s) := by
  unfold execTsc
  refine inv_issue h (okAll_then fun _ => ?_)
  split
  · exact inv_putV h
  · exact trivial

theorem inv_execQpeek {x : T3} (h : s.Inv) : NextInv (execQpeek x s) := inv_issue h (okAll_then fun _ => okAll_then fun _ => inv_putV h)

theorem inv_execQstat {x : T3} (h : s.Inv) : NextInv (execQstat x s) := inv_issue h (inv_putV h)

end Sys2Proof.Machine
end

section
/-! PROOFS. Nodes of the C-cell keep memory canonical (spec 12_nodes R218 to R234). -/
open Sys2Proof Sys2Proof.Machine

namespace Sys2Proof.Machine

variable {s : State}

theorem inv_arithF {c : Ctx} (h : c.s.Inv) : SomeAll State.Inv (arithF c) := by
  unfold arithF
  dsimp only
  split
  · exact trivial
  · exact inv_pass h

theorem inv_execSteer {w : NW} (h : s.Inv) : NextInv (execSteer w s) := by
  unfold execSteer
  refine inv_fire h (fun _ h1 => ?_)
  split
  · exact inv_pass h1
  · exact trivial

theorem inv_execMerge {w : NW} (h : s.Inv) : NextInv (execMerge w s) := by
  unfold execMerge
  refine inv_fire h (fun _ h1 => ?_)
  dsimp only
  split
  · split
    · exact inv_pass h1
    · exact trivial
  · split
    · exact inv_pass h1
    · exact trivial

theorem inv_execGate {w : NW} (h : s.Inv) : NextInv (execGate w s) := by
  unfold execGate
  refine inv_fire h (fun _ h1 => ?_)
  split
  · exact inv_pass h1
  · exact trivial

theorem inv_execFcomp {w : NW} (h : s.Inv) : NextInv (execFcomp w s) := by
  unfold execFcomp
  refine inv_fire h (fun _ h1 => ?_)
  split
  · dsimp only
    split
    · exact inv_passSt h1
    · exact inv_pass h1
  · exact trivial

theorem inv_execRepeat {w : NW} (h : s.Inv) : NextInv (execRepeat w s) := by
  unfold execRepeat
  refine inv_fire h (fun _ h1 => ?_)
  dsimp only
  split
  · split
    · exact trivial
    · split
      · split
        · exact inv_pass h1
        · split <;> exact inv_passSt h1
      · split
        · exact inv_pass h1
        · split <;> exact inv_passSt h1
  · split
    · exact trivial
    · split
      · split
        · exact inv_pass h1
        · split <;> exact inv_passSt h1
      · split
        · exact inv_pass h1
        · split <;> exact inv_passSt h1

theorem inv_execDelay {w : NW} (h : s.Inv) : NextInv (execDelay w s) := by
  unfold execDelay
  refine inv_fire h (fun _ h1 => ?_)
  dsimp only
  split
  · split <;> exact inv_passSt h1
  · split
    · split
      · split <;> exact inv_passSt h1
      · exact trivial
    · exact trivial

theorem inv_execAccum {w : NW} (h : s.Inv) : NextInv (execAccum w s) := by
  unfold execAccum
  refine inv_fire h (fun _ h1 => ?_)
  split
  · dsimp only
    split <;> exact inv_passSt h1
  · exact trivial

theorem inv_execGen {w : NW} (h : s.Inv) : NextInv (execGen w s) := by
  unfold execGen
  refine inv_fire h (fun _ h1 => ?_)
  split
  · exact trivial
  · exact inv_passSt h1

theorem inv_execGenTrig {w : NW} (h : s.Inv) : NextInv (execGenTrig w s) := by
  unfold execGenTrig
  refine inv_fire h (fun _ h1 => ?_)
  split
  · exact inv_passSt h1
  · exact trivial

theorem inv_execSink {w : NW} (h : s.Inv) : NextInv (execSink w s) := by
  unfold execSink
  refine inv_fire h (fun _ h1 => ?_)
  split
  · exact inv_pass h1
  · exact trivial

theorem inv_execSrc {w : NW} (h : s.Inv) : NextInv (execSrc w s) := by
  unfold execSrc
  refine inv_fire h (fun _ h1 => ?_)
  split
  · exact trivial
  · exact inv_passSt h1

theorem inv_execTagset {w : NW} (h : s.Inv) : NextInv (execTagset w s) := by
  unfold execTagset
  refine inv_fire h (fun _ h1 => ?_)
  split
  · exact inv_pass h1
  · exact trivial

theorem inv_execTagget {w : NW} (h : s.Inv) : NextInv (execTagget w s) := by
  unfold execTagget
  refine inv_fire h (fun _ h1 => ?_)
  split
  · exact inv_pass h1
  · exact trivial

theorem inv_execRoute {w : NW} (h : s.Inv) : NextInv (execRoute w s) := by
  unfold execRoute
  refine inv_fire h (fun _ h1 => ?_)
  split
  · exact inv_pass h1
  · exact trivial

theorem inv_execBound {w : NW} (h : s.Inv) : NextInv (execBound w s) := by
  unfold execBound
  refine inv_fire h (fun _ h1 => ?_)
  split
  · exact inv_pass h1
  · exact trivial

theorem inv_execMerge2 {w : NW} (h : s.Inv) : NextInv (execMerge2 w s) := by
  unfold execMerge2
  refine inv_fire h (fun _ h1 => ?_)
  split
  · exact inv_pass h1
  · split
    · split <;> exact inv_pass h1
    · exact trivial

theorem inv_execLut6 {w : NW} (h : s.Inv) : NextInv (execLut6 w s) := by
  unfold execLut6
  refine inv_fire h (fun _ h1 => ?_)
  split
  · exact inv_pass h1
  · exact trivial

theorem inv_execFsm {w : NW} (h : s.Inv) : NextInv (execFsm w s) := by
  unfold execFsm
  refine inv_fire h (fun _ h1 => ?_)
  split
  · exact inv_passSt h1
  · exact trivial

theorem inv_execFalloc {w : NW} (h : s.Inv) : NextInv (execFalloc w s) := by
  unfold execFalloc
  refine inv_fire h (fun _ h1 => ?_)
  split
  · exact trivial
  · dsimp only
    split
    · split
      · exact inv_done h1
      · exact trivial
    · exact trivial

theorem inv_execFfree {w : NW} (h : s.Inv) : NextInv (execFfree w s) := by
  unfold execFfree
  refine inv_fire h (fun _ h1 => ?_)
  split
  · exact inv_done h1
  · exact trivial

theorem inv_execChan {w : NW} (h : s.Inv) : NextInv (execChan w s) := by
  unfold execChan
  refine inv_fire h (fun _ h1 => ?_)
  split
  · exact trivial
  · split
    · exact trivial
    · exact inv_done h1

theorem inv_spoil {iid : Nat} {t : Tok} {reason dst field src : Nat} (h : s.Inv) : (spoil s iid t reason dst field src).Inv := by
  unfold spoil
  split
  · exact h
  · split
    · dsimp only
      split
      · refine inv_onInv (inv_foldl (fun _ _ h1 => ?_) h)
        split
        · rename_i e
          exact (inv_writeVa h1).ok e
        · exact h1
      · refine inv_onInv (inv_foldl (fun _ _ h1 => ?_) h)
        split
        · rename_i e
          exact (inv_writeVa h1).ok e
        · exact h1

theorem inv_execWeir {w : NW} (h : s.Inv) : NextInv (execWeir w s) := by
  unfold execWeir
  refine inv_fire h (fun _ h1 => ?_)
  split
  · exact trivial
  · dsimp only
    split
    · split
      · exact trivial
      · exact inv_passSt h1
    · split
      · exact trivial
      · rename_i e
        exact inv_spoil (inv_of_some e (inv_passSt h1))

theorem inv_exMarked {c : Ctx} {o : Option State} (k : SomeAll State.Inv o) : SomeAll State.Inv (exMarked c o) :=
  someAll_map k fun s h => by
    split
    · refine inv_foldl (fun s1 _ h1 => ?_) h
      split <;> exact h1
    · exact h

theorem inv_exReturn {c : Ctx} (h : c.s.Inv) : SomeAll State.Inv (exReturn c) := inv_exMarked (inv_passSt h)

theorem inv_exNew {c : Ctx} (h : c.s.Inv) : SomeAll State.Inv (exNew c) := by
  unfold exNew
  dsimp only
  split
  · exact trivial
  · split
    · exact inv_passSt h
    · exact inv_exMarked (inv_passSt h)

theorem inv_execExpert {w : NW} (h : s.Inv) : NextInv (execExpert w s) := by
  unfold execExpert
  refine inv_fire h (fun _ h1 => ?_)
  split
  · exact inv_exReturn h1
  · split
    · exact inv_passSt h1
    · split
      · exact inv_exNew h1
      · exact trivial

theorem inv_execExpertDrain {iid node : Nat} (h : s.Inv) : NextInv (execExpertDrain iid node s) := by
  unfold execExpertDrain
  refine inv_fireAny h (fun _ h1 => ?_)
  split
  · exact trivial
  · split
    · exact trivial
    · split
      · exact trivial
      · refine someAll_map (inv_passSt h1) (fun _ h2 => ?_)
        split
        · exact inv_poisonEnd h1
        · exact h2

theorem inv_execTopk {w : NW} (h : s.Inv) : NextInv (execTopk w s) := by
  unfold execTopk
  refine inv_fire h (fun _ h1 => ?_)
  split
  · split
    · split <;> exact inv_passSt h1
    · split
      · dsimp only
        split <;> exact inv_passSt h1
      · exact trivial

end Sys2Proof.Machine
end

section
/-! PROOFS. Nodes that reach memory keep it canonical (spec 12_nodes R225 to R227, R233). -/
open Sys2Proof Sys2Proof.Machine

namespace Sys2Proof.Machine

variable {s : State}

theorem inv_scaleBytes {who : Who} {scale : W} {n : Nat} (h : s.Inv) : OkAll FstInv (scaleBytes s who scale n) := by
  unfold scaleBytes
  split
  · split
    · rename_i e
      exact inv_of_okPair e (inv_readVa h)
    · exact trivial
  · exact h

theorem inv_refreshTile {key n : Nat} (h : s.Inv) : (s.refreshTile key n).Inv := inv_refresh h

theorem inv_vals {who : Who} {v : View} (h : s.Inv) : OkAll FstInv (View.vals s who v) := by
  unfold View.vals
  split
  · exact trivial
  · rename_i e
    exact inv_of_okPair e (inv_scaleBytes h)

theorem inv_stopNode {c : Ctx} {t : Tok} {v : W} (h : s.Inv) : (stopNode s c t v).Inv := inv_onInv h

theorem inv_fireMem {f : Ctx → Option State} (h : s.Inv) (k : ∀ c, c.s.Inv → SomeAll State.Inv (f c)) : NextInv (fireMem s f) :=
  inv_fire h fun c hc => by
    split
    · trivial
    · exact k c hc

theorem inv_execRequesterResume {iid node : Nat} (h : s.Inv) : NextInv (execRequesterResume iid node s) := by
  unfold execRequesterResume
  split
  · split <;> exact h
  · exact h

theorem inv_agenRun {c : Ctx} {r : AgRun} (h : c.s.Inv) : SomeAll State.Inv (agenRun c r) := by
  unfold agenRun
  dsimp only
  split
  · exact inv_done h
  · split
    · exact inv_fails (inv_endInv h)
    · split
      · exact inv_fails (inv_stopNode h)
      · split
        · exact trivial
        · split
          · exact inv_fails (inv_stopNode h)
          · rename_i e
            exact inv_done (inv_of_okPair e (inv_translate h))

theorem inv_execAgen {w : NW} (h : s.Inv) : NextInv (execAgen w s) := by
  unfold execAgen
  refine inv_fireMem h (fun _ h1 => ?_)
  split
  · exact inv_agenRun h1
  · split
    · exact inv_passSt h1
    · exact trivial

theorem inv_streamNext {c : Ctx} (h : c.s.Inv) : SomeAll State.Inv (streamNext c) := by
  unfold streamNext
  split
  · exact trivial
  · exact inv_passSt h

theorem inv_mloadTile {c : Ctx} (h : c.s.Inv) : SomeAll State.Inv (mloadTile c) := by
  unfold mloadTile
  split
  · exact inv_streamNext h
  · split
    · exact trivial
    · split
      · exact trivial
      · dsimp only
        split
        · exact trivial
        · split
          · exact inv_fails (inv_poisonEnd h)
          · split
            · exact inv_fails (inv_poisonEnd h)
            · exact inv_fails (inv_stopNode h)
            · rename_i e
              have h1 := inv_of_okPair e (inv_vals h)
              exact inv_done h1

theorem inv_ringAdvance {key : Nat} (h : s.Inv) : (ringAdvance s key).Inv := by
  unfold ringAdvance
  split <;> exact h

theorem inv_startFill {key : Nat} (h : s.Inv) : (startFill s key).Inv := inv_ringAdvance h

theorem inv_tileWrite {key : Nat} {bs : List (Nat × Byte)} (h : s.Inv) : (tileWrite s key bs).Inv := inv_writeRuns h

theorem inv_mstoreTok {c : Ctx} {v : View} (h : s.Inv) : SomeAll State.Inv (mstoreTok c s v) := by
  unfold mstoreTok
  dsimp only
  split
  · exact inv_done h
  · split
    · split
      · rename_i e
        have h2 := inv_of_some e (inv_done h)
        exact inv_recElem h2
      · exact trivial
    · split
      · exact inv_done (inv_tileWrite h)
      · exact inv_done h

theorem inv_mstoreTile {c : Ctx} (h : c.s.Inv) : SomeAll State.Inv (mstoreTile c) := by
  unfold mstoreTile
  split
  · exact trivial
  · split
    · exact trivial
    · split
      · exact inv_fails (inv_stopNode h)
      · split
        · exact trivial
        · split
          · exact inv_mstoreTok h
          · split
            · exact trivial
            · exact inv_mstoreTok (inv_tileWrite (inv_startFill h))

theorem inv_mloadElem {c : Ctx} (h : c.s.Inv) : SomeAll State.Inv (mloadElem c) := by
  unfold mloadElem
  split
  · exact trivial
  · split
    · exact inv_pass h
    · dsimp only
      split
      · exact trivial
      · split
        · exact inv_fails (inv_poisonEnd h)
        · exact inv_fails (inv_stopNode h)
        · rename_i e
          exact inv_done (inv_of_okPair e (inv_readVa h))

theorem inv_execMload {w : NW} (h : s.Inv) : NextInv (execMload w s) := by
  unfold execMload
  refine inv_fireMem h (fun _ h1 => ?_)
  split
  · exact inv_mloadTile h1
  · exact inv_mloadElem h1

theorem inv_mstoreElem {c : Ctx} (h : c.s.Inv) : SomeAll State.Inv (mstoreElem c) := by
  unfold mstoreElem
  split
  · exact trivial
  · dsimp only
    split
    · exact inv_pass h
    · split
      · exact trivial
      · split
        · exact inv_stopNode h
        · rename_i e
          have h1 := inv_of_ok e (inv_writeVa h)
          split
          · exact inv_done h1
          · exact h1

theorem inv_execMstore {w : NW} (h : s.Inv) : NextInv (execMstore w s) := by
  unfold execMstore
  refine inv_fireMem h (fun _ h1 => ?_)
  split
  · exact inv_mstoreTile h1
  · exact inv_mstoreElem h1

theorem inv_execRmw {w : NW} (h : s.Inv) : NextInv (execRmw w s) := by
  unfold execRmw
  refine inv_fire h (fun _ h1 => ?_)
  split
  · exact trivial
  · dsimp only
    split
    · exact inv_fails (inv_failNode h1)
    · split
      · exact inv_fails (inv_failNode h1)
      · split
        · exact trivial
        · split
          · exact inv_fails (inv_poisonEnd h1)
          · split
            · exact trivial
            · split
              · exact inv_done (inv_homeWrite h1)
              · exact inv_homeWrite h1

theorem inv_execSpill {w : NW} (h : s.Inv) : NextInv (execSpill w s) := by
  unfold execSpill
  refine inv_fireMem h (fun _ h1 => ?_)
  dsimp only
  split
  · split
    · exact inv_fails (inv_stopNode h1)
    · rename_i e
      have h2 := inv_of_ok e (inv_writeVa h1)
      split
      · exact inv_done h2
      · exact h2
  · split
    · exact trivial
    · split
      · exact inv_fails (inv_poisonEnd h1)
      · exact inv_fails (inv_stopNode h1)
      · rename_i e
        exact inv_done (inv_of_okPair e (inv_readVa h1))

end Sys2Proof.Machine
end

section
/-! PROOFS. Match nodes keep memory canonical (spec 14_rules R270 to R277). -/
open Sys2Proof Sys2Proof.Machine

namespace Sys2Proof.Machine

variable {s : State}

theorem inv_basinEnd {c : Ctx} {reason : Nat} (h : c.s.Inv) : SomeAll State.Inv (basinEnd c reason) := inv_fails (inv_failInv h)

theorem inv_mereFail {c : Ctx} {e : ReadErr} (h : c.s.Inv) : (mereFail c e).Inv := by
  unfold mereFail
  split
  · exact inv_poisonEnd h
  · exact inv_failInv h

theorem inv_wme {i : Inv} {net : Net} {w : Nat} (h : s.Inv) : OkAll FstInv (wme s i net w) := by
  unfold wme
  split
  · exact trivial
  · rename_i e
    exact inv_of_okPair e (inv_readVa h)

theorem inv_attrAt {i : Inv} {net : Net} {w j : Nat} (h : s.Inv) : OkAll FstInv (attrAt s i net w j) :=
  okAll_bind (inv_wme h) fun _ h1 => h1

theorem inv_ttsOf {i : Inv} {net : Net} {ws : List Nat} (h : s.Inv) : OkAll FstInv (ttsOf i net ws s) := by
  induction ws generalizing s with
  | nil => exact h
  | cons w ws ih => exact okAll_bind (inv_wme h) fun _ h1 => okAll_bind (ih h1) fun _ h2 => h2

theorem inv_matchFire {f : Ctx → Net → Except ReadErr (Option State)} (h : s.Inv)
    (k : ∀ c net, c.s.Inv → OkAll (SomeAll State.Inv) (f c net)) : NextInv (matchFire s f) :=
  inv_fire h fun c hc => by
    split
    · trivial
    · split
      · rename_i e
        exact (k c _ hc).ok e
      · exact inv_fails (inv_mereFail hc)

theorem inv_execAlpha {w : NW} (h : s.Inv) : NextInv (execAlpha w s) := by
  unfold execAlpha
  refine inv_matchFire h (fun _ _ h1 => ?_)
  split
  · exact trivial
  · split
    · exact inv_basinEnd h1
    · dsimp only
      split
      · exact okAll_bind (inv_attrAt h1) fun _ h2 => inv_done h2
      · exact inv_pass h1

theorem inv_sendOuts {c : Ctx} {i : Inv} {f : Nat} {outs : List (W × Nat)} (h : s.Inv) : SomeAll State.Inv (sendOuts c s i f outs) := by
  unfold sendOuts
  dsimp only
  split
  · exact inv_done h
  · split <;> exact inv_done h

theorem inv_contOuts {c : Ctx} (h : c.s.Inv) : SomeAll State.Inv (contOuts c) := inv_sendOuts h

theorem inv_membDelete {c : Ctx} {p : Beta → Bool} {after : List (W × Nat)} (h : c.s.Inv) : SomeAll State.Inv (membDelete c p after) :=
  inv_sendOuts h

theorem inv_execMemb {w : NW} (h : s.Inv) : NextInv (execMemb w s) := by
  unfold execMemb
  refine inv_matchFire h (fun _ _ h1 => ?_)
  split
  · exact inv_contOuts h1
  · split
    · exact trivial
    · dsimp only
      split
      · split
        · exact inv_basinEnd h1
        · exact okAll_bind (inv_ttsOf h1) fun _ h2 => inv_sendOuts h2
      · exact inv_membDelete h1
      · exact inv_membDelete h1
      · exact inv_basinEnd h1

theorem inv_leftKey {c : Ctx} {net : Net} {v : W} (h : s.Inv) : OkAll FstInv (leftKey c net v s) := inv_attrAt h

theorem inv_rightKey {c : Ctx} {net : Net} {v : W} (h : s.Inv) : OkAll FstInv (rightKey c net v s) := inv_attrAt h

theorem inv_matching {key : W → State → Except ReadErr (State × Nat)} {n : Nat} {bs : List Beta}
    (k : ∀ v s1, s1.Inv → OkAll FstInv (key v s1)) (h : s.Inv) : OkAll FstInv (matching key n bs s) := by
  induction bs generalizing s with
  | nil => exact h
  | cons b bs ih => exact okAll_bind (k _ _ h) fun _ h1 => okAll_bind (ih h1) fun _ h2 => h2

theorem inv_execJoinb {w : NW} (h : s.Inv) : NextInv (execJoinb w s) := by
  unfold execJoinb
  refine inv_matchFire h (fun _ _ h1 => ?_)
  split
  · exact inv_contOuts h1
  · split
    · exact trivial
    · dsimp only
      split
      · refine okAll_bind (inv_leftKey h1) fun _ h2 => okAll_bind (inv_matching (fun _ _ h3 => inv_rightKey h3) h2) fun _ h3 => ?_
        split
        · exact inv_basinEnd h1
        · exact inv_sendOuts h3
      · refine okAll_bind (inv_rightKey h1) fun _ h2 => okAll_bind (inv_matching (fun _ _ h3 => inv_leftKey h3) h2) fun _ h3 => ?_
        split
        · exact inv_basinEnd h1
        · exact inv_sendOuts h3
      · exact inv_sendOuts h1
      · exact inv_sendOuts h1
      · exact inv_sendOuts h1
      · exact inv_basinEnd h1

theorem inv_execNegj {w : NW} (h : s.Inv) : NextInv (execNegj w s) := by
  unfold execNegj
  refine inv_matchFire h (fun _ _ h1 => ?_)
  split
  · exact inv_contOuts h1
  · split
    · exact trivial
    · dsimp only
      split
      · refine okAll_bind (inv_leftKey h1) fun _ h2 => okAll_bind (inv_matching (fun _ _ h3 => inv_rightKey h3) h2) fun _ h3 => ?_
        split
        · exact inv_basinEnd h1
        · exact inv_sendOuts h3
      · refine okAll_bind (inv_rightKey h1) fun _ h2 => okAll_bind (inv_matching (fun _ _ h3 => inv_leftKey h3) h2) fun _ h3 => ?_
        split
        · exact inv_basinEnd h1
        · exact inv_sendOuts h3
      · exact okAll_bind (inv_rightKey h1) fun _ h2 => okAll_bind (inv_matching (fun _ _ h3 => inv_leftKey h3) h2) fun _ h3 =>
          inv_sendOuts h3
      · exact inv_sendOuts h1
      · exact inv_sendOuts h1
      · exact inv_basinEnd h1

theorem inv_scorePut {c : Ctx} {net : Net} {idx : Nat} {bs : List Byte} (h : s.Inv) : OkAll State.Inv (scorePut s c net idx bs) := by
  unfold scorePut
  split
  · rename_i e
    exact inv_of_ok e (inv_writeVa h)
  · exact trivial

theorem inv_scoreLook {c : Ctx} {net : Net} {t : Tok} (h : c.s.Inv) : OkAll (SomeAll State.Inv) (scoreLook c net t) := by
  unfold scoreLook
  refine okAll_bind (inv_attrAt h) fun _ h1 => okAll_bind (inv_attrAt h1) fun _ h2 => okAll_bind (inv_readVa h2) fun _ h3 => ?_
  split
  · dsimp only
    split
    · exact inv_done h3
    · split
      · exact trivial
      · split
        · exact trivial
        · exact okAll_bind (inv_scorePut h3) fun _ h4 => inv_done h4

theorem inv_execScore {w : NW} (h : s.Inv) : NextInv (execScore w s) := by
  unfold execScore
  refine inv_matchFire h (fun _ _ h1 => ?_)
  split
  · exact trivial
  · dsimp only
    split
    · exact inv_basinEnd h1
    · split
      · exact inv_scoreLook h1
      · exact inv_pass h1

theorem inv_execScoreReply {iid node tag : Nat} (h : s.Inv) : NextInv (execScoreReply iid node tag s) := by
  unfold execScoreReply
  refine inv_matchFire h (fun _ _ h1 => ?_)
  split
  · exact trivial
  · split
    · exact trivial
    · split
      · exact trivial
      · dsimp only
        split
        · exact trivial
        · exact okAll_bind (inv_readVa h1) fun _ h2 => okAll_bind (inv_scorePut h2) fun _ h3 => inv_done h3

theorem inv_termFull {c : Ctx} {net : Net} (h : c.s.Inv) : SomeAll State.Inv (termFull c net) := by
  unfold termFull
  split
  · exact trivial
  · exact inv_onNet (inv_recElem h)

theorem inv_termPlus {c : Ctx} {net : Net} {fs : List Nat} (h : c.s.Inv) : OkAll (SomeAll State.Inv) (termPlus c net fs) := by
  unfold termPlus
  dsimp only
  split
  · exact inv_pass h
  · split
    · exact inv_termFull h
    · exact okAll_bind (inv_ttsOf h) fun _ h1 => inv_done (inv_onNet h1)

theorem inv_termRemove {c : Ctx} {fs : List Nat} {p : Basin → Bool} (h : c.s.Inv) : SomeAll State.Inv (termRemove c fs p) :=
  inv_done (inv_foldl (fun _ _ h1 => inv_removeEntry h1) h)

theorem inv_execTerm {w : NW} (h : s.Inv) : NextInv (execTerm w s) := by
  unfold execTerm
  refine inv_matchFire h (fun _ _ h1 => ?_)
  dsimp only
  split
  · split
    · exact trivial
    · split
      · exact inv_termPlus h1
      · exact inv_termRemove h1
      · exact inv_termRemove h1
      · exact inv_basinEnd h1
  · split
    · exact trivial
    · split
      · exact inv_termPlus h1
      · exact inv_termRemove h1
      · exact inv_termRemove h1
      · exact inv_basinEnd h1

end Sys2Proof.Machine
end

section
/-! PROOFS. Tokens, credits, banks and walks keep memory canonical (spec 02_machine R36 to R39, 08_memories R144, R154). -/
open Sys2Proof Sys2Proof.Machine

namespace Sys2Proof.Machine

variable {s : State}

theorem inv_orphan {iid n g : Nat} {t : Tok} (h : s.Inv) : (orphan s iid n g t).Inv := by
  unfold orphan
  split
  · exact h
  · split
    · exact h
    · exact inv_onInv (inv_recElem (inv_spoil h))

theorem inv_orphanField {n iid : Nat} {e : Nat × Nat} (h : s.Inv) : (orphanField n iid s e).Inv := by
  unfold orphanField
  split
  · exact h
  · exact inv_orphan h

theorem inv_frsArrive {iid n f : Nat} (h : s.Inv) : (frsArrive s iid n f).Inv := by
  unfold frsArrive
  split
  · exact h
  · split
    · exact h
    · exact inv_foldl (fun _ _ h1 => inv_orphanField h1) h

theorem inv_scaleEnd {iid : Nat} {i : Inv} {nd : Node} {l : Link} (h : s.Inv) : (scaleEnd s iid i nd l).Inv :=
  inv_endInv (inv_foldl (fun _ _ h1 => inv_recElem h1) h)

theorem inv_arriveTok {iid : Nat} {l : Link} (h : s.Inv) : (arriveTok s iid l).Inv := by
  unfold arriveTok
  split
  · exact h
  · split
    · exact h
    · dsimp only
      split
      · exact h
      · split
        · exact inv_scaleEnd h
        · split
          · exact inv_markQueued h
          · split
            · exact inv_frsArrive h
            · split
              · exact inv_orphan h
              · exact h

theorem inv_execTokenArrival {iid k : Nat} (h : s.Inv) : NextInv (execTokenArrival iid k s) := by
  unfold execTokenArrival
  split
  · exact h
  · split
    · exact h
    · split
      · exact h
      · exact inv_arriveTok h

theorem inv_markFreed {i : Inv} {w : Nat} {b : TBuf} (h : s.Inv) : (markFreed s i w b).Inv := by
  unfold markFreed
  split
  · exact h
  · split
    · split <;> exact h
    · exact h

theorem inv_execTokenAccept {iid k : Nat} {second : Bool} (h : s.Inv) : NextInv (execTokenAccept iid k second s) := by
  unfold execTokenAccept
  dsimp only
  split
  · exact h
  · split
    · exact h
    · split
      · exact h
      · split
        · exact h
        · split
          · split
            · exact inv_arriveTok (inv_markFreed h)
            · exact h
          · exact inv_markFreed h

theorem inv_execCreditReturn {iid k : Nat} (h : s.Inv) : NextInv (execCreditReturn iid k s) := by
  unfold execCreditReturn
  split
  · exact h
  · split
    · exact h
    · split <;> exact h

theorem inv_putBank {b : Nat} {x : Bank} (h : s.Inv) : (s.putBank b x).Inv := inv_of_bytes rfl h

theorem inv_execBankPass {b : Nat} (h : s.Inv) : NextInv (execBankPass b s) := by
  unfold execBankPass
  dsimp only
  split
  · exact inv_putBank h
  · exact h

theorem inv_execBankTokenArrival {b : Nat} (h : s.Inv) : NextInv (execBankTokenArrival b s) := by
  unfold execBankTokenArrival
  dsimp only
  split
  · exact inv_putBank h
  · exact h

theorem inv_execPageWalk {slice : Nat} (h : s.Inv) : NextInv (execPageWalk slice s) := by
  unfold execPageWalk
  split
  · exact h
  · dsimp only
    split
    · exact inv_of_bytes rfl h
    · split
      · rename_i e
        exact inv_of_okPair e (inv_walkOnce (inv_of_bytes rfl h))
      · exact inv_of_bytes rfl h

end Sys2Proof.Machine
end

section
/-! PROOFS. Dot engines and tile tasks keep memory canonical (spec 15_tiles R292 to R313). -/
open Sys2Proof Sys2Proof.Machine

namespace Sys2Proof.Machine

variable {s : State}

theorem inv_scaleStop {e : ReadErr} (h : s.Inv) : FstInv (scaleStop s e) := by
  unfold scaleStop
  split <;> exact h

theorem inv_withVals {v : View} {who : Who} {k : State → List (List FV) → State × Comp} (h : s.Inv)
    (l : ∀ s1 rows, s1.Inv → FstInv (k s1 rows)) : FstInv (withVals v who s k) := by
  unfold withVals
  split
  · exact h
  · split
    · exact inv_scaleStop h
    · rename_i e
      exact l _ _ ((inv_vals h).ok e)

theorem inv_productOut {v : View} {z : Bool} {blocks : Nat → Nat → List (List (FV × FV))} (h : s.Inv) :
    FstInv (productOut s v z blocks) := by
  unfold productOut
  split <;> exact h

theorem inv_compMma {ds : Tab Desc} {m : Msg} (h : s.Inv) : SomeAll FstInv (compMma ds m s) :=
  someAll_then fun _ => someAll_then fun _ => someAll_then fun _ => inv_withVals h (fun _ _ h1 => inv_withVals h1 (fun _ _ h2 =>
    inv_productOut h2))

theorem inv_compImage {terms resid : Bool} {ds : Tab Desc} {m : Msg} (h : s.Inv) : SomeAll FstInv (compImage terms resid ds m s) := by
  unfold compImage
  refine someAll_then fun _ => someAll_then fun _ => ?_
  dsimp only
  split
  · exact h
  · split
    · exact inv_scaleStop h
    · rename_i e
      exact inv_withVals (inv_of_okPair e (inv_scaleBytes h)) (fun _ _ h2 => inv_productOut h2)

theorem inv_decompOut {m : Msg} {d : Desc} {blks : List (List Blk)} (h : s.Inv) : FstInv (decompOut m d blks s) := by
  unfold decompOut
  split
  · exact inv_scaleStop h
  · rename_i e
    have h1 := inv_of_okPair e (inv_scaleBytes h)
    exact h1

theorem inv_compDense {ds : Tab Desc} {m : Msg} (h : s.Inv) : SomeAll FstInv (compDense ds m s) := by
  unfold compDense
  refine someAll_then fun _ => ?_
  split
  · exact h
  · exact inv_decompOut h

theorem inv_compPacked {ds : Tab Desc} {m : Msg} (h : s.Inv) : SomeAll FstInv (compPacked ds m s) := by
  unfold compPacked
  refine someAll_then fun _ => ?_
  dsimp only
  split
  · exact h
  · split
    · exact inv_decompOut h
    · exact h

theorem inv_compZero {ds : Tab Desc} {m : Msg} (h : s.Inv) : SomeAll FstInv (compZero ds m s) := by
  unfold compZero
  refine someAll_then fun _ => ?_
  split <;> exact h

theorem inv_compMap {f : FV → FV} {ds : Tab Desc} {m : Msg} (h : s.Inv) : SomeAll FstInv (compMap f ds m s) :=
  someAll_then fun _ => someAll_then fun _ => inv_withVals h (fun _ _ h1 => h1)

theorem inv_compTrans {ds : Tab Desc} {m : Msg} (h : s.Inv) : SomeAll FstInv (compTrans ds m s) :=
  someAll_then fun _ => someAll_then fun _ => inv_withVals h (fun _ _ h1 => h1)

theorem inv_compRed {ds : Tab Desc} {m : Msg} (h : s.Inv) : SomeAll FstInv (compRed ds m s) :=
  someAll_then fun _ => someAll_then fun _ => inv_withVals h (fun _ _ h1 => h1)

theorem inv_compTopk {ds : Tab Desc} {m : Msg} (h : s.Inv) : SomeAll FstInv (compTopk ds m s) :=
  someAll_then fun _ => someAll_then fun _ => inv_withVals h (fun _ _ h1 => h1)

theorem inv_refreshTiles {m : Msg} (h : s.Inv) : (State.refreshTiles m s).Inv := inv_foldl (fun _ _ h1 => inv_refreshTile h1) h

theorem inv_compute {ds : Tab Desc} {m : Msg} (h : s.Inv) : SomeAll FstInv (compute ds m s) := by
  unfold compute
  dsimp only
  split
  · exact inv_compMma (inv_refreshTiles h)
  · exact inv_compImage (inv_refreshTiles h)
  · split
    · exact inv_compDense (inv_refreshTiles h)
    · exact inv_compPacked (inv_refreshTiles h)
  · exact inv_compImage (inv_refreshTiles h)
  · exact inv_compZero (inv_refreshTiles h)
  · exact inv_compMap (inv_refreshTiles h)
  · exact inv_compMap (inv_refreshTiles h)
  · exact inv_compRed (inv_refreshTiles h)
  · exact inv_compTrans (inv_refreshTiles h)
  · exact inv_compTopk (inv_refreshTiles h)
  · exact inv_compMap (inv_refreshTiles h)
  · exact trivial

theorem inv_leaveRing {shard k : Nat} (h : s.Inv) : (leaveRing shard k s).Inv := by
  unfold leaveRing
  dsimp only
  split <;> exact h

theorem inv_replyTask {m : Msg} {status code done : Nat} (h : s.Inv) : (replyTask m status code done s).Inv :=
  inv_retireK (inv_writeReply h)

theorem inv_retireSlot {shard k : Nat} {m : Msg} {status code done : Nat} (h : s.Inv) : (retireSlot shard k m status code done s).Inv :=
  inv_replyTask (inv_leaveRing h)

theorem inv_enqueueTask {shard : Nat} {m : Msg} (h : s.Inv) : (enqueueTask shard m s).Inv := by
  unfold enqueueTask
  dsimp only
  split
  · rename_i e
    have h1 := inv_of_ok e (inv_writeVa h)
    exact h1
  · exact inv_replyTask h

theorem inv_arriveTask {shard : Nat} {m : Msg} (h : s.Inv) : SomeAll State.Inv (arriveTask shard m s) := by
  unfold arriveTask
  dsimp only
  split
  · exact h
  · split
    · exact trivial
    · split
      · exact inv_replyTask h
      · exact inv_enqueueTask h

theorem inv_engineMsg {op : Nat} {x : TX} (h : s.Inv) : OkAll FstInv (engineMsg op x s) := by
  unfold engineMsg
  dsimp only
  split
  · exact trivial
  · exact okAll_bind (inv_readAtIssue h) fun _ h1 => h1

theorem inv_execXtask {x : TX} (h : s.Inv) : NextInv (execXtask x s) := by
  unfold execXtask
  refine inv_issueJump h (okAll_then fun _ => okAll_bind (inv_engineMsg h) fun _ h1 => okAll_then fun _ => ?_)
  dsimp only
  split
  · rename_i e
    have h2 := inv_of_some e (inv_arriveTask h1)
    exact h2
  · exact h1

theorem inv_execTileTaskCheck {shard : Nat} (h : s.Inv) : NextInv (execTileTaskCheck shard s) := by
  unfold execTileTaskCheck
  dsimp only
  split
  · exact h
  · split
    · exact inv_retireSlot h
    · exact h

theorem inv_startTiles {m : Msg} (h : s.Inv) : (startTiles m s).Inv := by
  unfold startTiles
  dsimp only
  split
  · exact inv_startFill (inv_foldl (fun _ _ h1 => h1) h)
  · exact inv_foldl (fun _ _ h1 => h1) h

theorem inv_stampTop {shard k : Nat} {m : Msg} (h : s.Inv) : (stampTop shard k m s).Inv := by
  unfold stampTop
  dsimp only
  split
  · rename_i e
    exact inv_of_ok e (inv_writeVa h)
  · exact h

theorem inv_startRun {eng : Nat} {m : Msg} {node : Option (Nat × Nat × Nat)} {ds : Tab Desc} (h : s.Inv) : (startRun eng m node ds s).Inv :=
  inv_startTiles h

theorem inv_execTileTaskIssue {shard eng : Nat} (h : s.Inv) : NextInv (execTileTaskIssue shard eng s) := by
  unfold execTileTaskIssue
  split
  · exact inv_retireSlot h
  · split
    · exact inv_startRun (inv_leaveRing (inv_stampTop h))
    · exact h
  · exact h

theorem inv_defTiles {m : Msg} {t : State} (h : s.Inv) (e : defTiles m s = .inr t) : t.Inv := by
  unfold defTiles at e
  dsimp only at e
  split at e
  · cases e
  · split at e
    · cases e
    · cases e
      exact inv_foldl (fun _ _ h1 => h1) h

theorem inv_defRing {m : Msg} {t : State} (h : s.Inv) (e : defRing m s = .inr t) : t.Inv := by
  unfold defRing at e
  dsimp only at e
  split at e
  · cases e
    exact h
  · split at e
    · cases e
    · split at e <;> cases e
      exact h

theorem inv_ringdefBy {fn shard : Nat} {act : Msg → State → Nat ⊕ State} {done : Msg → Nat} (h : s.Inv)
    (k : ∀ m t, act m s = .inr t → t.Inv) : NextInv (ringdefBy fn act done shard s) := by
  unfold ringdefBy
  split
  · split
    · split
      · exact inv_retireSlot h
      · rename_i e
        exact inv_retireSlot (inv_stampTop (k _ _ e))
    · exact h
  · exact h

theorem inv_execRingdefTasks {shard : Nat} (h : s.Inv) : NextInv (execRingdefTasks shard s) := by
  unfold execRingdefTasks
  dsimp only
  split
  · exact h
  · split
    · exact h
    · split <;> exact inv_replyTask h

theorem inv_runDot {eng : Nat} {mine : Msg → Bool} {f : Tab Desc → Msg → State → Option (State × Comp)} (h : s.Inv)
    (k : ∀ ds m s1, s1.Inv → SomeAll FstInv (f ds m s1)) : NextInv (runDot eng mine f s) := by
  unfold runDot
  split
  · exact h
  · rename_i r _
    have ran := k r.descs r.msg _ (inv_refreshTiles (m := r.msg) h)
    split
    · exact h
    · split
      · rename_i e
        have h1 := ran.some e
        dsimp only
        split <;> exact h1
      · rename_i e
        have h1 := ran.some e
        split
        · exact h1
        · exact h
      · exact h

theorem inv_execTmma {eng : Nat} (h : s.Inv) : NextInv (execTmma eng s) := inv_runDot h (fun _ _ _ h1 => inv_compMma h1)

theorem inv_execTmms {eng : Nat} (h : s.Inv) : NextInv (execTmms eng s) := inv_runDot h (fun _ _ _ h1 => inv_compImage h1)

theorem inv_execTdecompDense {eng : Nat} (h : s.Inv) : NextInv (execTdecompDense eng s) := inv_runDot h (fun _ _ _ h1 => inv_compDense h1)

theorem inv_execTdecompPacked {eng : Nat} (h : s.Inv) : NextInv (execTdecompPacked eng s) :=
  inv_runDot h (fun _ _ _ h1 => inv_compPacked h1)

theorem inv_execTresid {eng : Nat} (h : s.Inv) : NextInv (execTresid eng s) := inv_runDot h (fun _ _ _ h1 => inv_compImage h1)

theorem inv_execTzero {eng : Nat} (h : s.Inv) : NextInv (execTzero eng s) := inv_runDot h (fun _ _ _ h1 => inv_compZero h1)

theorem inv_execTcvt {eng : Nat} (h : s.Inv) : NextInv (execTcvt eng s) := inv_runDot h (fun _ _ _ h1 => inv_compMap h1)

theorem inv_execTscale {eng : Nat} (h : s.Inv) : NextInv (execTscale eng s) := inv_runDot h (fun _ _ _ h1 => inv_compMap h1)

theorem inv_execTred {eng : Nat} (h : s.Inv) : NextInv (execTred eng s) := inv_runDot h (fun _ _ _ h1 => inv_compRed h1)

theorem inv_execTtrans {eng : Nat} (h : s.Inv) : NextInv (execTtrans eng s) := inv_runDot h (fun _ _ _ h1 => inv_compTrans h1)

theorem inv_execTtopk {eng : Nat} (h : s.Inv) : NextInv (execTtopk eng s) := inv_runDot h (fun _ _ _ h1 => inv_compTopk h1)

theorem inv_execTact {eng : Nat} (h : s.Inv) : NextInv (execTact eng s) := inv_runDot h (fun _ _ _ h1 => inv_compMap h1)

theorem inv_execDotEngineFaultStop {eng : Nat} (h : s.Inv) : NextInv (execDotEngineFaultStop eng s) := by
  unfold execDotEngineFaultStop
  split
  · exact h
  · split
    · exact h
    · split
      · rename_i e
        have h1 := inv_of_somePair e (inv_compute h)
        exact h1
      · exact h

theorem inv_dotChunk {eng : Nat} {r : DotRun} {chunk : Nat} (h : s.Inv) : (dotChunk eng r chunk s).Inv := by
  unfold dotChunk
  split
  · exact h
  · split
    · exact h
    · dsimp only
      split <;> exact inv_tileWrite h

theorem inv_ringPop {key : Nat} (h : s.Inv) : (ringPop key s).Inv := by
  unfold ringPop
  split <;> exact h

theorem inv_finishTiles {r : DotRun} (h : s.Inv) : (finishTiles r s).Inv := by
  unfold finishTiles
  refine inv_foldl (fun _ _ h1 => ?_) h
  split
  · split
    · split
      · exact inv_ringPop h1
      · exact h1
    · split
      · exact inv_ringPop h1
      · exact h1
  · split
    · split
      · exact inv_ringPop h1
      · exact h1
    · split
      · exact inv_ringPop h1
      · exact h1

theorem inv_stopTiles {r : DotRun} {fault : Bool} (h : s.Inv) : (stopTiles r fault s).Inv := inv_foldl (fun _ _ h1 => h1) h

theorem inv_retireCancels {cs : List (Nat × Nat)} (h : s.Inv) : (retireCancels cs s).Inv := inv_foldl (fun _ _ h1 => h1) h

theorem inv_closeRun {eng : Nat} {r : DotRun} {st code done : Nat} (h : s.Inv) : (closeRun eng r st code done s).Inv := by
  unfold closeRun
  refine inv_retireCancels (inv_writeReply ?_)
  split
  · dsimp only
    split
    · exact inv_recThread (inv_stopTiles h)
    · exact inv_stopTiles h
  · exact inv_finishTiles h

theorem inv_execTileTaskRetire {eng : Nat} (h : s.Inv) : NextInv (execTileTaskRetire eng s) := by
  unfold execTileTaskRetire
  split
  · exact h
  · split
    · exact h
    · dsimp only
      split
      · exact inv_retireK (inv_closeRun h)
      · split
        · exact inv_closeRun h
        · split
          · exact inv_closeRun h
          · split
            · rename_i e
              exact inv_endIfDone (inv_of_some e (inv_pass (inv_closeRun h)))
            · exact h

theorem inv_refuseNode {c : Ctx} {m : Msg} {st code : Nat} (h : s.Inv) : SomeAll State.Inv (refuseNode c m st code s) :=
  inv_done (inv_writeReply h)

theorem inv_execTileNodeFire {op : BitVec 8} {w : NW} (h : s.Inv) : NextInv (execTileNodeFire op w s) := by
  unfold execTileNodeFire
  refine inv_fire h (fun _ h1 => ?_)
  dsimp only
  split
  · exact trivial
  · split
    · exact inv_refuseNode h1
    · split
      · exact inv_poisonEnd h1
      · exact inv_refuseNode (inv_recElem h1)
      · rename_i e
        have h2 := inv_of_okPair e (inv_readVa h1)
        split
        · exact inv_refuseNode h2
        · split
          · exact inv_refuseNode h2
          · split
            · exact inv_refuseNode h2
            · split
              · exact trivial
              · exact trivial
              · exact inv_refuseNode h2
              · exact inv_active (inv_startRun h2)

end Sys2Proof.Machine
end

section
/-! PROOFS. Fetching and the count of a cycle keep memory canonical (spec 02_machine R40, 16_counters R315 to R322). -/
open Sys2Proof Sys2Proof.Machine

namespace Sys2Proof.Machine

variable {s : State}

theorem inv_reachLine {x : Xl} (h : s.Inv) : (reachLine s x).Inv := by
  unfold reachLine
  refine inv_refresh ?_
  split
  · exact inv_bring h
  · exact h

theorem inv_fetchThread {tid : Nat} (h : s.Inv) : FstInv (fetchThread tid s) := by
  unfold fetchThread
  split
  · exact h
  · dsimp only
    split
    · exact h
    · split
      · split
        · exact h
        · split
          · exact h
          · split
            · exact h
            · rename_i e
              split <;> exact inv_reachLine (inv_of_okPair e (inv_translate h))
      · split
        · exact h
        · split
          · exact h
          · split
            · exact h
            · rename_i e
              split <;> exact inv_reachLine (inv_of_okPair e (inv_translate h))

theorem inv_fetchNode {iid node tag : Nat} (h : s.Inv) : FstInv (fetchNode iid node tag s) := by
  unfold fetchNode
  split
  · exact h
  · split
    · exact h
    · split
      · exact h
      · split <;> exact h

theorem inv_countNode {iid cycles : Nat} {e : Nat × Node} (h : s.Inv) : (countNode iid cycles s e).Inv := by
  unfold countNode
  split
  · exact h
  · split
    · exact h
    · dsimp only
      split <;> exact h

theorem inv_countCells {cycles : Nat} (h : s.Inv) : (countCells cycles s).Inv :=
  inv_foldl (fun _ _ h1 => h1) (inv_foldl (fun _ _ h1 => h1) h)

theorem inv_countCycles {cycles : Nat} (h : s.Inv) : (countCycles cycles s).Inv := by
  unfold countCycles
  split
  · exact h
  · exact inv_countCells (inv_foldl (fun _ _ h1 => inv_foldl (fun _ _ h2 => inv_countNode h2) h1) h)

theorem inv_endFinished (h : s.Inv) : (endFinished s).Inv := inv_foldl (fun _ _ h1 => inv_endIfDone h1) h

theorem inv_afterWord {o : Out} (k : NextInv o) : NextInv (afterWord o) := by
  cases o with
  | next t => exact inv_endFinished k
  | fault f => trivial
  | refused r => trivial

theorem inv_passTime {ns cycles : Nat} (h : s.Inv) : (passTime ns cycles s).Inv := inv_countCycles h

end Sys2Proof.Machine
end

section
/-! PROOFS. Drains, waves and saves of an invocation keep memory canonical (spec 12_nodes R242 to R246, 17_faults R332 to R337). -/
open Sys2Proof Sys2Proof.Machine

namespace Sys2Proof.Machine

variable {s : State}

theorem inv_blockWords {iid : Nat} {bad : List (Nat × W)} (h : s.Inv) : (blockWords s iid bad).Inv := by
  unfold blockWords
  split
  · exact h
  · dsimp only
    split
    · exact inv_recElem h
    · exact h

theorem inv_deltaHead {m : Msg} {va : Nat} (h : s.Inv) : OkAll FstInv (deltaHead s m va) := by
  unfold deltaHead
  split
  · exact h
  · exact inv_readVa h

theorem inv_readDelta {m : Msg} {i : Inv} {va : Nat} (h : s.Inv) : FstInv (readDelta s m i va) := by
  unfold readDelta
  split
  · exact h
  · rename_i e
    have h1 := inv_of_okPair e (inv_deltaHead h)
    dsimp only
    split
    · exact h1
    · split
      · exact h1
      · rename_i e1
        split <;> exact (inv_of_okPair e1 (inv_readVa h1))

theorem inv_refuseRead {m : Msg} {e : Nat × W} (h : s.Inv) : (refuseRead m e s).Inv := inv_graphReply (inv_recSender h)

theorem inv_refuseFor {m : Msg} {e : ReadErr} (h : s.Inv) : (refuseFor m e s).Inv := inv_refuseRead h

theorem inv_startDelta {m : Msg} {iid va : Nat} {begin : Inv → Inv} (h : s.Inv) : (startDelta m iid va begin s).Inv := by
  unfold startDelta
  split
  · exact inv_graphReply h
  · split
    · rename_i e
      exact inv_refuseFor (inv_of_pair e (inv_readDelta h))
    · rename_i e
      exact inv_graphReply (inv_blockWords (inv_of_pair e (inv_readDelta h)))
    · rename_i e
      exact inv_onInv (inv_of_pair e (inv_readDelta h))

theorem inv_endGraphCmd {iid status : Nat} (h : s.Inv) : (endGraphCmd iid status s).Inv := by
  unfold endGraphCmd
  split
  · exact h
  · dsimp only
    split
    · exact inv_graphReply h
    · exact h

theorem inv_execDeltaDrainComplete {iid : Nat} (h : s.Inv) : NextInv (execDeltaDrainComplete iid s) := by
  unfold execDeltaDrainComplete
  split
  · exact h
  · split
    · exact inv_endGraphCmd h
    · exact h

theorem inv_waveFlush {c : Ctx} (h : c.s.Inv) : SomeAll (SomeAll State.Inv) (waveFlush c) := by
  unfold waveFlush
  dsimp only
  split
  · split
    · exact trivial
    · exact h
  · split
    · split
      · exact trivial
      · exact h
    · split
      · exact inv_passSt h
      · split <;> exact trivial

theorem inv_waveTurn {c : Ctx} (h : c.s.Inv) : SomeAll State.Inv (waveTurn c) := by
  unfold waveTurn
  dsimp only
  split
  · exact trivial
  · split
    · exact trivial
    · exact inv_foldl (fun _ _ h1 => inv_orphanField h1) h

theorem inv_endWave {iid : Nat} (h : s.Inv) : (endWave iid s).Inv := by
  unfold endWave
  split
  · exact h
  · split
    · exact inv_endGraphCmd h
    · exact h

theorem inv_execFreshetNodeReconfig {iid node : Nat} (h : s.Inv) : NextInv (execFreshetNodeReconfig iid node s) := by
  unfold execFreshetNodeReconfig
  split
  · exact h
  · split
    · exact h
    · dsimp only
      split
      · exact h
      · split
        · rename_i e
          split at e
          · cases e
          · exact (inv_waveFlush (by exact h)).some e
        · exact h
        · split
          · rename_i e
            exact inv_endWave (inv_of_some e (inv_waveTurn h))
          · exact h

theorem inv_dumpStalls {who : Who} {i : Inv} {base : Nat} {ns : List Nat} (h : s.Inv) : FstInv (dumpStalls who i base ns s) := by
  induction ns generalizing s with
  | nil => exact h
  | cons n ns ih =>
    unfold dumpStalls
    split
    · rename_i e
      exact ih (inv_of_ok e (inv_writeVa h))
    · exact h

theorem inv_execStallNoeos {iid : Nat} (h : s.Inv) : NextInv (execStallNoeos iid s) := by
  unfold execStallNoeos
  split
  · exact h
  · split
    · exact inv_recElem (inv_onInv (inv_dumpStalls h))
    · exact h

theorem inv_writeUpTo {who : Who} {va k : Nat} {bs : List Byte} (h : s.Inv) : FstInv (writeUpTo who va k bs s) := by
  induction k generalizing va bs s with
  | zero => exact h
  | succ k ih =>
    cases bs with
    | nil => exact h
    | cons b bs =>
      unfold writeUpTo
      split
      · rename_i e
        exact ih (inv_of_ok e (inv_writeVa h))
      · exact h

theorem inv_holdOut {iid : Nat} (h : s.Inv) : (holdOut iid s).Inv := inv_onInv h

theorem inv_finishCommand {iid : Nat} {i : Inv} {m : Msg} (h : s.Inv) : (finishCommand iid i m s).Inv := by
  unfold finishCommand
  dsimp only
  split
  · exact inv_graphReply (inv_endInv h)
  · split
    · rename_i e
      have h1 := inv_of_pair e (inv_writeUpTo h)
      split
      · exact inv_graphReply (inv_holdOut h1)
      · exact inv_graphReply (inv_endInv h1)
    · rename_i e
      have h1 := inv_of_pair e (inv_writeUpTo h)
      exact inv_refuseRead (inv_endInv (inv_saveWrite h1))

theorem inv_finishScheduler {iid : Nat} {i : Inv} (h : s.Inv) : (finishScheduler iid i s).Inv := inv_holdOut h

theorem inv_finishSave {iid : Nat} (h : s.Inv) : (finishSave iid s).Inv := by
  unfold finishSave
  split
  · exact h
  · split
    · exact inv_finishCommand h
    · exact inv_finishScheduler h
    · exact h

theorem inv_markSaving {iid : Nat} {ns : List Nat} (h : s.Inv) : (markSaving iid ns s).Inv := inv_foldl (fun _ _ h1 => h1) h

theorem inv_startSnap {iid : Nat} {i : Inv} (h : s.Inv) : (startSnap iid i s).Inv := inv_markSaving h

theorem inv_snapStep {iid : Nat} (h : s.Inv) : (snapStep iid s).Inv := by
  unfold snapStep
  split
  · exact h
  · split
    · exact inv_finishSave h
    · exact h

theorem inv_execSnapNodeSave {iid node : Nat} (h : s.Inv) : NextInv (execSnapNodeSave iid node s) := by
  unfold execSnapNodeSave
  split
  · exact h
  · split
    · exact h
    · split
      · exact inv_snapStep (inv_markSaving h)
      · exact h

theorem inv_execLinkTokenRecord {iid k : Nat} (h : s.Inv) : NextInv (execLinkTokenRecord iid k s) := by
  unfold execLinkTokenRecord
  split
  · exact h
  · split
    · exact h
    · split
      · exact inv_snapStep h
      · exact h

theorem inv_execSnapForcedSave {iid : Nat} (h : s.Inv) : NextInv (execSnapForcedSave iid s) := by
  unfold execSnapForcedSave
  split
  · exact h
  · split
    · exact inv_finishSave h
    · exact h

theorem inv_execDrainComplete {iid : Nat} (h : s.Inv) : NextInv (execDrainComplete iid s) := by
  unfold execDrainComplete
  split
  · exact h
  · split
    · exact inv_finishSave h
    · exact h

end Sys2Proof.Machine
end

section
/-! PROOFS. Launching an invocation keeps memory canonical (spec 02_machine R38, 08_memories R139, R144, 12_nodes R235 to R238). -/
open Sys2Proof Sys2Proof.Machine

namespace Sys2Proof.Machine

variable {s : State}

theorem inv_planOf {im : Image} {die pw : Nat} {sec : List Byte} (h : s.Inv) : SomeAll FstInv (planOf s im die pw sec) := by
  unfold planOf
  dsimp only
  split
  · split
    · exact trivial
    · exact inv_putPlaced h
  · split
    · exact trivial
    · split
      · exact inv_putPlaced h
      · split
        · exact inv_putPlaced h
        · exact h

theorem inv_usePlan {iid : Nat} {id : List Byte} (h : s.Inv) : (usePlan s iid id).Inv := by
  unfold usePlan
  dsimp only
  split
  · exact h
  · exact inv_onInv (inv_putPlaced h)

theorem inv_dropBinds {m : Msg} (h : s.Inv) : (dropBinds m s).Inv := inv_onSender h

theorem inv_keepBinds {m : Msg} {iid : Nat} (h : s.Inv) : (keepBinds m iid s).Inv := inv_onSender h

theorem inv_failLaunch {m : Msg} {status : Nat} (h : s.Inv) : (failLaunch m status s).Inv := inv_graphReply (inv_dropBinds h)

theorem inv_takeCores {r : Region} {iid part : Nat} (h : s.Inv) : (takeCores r iid part s).Inv :=
  inv_of_bytes (s := s) (foldl_same Mem.bytes (fun m c => by rfl) _ s.mem) h

theorem inv_zeroMere {who : Who} {va n : Nat} (h : s.Inv) : OkAll State.Inv (zeroMere who va n s) := by
  induction n generalizing va s with
  | zero => exact h
  | succ n ih =>
    unfold zeroMere
    split
    · rename_i e
      exact ih (inv_of_ok e (inv_writeVa h))
    · exact trivial

theorem inv_writeNet {who : Who} {va : Nat} {bs : List Byte} (h : s.Inv) : OkAll State.Inv (writeNet s who va bs) := by
  unfold writeNet
  split
  · rename_i e
    exact inv_of_ok e (inv_writeVa h)
  · exact trivial

/-- A name found open in the directory takes a handle. -/
theorem inv_openNamed {name : List Byte} {owner ctxid : Nat} (h : s.Inv) :
    SomeAll (fun r => r.1.1.Inv) ((openable s name owner).bind fun o => (openObj s ctxid o false).map fun r => (r, o)) :=
  someAll_then fun _ => someAll_map (inv_openObj h) fun _ h1 => h1

theorem inv_openScorers {m : Msg} {xs : List (Nat × Nat)} (h : s.Inv) : OkAll (SomeAll FstInv) (openScorers m xs s) := by
  induction xs generalizing s with
  | nil => exact h
  | cons x xs ih =>
    unfold openScorers
    split
    · exact trivial
    · rename_i e
      have h1 := inv_of_okPair e (inv_readVa h)
      split
      · exact trivial
      · rename_i e
        have h2 : State.Inv _ := (inv_openNamed h1).some e
        dsimp only
        split
        · rename_i e
          exact (ih h2).ok e
        · exact ih h2

theorem inv_openNet {m : Msg} {im : Image} {va : Nat} (h : s.Inv) : OkAll (SomeAll FstInv) (openNet m im va s) := by
  unfold openNet
  refine okAll_bind (inv_readVa h) fun _ h1 => ?_
  split
  · split
    · exact trivial
    · refine okAll_bind (inv_readVa h1) fun _ h2 => okAll_bind (inv_readVa h2) fun _ h3 => ?_
      split
      · split
        · exact trivial
        · refine okAll_bind (inv_openScorers h3) fun _ h4 => ?_
          split
          · exact trivial
          · exact okAll_bind (inv_zeroMere h4) fun _ h5 => okAll_bind (inv_writeNet h5) fun _ h6 => h6

theorem inv_installInv {m : Msg} {iid part : Nat} {i : Inv} (h : s.Inv) : (installInv m iid part i s).Inv :=
  inv_usePlan (inv_takeCores (inv_keepBinds h))

theorem inv_launchGraph {m : Msg} {iid part : Nat} {i : Inv} {before after : State} (h : before.Inv) (h1 : after.Inv) :
    (launchGraph m iid part i before after).Inv := by
  unfold launchGraph
  dsimp only
  split
  · exact inv_graphReply (inv_installInv h1)
  · split
    · exact inv_refuseFor h
    · split
      · exact inv_graphReply (inv_recThread h)
      · exact inv_graphReply h
    · rename_i e
      have h2 := inv_of_pair e (inv_readDelta (inv_installInv h1))
      exact inv_graphReply h2

theorem inv_failBlocked {m : Msg} {e : Place × W} (h : s.Inv) : (failBlocked m e s).Inv := inv_failLaunch (inv_recThread h)

theorem inv_launchAt {m : Msg} {r : Request} {x0 y0 : Nat} (h : s.Inv) : SomeAll State.Inv (launchAt m r x0 y0 s) := by
  unfold launchAt
  split
  · exact inv_failLaunch h
  · dsimp only
    split
    · exact inv_failLaunch h
    · split
      · exact inv_failLaunch h
      · rename_i e
        have h1 := inv_of_somePair e (inv_planOf h)
        split
        · exact inv_failBlocked h
        · split
          · exact trivial
          · split
            · exact inv_failLaunch h
            · split
              · split
                · exact inv_refuseFor (inv_dropBinds h)
                · exact inv_failLaunch h
                · rename_i s2 _ e1
                  have h2 : s2.Inv := (inv_openNet (s := grantTags _ _ _) h1).ok e1
                  exact inv_graphReply (inv_installInv h2)
              · exact inv_launchGraph h h1

theorem inv_restoreTables {x : Option Saved} {r : Region} (h : s.Inv) : (restoreTables x r s).Inv := by
  unfold restoreTables
  split <;> exact h

theorem inv_readArea {m : Msg} (h : s.Inv) : OkAll FstInv (readArea s m) := by
  unfold readArea
  split
  · exact trivial
  · rename_i e
    exact inv_of_okPair e (inv_readVa h)

theorem inv_restoreGraphAt {m : Msg} {r : Request} {x0 y0 : Nat} (h : s.Inv) : SomeAll State.Inv (restoreGraphAt m r x0 y0 s) := by
  unfold restoreGraphAt
  dsimp only
  split
  · exact inv_failLaunch h
  · split
    · exact inv_failLaunch h
    · split
      · exact inv_failLaunch h
      · rename_i e
        have h1 := inv_of_somePair e (inv_planOf h)
        split
        · exact inv_failBlocked h
        · split
          · exact trivial
          · split
            · exact inv_refuseFor (inv_dropBinds h)
            · rename_i e1
              have h2 := inv_of_okPair e1 (inv_readArea h1)
              split
              · exact inv_failLaunch h
              · exact inv_graphReply (inv_restoreTables (inv_installInv h2))

theorem inv_carrySeqs {old new : Inv} (h : s.Inv) : (carrySeqs old new s).Inv := by
  unfold carrySeqs
  refine inv_foldl (fun _ _ h1 => ?_) h
  split <;> exact h1

theorem inv_restoreNetAt {m : Msg} {r : Request} {x0 y0 iid : Nat} {i : Inv} (h : s.Inv) : (restoreNetAt m r x0 y0 iid i s).Inv := by
  unfold restoreNetAt
  dsimp only
  split
  · exact inv_refuseFor h
  · rename_i e
    have h1 := inv_of_okPair e (inv_readArea h)
    split
    · exact inv_failLaunch h
    · exact inv_graphReply (inv_restoreTables (inv_takeCores (inv_carrySeqs h1)))

theorem inv_restoreHeld {r : Request} {x0 y0 : Nat} {i : Inv} (h : s.Inv) : (restoreHeld r x0 y0 i s).Inv := inv_takeCores (inv_carrySeqs h)

end Sys2Proof.Machine
end

section
/-! PROOFS. Graph commands and the region scheduler keep memory canonical (spec 12_nodes R236 to R246, 17_faults R330 to R333). -/
open Sys2Proof Sys2Proof.Machine

namespace Sys2Proof.Machine

variable {s : State}

theorem inv_sendGraph {die : Nat} {m : Msg} (h : s.Inv) : (sendGraph die m s).Inv := inv_sendCmd h

theorem inv_execGlaunch {x : TX} (h : s.Inv) : NextInv (execGlaunch x s) := by
  unfold execGlaunch
  refine inv_issueJump h (okAll_then fun _ => okAll_then fun _ => ?_)
  dsimp only
  split
  · exact okAll_bind (Q := FstInv) h fun _ h1 => inv_sendGraph h1
  · exact okAll_bind (inv_readAtIssue h) fun _ h1 => inv_sendGraph h1

theorem inv_execGlaunchDelta {x : TX} (h : s.Inv) : NextInv (execGlaunchDelta x s) :=
  inv_issueJump h (okAll_then fun _ => okAll_then fun _ => okAll_bind (inv_readAtIssue h) fun _ h1 => inv_sendGraph h1)

theorem inv_saveIssue {op : Nat} {x : TX} (h : s.Inv) : OkAll State.Inv (saveIssue op x s) := by
  unfold saveIssue
  refine okAll_then fun _ => ?_
  dsimp only
  split
  · exact okAll_bind (Q := FstInv) h fun _ h1 => inv_sendGraph h1
  · exact okAll_bind (inv_xlates h) fun _ h1 => inv_sendGraph h1

theorem inv_execGstop {x : TX} (h : s.Inv) : NextInv (execGstop x s) := inv_issueJump h (inv_saveIssue h)

theorem inv_execGsnap {x : TX} (h : s.Inv) : NextInv (execGsnap x s) := inv_issueJump h (inv_saveIssue h)

theorem inv_execGrest {x : TX} (h : s.Inv) : NextInv (execGrest x s) :=
  inv_issueJump h (okAll_then fun _ => okAll_bind (inv_readAtIssue h) fun _ h1 => inv_sendGraph h1)

theorem inv_execGbank {x : TX} (h : s.Inv) : NextInv (execGbank x s) := inv_issueJump h (okAll_then fun _ => inv_sendGraph h)

theorem inv_execGpart {x : TX} (h : s.Inv) : NextInv (execGpart x s) := inv_issueJump h (okAll_then fun _ => inv_sendGraph h)

theorem inv_queryIssue {x : TX} (h : s.Inv) : OkAll State.Inv (queryIssue x s) :=
  okAll_then fun _ => okAll_bind (inv_xlates h) fun _ h1 => inv_sendGraph h1

theorem inv_execGqueryStatus {x : TX} (h : s.Inv) : NextInv (execGqueryStatus x s) := inv_issueJump h (inv_queryIssue h)

theorem inv_execGquerySize {x : TX} (h : s.Inv) : NextInv (execGquerySize x s) := inv_issueJump h (inv_queryIssue h)

theorem inv_execGquerySpoil {x : TX} (h : s.Inv) : NextInv (execGquerySpoil x s) := inv_issueJump h (inv_queryIssue h)

theorem inv_execGqueryDump {x : TX} (h : s.Inv) : NextInv (execGqueryDump x s) := inv_issueJump h (inv_queryIssue h)

theorem inv_execFreshet {x : TX} (h : s.Inv) : NextInv (execFreshet x s) :=
  inv_issueJump h (okAll_then fun _ => okAll_bind (inv_readAtIssue h) fun _ h1 => inv_sendGraph h1)

theorem inv_requestImage {m : Msg} {kind die : Nat} {sec : List Byte} {origin : Option (Nat × Nat)} {n : Nat} (h : s.Inv) :
    (requestImage m kind die sec origin n s).Inv := by
  unfold requestImage
  split
  · exact inv_failLaunch h
  · split
    · exact inv_failLaunch h
    · split
      · exact inv_failLaunch h
      · rename_i e
        have h1 := inv_of_somePair e (inv_planOf h)
        split
        · exact inv_failLaunch h
        · split
          · exact inv_failLaunch h
          · split
            · exact inv_failLaunch h
            · exact h1

theorem inv_actLaunch {m : Msg} (h : s.Inv) : (actLaunch m s).Inv := by
  unfold actLaunch
  dsimp only
  split
  · exact inv_failLaunch h
  · split
    · exact inv_failLaunch h
    · exact inv_requestImage h

theorem inv_actRestore {m : Msg} (h : s.Inv) : (actRestore m s).Inv := by
  unfold actRestore
  dsimp only
  split
  · exact inv_failLaunch h
  · split
    · exact inv_failLaunch h
    · split
      · exact inv_failLaunch h
      · split
        · split
          · exact inv_failLaunch h
          · split
            · exact inv_failLaunch h
            · split
              · exact inv_failLaunch h
              · exact h
        · exact inv_requestImage h

theorem inv_actQuery {m : Msg} {iid : Nat} {i : Inv} (h : s.Inv) : (actQuery m iid i s).Inv := by
  unfold actQuery
  split
  · exact inv_graphReply h
  · split
    · split
      · rename_i e
        exact inv_graphReply (inv_onInv (inv_of_ok e (inv_writeVa h)))
      · exact inv_refuseRead h

theorem inv_actBank {m : Msg} {iid : Nat} {i : Inv} (h : s.Inv) : (actBank m iid i s).Inv := by
  unfold actBank
  dsimp only
  split
  · exact inv_graphReply h
  · split
    · exact inv_graphReply h
    · split
      · exact inv_graphReply (inv_foldl (fun _ _ h1 => inv_putBank h1) h)
      · exact inv_graphReply h

theorem inv_actPart {m : Msg} {iid : Nat} {i : Inv} (h : s.Inv) : (actPart m iid i s).Inv := by
  unfold actPart
  dsimp only
  split
  · exact inv_graphReply (inv_of_bytes (s := s) (foldl_same Mem.bytes (fun m c => by rfl) _ s.mem) h)
  · exact inv_graphReply h

theorem inv_actSave {m : Msg} {iid : Nat} {i : Inv} (h : s.Inv) : (actSave m iid i s).Inv := by
  unfold actSave
  dsimp only
  split
  · exact h
  · exact inv_snapStep (inv_startSnap h)

theorem inv_actOn {m : Msg} {iid : Nat} {i : Inv} (h : s.Inv) : (actOn m iid i s).Inv := by
  unfold actOn
  split
  · exact inv_actQuery h
  · split
    · split
      · exact inv_graphReply (inv_endInv h)
      · exact inv_graphReply h
    · split
      · split
        · exact inv_graphReply h
        · exact inv_startDelta h
      · exact inv_startDelta h
      · exact inv_actBank h
      · exact inv_actPart h
      · exact inv_actSave h

theorem inv_graphAct {m : Msg} (h : s.Inv) : (graphAct m s).Inv := by
  unfold graphAct
  split
  · split
    · exact inv_actLaunch h
    · exact inv_actRestore h
  · split
    · exact inv_graphReply h
    · split
      · exact inv_actOn h
      · exact inv_graphReply h

theorem inv_hardTurn {src : Nat} (h : s.Inv) : (hardTurn src s).Inv := by
  unfold hardTurn
  split
  · exact h
  · exact inv_graphAct h

theorem inv_grantMsg {m : Msg} {r : Request} (h : s.Inv) : SomeAll State.Inv (grantMsg m r s) := by
  unfold grantMsg
  split
  · exact inv_failLaunch h
  · split
    · exact inv_failLaunch h
    · split
      · exact inv_launchAt h
      · split
        · exact inv_restoreNetAt h
        · exact inv_failLaunch h
        · exact inv_restoreGraphAt h

theorem inv_execRegionGrant {die : Nat} (h : s.Inv) : NextInv (execRegionGrant die s) := by
  unfold execRegionGrant
  split
  · exact h
  · split
    · exact h
    · split
      · rename_i e
        exact inv_of_some e (inv_grantMsg h)
      · exact h

theorem inv_execSchedulerRestore {iid : Nat} (h : s.Inv) : NextInv (execSchedulerRestore iid s) := by
  unfold execSchedulerRestore
  split
  · exact h
  · split
    · exact h
    · split
      · split
        · exact inv_restoreHeld h
        · exact h
      · exact h

theorem inv_execRequestAging {die i : Nat} (h : s.Inv) : NextInv (execRequestAging die i s) := by
  unfold execRequestAging
  split
  · exact h
  · dsimp only
    split <;> exact h

theorem inv_execQuantumExpiry {iid : Nat} (h : s.Inv) : NextInv (execQuantumExpiry iid s) := by
  unfold execQuantumExpiry
  split
  · exact h
  · split <;> exact h

theorem inv_preemptInv {iid : Nat} {i : Inv} (h : s.Inv) : (preemptInv iid i s).Inv := by
  unfold preemptInv
  dsimp only
  split
  · split
    · exact h
    · exact inv_snapStep (inv_startSnap h)
  · split
    · exact h
    · exact inv_snapStep (inv_startSnap h)

theorem inv_execPreempt {die : Nat} (h : s.Inv) : NextInv (execPreempt die s) := by
  unfold execPreempt
  split
  · exact h
  · split
    · exact h
    · split
      · exact h
      · split
        · exact inv_preemptInv h
        · exact h

end Sys2Proof.Machine
end

section
/-! PROOFS. Rule words and the Basin keep memory canonical (spec 14_rules R277 to R290). -/
open Sys2Proof Sys2Proof.Machine

namespace Sys2Proof.Machine

variable {s : State}

theorem inv_readImage {va : Nat} (h : s.Inv) : OkAll FstInv (readImage va s) := by
  unfold readImage
  refine okAll_then fun _ => okAll_bind (inv_xlate h) fun _ h1 => okAll_then fun _ => ?_
  dsimp only
  split
  · exact trivial
  · split
    · exact trivial
    · exact inv_noteRead h1

theorem inv_reserve {iid : Nat} (h : s.Inv) : (reserve iid s).Inv := inv_onNet h

theorem inv_sendDelta {m : Msg} (h : s.Inv) : (sendDelta m s).Inv := by
  unfold sendDelta
  split
  · exact h
  · exact inv_sendCmd h

theorem inv_deltaBody {op : Nat} {x : TX} {va : Option Nat} {wid : W} (h : s.Inv) : OkAll State.Inv (deltaBody op x va wid s) := by
  unfold deltaBody
  refine okAll_then fun _ => ?_
  dsimp only
  split
  · refine okAll_bind (inv_readImage h) fun _ h1 => okAll_then fun _ => ?_
    split
    · exact h1
    · split
      · exact inv_sendDelta h1
      · split
        · exact h1
        · exact inv_sendDelta (inv_reserve h1)
  · refine okAll_bind (Q := FstInv) h fun _ h1 => okAll_then fun _ => ?_
    split
    · exact h1
    · split
      · exact inv_sendDelta h1
      · split
        · exact h1
        · exact inv_sendDelta (inv_reserve h1)

theorem inv_execWmassert {x : TX} (h : s.Inv) : NextInv (execWmassert x s) := inv_issueJump h (inv_deltaBody h)

theorem inv_execWmretract {x : TX} (h : s.Inv) : NextInv (execWmretract x s) := inv_issueJump h (inv_deltaBody h)

theorem inv_execWmmodify {x : TX} (h : s.Inv) : NextInv (execWmmodify x s) := inv_issueJump h (inv_deltaBody h)

theorem inv_sendRule {checks : List (Acc × Nat × Nat × Nat)} {m : Msg} (h : s.Inv) : OkAll State.Inv (sendRule checks m s) :=
  okAll_then fun _ => okAll_then fun _ => okAll_then fun _ => inv_sendCmd h

theorem inv_execCssel {x : TX} (h : s.Inv) : NextInv (execCssel x s) :=
  inv_issueJump h (okAll_then fun _ => okAll_then fun _ => okAll_then fun _ => inv_sendCmd h)

theorem inv_execCsinfoSummary {x : TX} (h : s.Inv) : NextInv (execCsinfoSummary x s) := inv_issueJump h (inv_sendRule h)

theorem inv_execCsinfoEntry {x : TX} (h : s.Inv) : NextInv (execCsinfoEntry x s) := inv_issueJump h (inv_sendRule h)

theorem inv_execCsclrAll {x : TX} (h : s.Inv) : NextInv (execCsclrAll x s) := inv_issueJump h (inv_sendRule h)

theorem inv_execCsclrRule {x : TX} (h : s.Inv) : NextInv (execCsclrRule x s) := inv_issueJump h (inv_sendRule h)

theorem inv_execRload {x : TX} (h : s.Inv) : NextInv (execRload x s) := inv_issueJump h (inv_sendRule h)

theorem inv_ruleReply {m : Msg} {status count value : Nat} (h : s.Inv) : (ruleReply m status count value s).Inv :=
  inv_dirDone (inv_setResult h)

theorem inv_ruleFail {m : Msg} {e : XKind × Nat} (h : s.Inv) : (ruleFail m e s).Inv := inv_dueTrap (inv_dirDone h)

theorem inv_freeSlotsOf {iid : Nat} {i : Inv} {n : Net} (h : s.Inv) : (freeSlotsOf iid i n s).Inv :=
  inv_onNet (inv_foldl (fun _ _ h1 => inv_mereWrite h1) h)

theorem inv_selectOne {m : Msg} {i : Inv} {n : Net} {x : Nat × Nat × Basin} (h : s.Inv) : (selectOne m i n s x).Inv := by
  unfold selectOne
  split
  · dsimp only
    split
    · rename_i e
      have h1 := inv_of_ok e (inv_writeVa h)
      exact h1
    · exact h

theorem inv_selectNow {m : Msg} {iid : Nat} {i : Inv} {n : Net} (h : s.Inv) : (selectNow m iid i n s).Inv := by
  unfold selectNow
  split
  · exact inv_ruleReply h
  · split
    · exact inv_ruleReply h
    · dsimp only
      split
      · exact inv_ruleReply (inv_freeSlotsOf h)
      · split
        · exact inv_ruleFail (inv_freeSlotsOf h)
        · exact inv_ruleReply (inv_foldl (fun _ _ h2 => inv_selectOne h2) (inv_onNet (inv_freeSlotsOf h)))

theorem inv_execFiringStart {die : Nat} (h : s.Inv) : NextInv (execFiringStart die s) := by
  unfold execFiringStart
  split <;> exact h

theorem inv_infoNow {m : Msg} {n : Net} (h : s.Inv) : (infoNow m n s).Inv := by
  unfold infoNow
  dsimp only
  split
  · rename_i e
    exact inv_ruleReply (inv_of_ok e (inv_writeVa h))
  · exact inv_ruleFail h

theorem inv_clearNow {m : Msg} (h : s.Inv) : (clearNow m s).Inv := inv_ruleReply (inv_foldl (fun _ _ h1 => inv_removeEntry h1) h)

theorem inv_reopen {i : Inv} {xs : List (Nat × Scorer)} (h : s.Inv) : OkAll FstInv (reopen i xs s) := by
  induction xs generalizing s with
  | nil => exact h
  | cons x xs ih =>
    unfold reopen
    split
    · exact trivial
    · rename_i e
      have h1 : State.Inv _ := (inv_openNamed h).some e
      split
      · exact trivial
      · rename_i e
        exact inv_of_okPair e (ih h1)

theorem inv_reloadNow {m : Msg} {iid : Nat} {i : Inv} {n : Net} (h : s.Inv) : (reloadNow m iid i n s).Inv := by
  unfold reloadNow
  dsimp only
  split
  · exact inv_dueTrap (inv_ruleReply h)
  · rename_i e
    exact inv_ruleReply (inv_onNet (inv_foldl (fun _ _ h2 => inv_closeHandle h2) (inv_of_okPair e (inv_reopen h))))

theorem inv_applyNow {m : Msg} (h : s.Inv) : SomeAll State.Inv (applyNow m s) :=
  someAll_intro fun t e => by
    unfold applyNow at e
    split at e
    · cases e
      exact inv_dueTrap (inv_retireC h)
    · split at e
      · cases e
      · cases e
        exact inv_retireC (inv_applyDelta h)

theorem inv_basinTurn {src : Nat} (h : s.Inv) : (basinTurn src s).Inv := by
  unfold basinTurn
  split
  · exact h
  · dsimp only
    split
    · exact inv_getD (inv_applyNow h) h
    · split
      · exact h
      · split
        · exact inv_ruleReply h
        · split
          · exact inv_infoNow h
          · exact inv_clearNow h

theorem inv_execDeltaApply {net : Nat} (h : s.Inv) : NextInv (execDeltaApply net s) := by
  unfold execDeltaApply
  dsimp only
  split
  · exact h
  · split
    · exact inv_getD (inv_applyNow h) h
    · exact h

theorem inv_ruleEnd {c : Cmd} (h : s.Inv) : (ruleEnd c s).Inv := by
  unfold ruleEnd
  dsimp only
  split
  · exact inv_ruleReply h
  · split
    · exact inv_selectNow h
    · exact inv_reloadNow h

theorem inv_rootTake {net : Nat} {i : Inv} {node f : Nat} {t : Tok} (h : s.Inv) : (rootTake s net i node f t).Inv := by
  unfold rootTake
  split
  · exact inv_markQueued h
  · exact h

theorem inv_execDeltaInject {net : Nat} (h : s.Inv) : NextInv (execDeltaInject net s) := by
  unfold execDeltaInject
  split
  · split
    · exact h
    · dsimp only
      split
      · exact h
      · exact inv_rootTake h
  · exact h

end Sys2Proof.Machine
end

section
/-! PROOFS. Engine commands and the moves of a thread keep memory canonical (spec 09_memory_ops R182 to R186, 17_faults R338, R343). -/
open Sys2Proof Sys2Proof.Machine

namespace Sys2Proof.Machine

variable {s : State}

theorem inv_engineBody {op eng : Nat} {hv : Bool} {x : TX} (h : s.Inv) : OkAll State.Inv (engineBody op eng hv x s) :=
  okAll_then fun _ => okAll_bind (inv_engineMsg h) fun _ h1 => okAll_then fun _ => inv_sendCmd h1

theorem inv_execXcopy {x : TX} (h : s.Inv) : NextInv (execXcopy x s) := inv_issueJump h (inv_engineBody h)

theorem inv_execXgath {x : TX} (h : s.Inv) : NextInv (execXgath x s) := inv_issueJump h (inv_engineBody h)

theorem inv_execXscat {x : TX} (h : s.Inv) : NextInv (execXscat x s) := inv_issueJump h (inv_engineBody h)

theorem inv_execXcoll {x : TX} (h : s.Inv) : NextInv (execXcoll x s) := inv_issueJump h (inv_engineBody h)

theorem inv_execXckpt {x : TX} (h : s.Inv) : NextInv (execXckpt x s) := inv_issueJump h (okAll_then fun _ => inv_engineBody h)

theorem inv_execXsend {x : TX} (h : s.Inv) : NextInv (execXsend x s) := by
  unfold execXsend
  refine inv_issueJump h (okAll_then fun _ => okAll_bind (inv_engineMsg h) fun _ h1 => okAll_then fun _ => ?_)
  dsimp only
  split
  · exact inv_sendCmd h1
  · exact inv_writeReply h1

theorem inv_faultCmd {m : Msg} {eng code : Nat} {v : W} (h : s.Inv) : (faultCmd m eng code v s).Inv := inv_recSender h

theorem inv_startCmd {c : Cmd} (h : s.Inv) : (startCmd c s).Inv := by
  unfold startCmd
  dsimp only
  split
  · split
    · exact inv_startFill h
    · exact h
  · split
    · exact inv_startFill h
    · exact h

theorem inv_startCopy {m : Msg} {eng : Nat} (h : s.Inv) : (startCopy m eng s).Inv := by
  unfold startCopy
  split
  · split
    · exact h
    · split
      · exact h
      · exact inv_startCmd h

theorem inv_startRows {m : Msg} {eng : Nat} (h : s.Inv) : (startRows m eng s).Inv := by
  unfold startRows
  dsimp only
  split
  · exact h
  · split
    · exact h
    · split
      · exact h
      · split
        · exact inv_faultCmd h
        · rename_i e
          have h1 := inv_of_okPair e (inv_readVa h)
          split
          · exact h1
          · split
            · exact inv_faultCmd h1
            · exact inv_startCmd h1

theorem inv_spotsOf {who : Who} {acc : Acc} {vs : List (Option Nat)} (h : s.Inv) : OkAll FstInv (spotsOf who acc vs s) := by
  induction vs generalizing s with
  | nil => exact h
  | cons v vs ih =>
    cases v with
    | none =>
      unfold spotsOf
      split
      · exact trivial
      · rename_i e
        exact inv_of_okPair e (ih h)
    | some va =>
      unfold spotsOf
      split
      · exact trivial
      · rename_i e
        have h1 := inv_of_okPair e (inv_translate h)
        split
        · exact trivial
        · rename_i e
          exact inv_of_okPair e (ih h1)

theorem inv_sideSpots {c : Cmd} {src : Bool} {lo n : Nat} (h : s.Inv) : OkAll FstInv (sideSpots c src lo n s) := by
  unfold sideSpots
  split
  · exact h
  · exact inv_spotsOf h

theorem inv_flushLate {mine : Nat × Nat × List Nat × List (Nat × Byte) → Bool} (h : s.Inv) : (flushLate mine s).Inv :=
  inv_foldl (fun _ _ h1 => inv_writeRunsUnc h1) h

theorem inv_keepOld {c : Cmd} {xs : List Xl} (h : s.Inv) : (keepOld c xs s).Inv := by
  unfold keepOld
  split <;> exact h

theorem inv_dataWrite {c : Cmd} {k : Nat} {xs : List Xl} {bs : List Byte} (h : s.Inv) : (dataWrite c k xs bs s).Inv := by
  unfold dataWrite
  split
  · exact inv_writeRunsUnc (inv_keepOld h)
  · dsimp only
    split
    · exact h
    · exact inv_writeRunsUnc h

/-- Poison changes no byte. -/
theorem poisonLines_bytes (m : Mem) (pas : List Nat) : (pas.foldl (fun m p => m.setBad p true) m).bytes = m.bytes :=
  foldl_same Mem.bytes (fun m p => setBad_bytes m p true) pas m

theorem inv_poisonLines {pas : List Nat} (h : s.Inv) : ({ s with mem := pas.foldl (fun m p => m.setBad p true) s.mem }).Inv :=
  inv_of_bytes (s := s) (poisonLines_bytes s.mem pas) h

theorem inv_moveBytes {c : Cmd} {k : Nat} {from_ dest : List Spot} (h : s.Inv) : (moveBytes c k from_ dest s).Inv := by
  unfold moveBytes
  dsimp only
  split
  · split
    · exact inv_poisonLines (inv_dataWrite (inv_refresh (inv_bring h)))
    · exact inv_poisonLines (inv_writeRunsUnc (inv_refresh (inv_bring h)))
  · split
    · exact inv_poisonLines (inv_dataWrite (inv_refresh (inv_bring h)))
    · exact inv_poisonLines (inv_writeRunsUnc (inv_refresh (inv_bring h)))

theorem inv_onCmd {id : Nat} {f : Cmd → Cmd} (h : s.Inv) : (onCmd id f s).Inv := h

theorem inv_endTiles {c : Cmd} (h : s.Inv) : (endTiles c s).Inv := by
  unfold endTiles
  dsimp only
  split
  · split
    · exact inv_flushLate h
    · exact h
  · split
    · exact inv_flushLate h
    · exact h

theorem inv_markChunk {c : Cmd} {k : Nat} (h : s.Inv) : (markChunk c k s).Inv := by
  unfold markChunk
  dsimp only
  split
  · refine inv_endTiles ?_
    split <;> exact h
  · split <;> exact h

theorem inv_failCmd {c : Cmd} {code : Nat} {v : W} (h : s.Inv) : (failCmd c code v s).Inv := inv_recSender h

theorem inv_moveChunk {c : Cmd} {k : Nat} (h : s.Inv) : (moveChunk c k s).Inv := by
  unfold moveChunk
  dsimp only
  split
  · exact inv_failCmd h
  · rename_i e
    split
    · exact inv_failCmd h
    · rename_i e1
      split
      · exact h
      · exact inv_markChunk (inv_moveBytes (inv_of_okPair e1 (inv_sideSpots (inv_of_okPair e (inv_sideSpots h)))))

theorem inv_startColl2 {m : Msg} {eng : Nat} {d : Desc} {list : List Nat} (h : s.Inv) : (startColl2 m eng d list s).Inv := by
  unfold startColl2
  dsimp only
  split
  · exact inv_faultCmd h
  · split
    · exact inv_startCmd (inv_recSender h)
    · rename_i e
      refine inv_startCmd ?_
      split at e
      · exact inv_of_okPair e (inv_readVa h)
      · cases e
        exact h

theorem inv_startColl {m : Msg} {eng : Nat} (h : s.Inv) : (startColl m eng s).Inv := by
  unfold startColl
  split
  · exact h
  · split
    · exact h
    · split
      · exact h
      · split
        · exact inv_faultCmd h
        · rename_i e
          have h1 := inv_of_okPair e (inv_readVa h)
          dsimp only
          split
          · exact h1
          · split
            · exact h1
            · exact inv_startColl2 h1

theorem inv_execReduceContribution {cmd : Nat} {ranks : List Nat} {data : List Byte} (h : s.Inv) :
    NextInv (execReduceContribution cmd ranks data s) := by
  unfold execReduceContribution
  split
  · exact h
  · dsimp only
    split
    · exact h
    · split <;> exact h

theorem inv_collArrive {c : Cmd} {k : Nat} (h : s.Inv) : (collArrive c k s).Inv := by
  unfold collArrive
  dsimp only
  split
  · split
    · exact h
    · split
      · exact inv_failCmd h
      · rename_i e
        exact inv_flushLate (inv_of_okPair e (inv_translates h))
  · split
    · exact h
    · split
      · exact inv_failCmd h
      · rename_i e
        exact inv_flushLate (inv_of_okPair e (inv_translates h))

theorem inv_collChunk {c : Cmd} {k : Nat} (h : s.Inv) : (collChunk c k s).Inv := by
  unfold collChunk
  dsimp only
  split
  · exact h
  · split
    · exact inv_failCmd h
    · rename_i s1 e
      have h1 : s1.Inv := by
        split at e
        · cases e
          exact inv_dataWrite h
        · split at e
          · split at e
            · rename_i e1
              cases e
              exact inv_dataWrite (inv_of_okPair e1 (inv_translatesX h))
            · cases e
          · cases e
            exact h
      refine inv_collArrive (inv_markChunk ?_)
      split
      · split <;> exact h1
      · exact h1

theorem inv_startCkpt {m : Msg} {eng : Nat} (h : s.Inv) : (startCkpt m eng s).Inv := by
  unfold startCkpt
  split
  · exact h
  · split <;> exact h

theorem inv_extentsOf {who : Who} {fuel va : Nat} (h : s.Inv) : OkAll (SomeAll FstInv) (extentsOf who fuel va s) := by
  induction fuel generalizing va s with
  | zero => trivial
  | succ fuel ih =>
    unfold extentsOf
    split
    · exact trivial
    · rename_i e
      have h1 := inv_of_okPair e (inv_readVa h)
      dsimp only
      split
      · exact h1
      · split
        · exact trivial
        · split
          · rename_i e
            exact (ih h1).ok e
          · exact ih h1

theorem inv_streamChunk {c : Cmd} {k : Nat} (h : s.Inv) : (streamChunk c k s).Inv := inv_refresh (inv_bring h)

theorem inv_ckptChunk {c : Cmd} {k : Nat} (h : s.Inv) : (ckptChunk c k s).Inv := by
  unfold ckptChunk
  generalize 2 ^ 59 = fuel
  have found := inv_extentsOf (who := c.msg.who) (fuel := fuel) (va := c.msg.op_ 2) h
  split
  · exact h
  · split
    · split
      · exact inv_failCmd h
      · exact h
      · rename_i e
        exact found.ok e
      · rename_i e
        exact found.ok e
    · split
      · exact h
      · split
        · exact inv_onCmd (inv_streamChunk h)
        · exact h

theorem inv_resumeTiles {c : Cmd} (h : s.Inv) : SomeAll State.Inv (resumeTiles c s) := by
  unfold resumeTiles
  dsimp only
  split
  · split
    · split
      · exact trivial
      · exact h
    · split
      · exact trivial
      · exact h
  · split
    · split
      · exact trivial
      · exact h
    · split
      · exact trivial
      · exact h

theorem inv_startResumed {m : Msg} {eng : Nat} (h : s.Inv) : (startResumed m eng s).Inv := by
  unfold startResumed
  split
  · exact h
  · split
    · exact h
    · rename_i e
      have h1 := inv_of_some e (inv_resumeTiles h)
      split
      · exact inv_endTiles h1
      · exact h1

theorem inv_startEngine {m : Msg} {eng : Nat} (h : s.Inv) : (startEngine m eng s).Inv := by
  unfold startEngine
  split
  · exact inv_startResumed h
  · split
    · exact inv_startCopy h
    · exact inv_startRows h
    · exact inv_startRows h
    · exact inv_startColl h
    · exact inv_startCkpt h

theorem inv_engineTurn {src : Nat} (h : s.Inv) : (engineTurn src s).Inv := by
  unfold engineTurn
  split
  · exact h
  · split
    · exact h
    · exact inv_startEngine h

theorem inv_directoryTurn (h : s.Inv) : (directoryTurn s).Inv := by
  unfold directoryTurn
  split
  · exact h
  · split
    · exact h
    · exact inv_dirTurn h

theorem inv_execActiveMessage {src : Nat} (h : s.Inv) : NextInv (execActiveMessage src s) := by
  unfold execActiveMessage
  split
  · exact trivial
  · split
    · exact inv_basinTurn h
    · split
      · exact inv_hardTurn h
      · split
        · exact inv_directoryTurn h
        · exact inv_engineTurn h

theorem inv_cmdChunk {c : Cmd} {chunk : Nat} (h : s.Inv) : (cmdChunk c chunk s).Inv := by
  unfold cmdChunk
  split
  · exact inv_ckptChunk h
  · split
    · exact h
    · split
      · exact inv_collChunk h
      · split
        · exact inv_moveChunk h
        · exact h

theorem inv_execChunkWritten {cmd chunk : Nat} (h : s.Inv) : NextInv (execChunkWritten cmd chunk s) := by
  unfold execChunkWritten
  dsimp only
  split
  · exact inv_flushLate h
  · split
    · split
      · exact h
      · split
        · split
          · exact h
          · exact inv_cmdChunk h
        · exact inv_cmdChunk h
    · split
      · exact inv_dotChunk h
      · exact h

theorem inv_releaseSrc {c : Cmd} (h : s.Inv) : (releaseSrc c s).Inv := by
  unfold releaseSrc
  split <;> exact h

theorem inv_replyCmd {c : Cmd} {r : Nat × Nat} (h : s.Inv) : (replyCmd c r s).Inv := by
  unfold replyCmd
  refine inv_retireCancels (inv_retireC (inv_writeReply ?_))
  split <;> exact inv_releaseSrc h

theorem inv_cancelOf {me : Nat × Nat} {f : Found} (h : s.Inv) : (cancelOf me f s).Inv := by
  unfold cancelOf
  dsimp only
  split
  · exact h
  · exact inv_retireC (inv_writeReply h)
  · exact h
  · exact inv_retireSlot h
  · exact inv_replyTask h
  · exact h

theorem inv_execXcancel {x : TX} (h : s.Inv) : NextInv (execXcancel x s) :=
  inv_issue h (okAll_then fun _ => okAll_then fun _ => inv_cancelOf h)

theorem inv_execCtxsave {x : TM} (h : s.Inv) : NextInv (execCtxsave x s) := by
  unfold execCtxsave
  refine inv_issue h (okAll_then fun _ => ?_)
  dsimp only
  split
  · exact trivial
  · exact okAll_then fun _ => okAll_bind (inv_xlates h) fun _ h1 => okAll_then fun _ => h1

theorem inv_stopTransfers {tid : Nat} (h : s.Inv) : (stopTransfers tid s).Inv := by
  unfold stopTransfers
  refine inv_foldl (fun _ _ h1 => ?_) h
  split <;> exact h1

theorem inv_savedForm {tid : Nat} (h : s.Inv) : (savedForm tid s).Inv := by
  unfold savedForm
  split
  · exact inv_returnReservations h
  · split <;> exact h

theorem inv_haltSaved {tid : Nat} (h : s.Inv) : (haltSaved tid s).Inv := h

theorem inv_endSave {c : Cmd} (h : s.Inv) : (endSave c s).Inv := by
  unfold endSave
  dsimp only
  have h0 : (dropCmd c.id s).Inv := h
  split
  · exact inv_retireC h0
  · split
    · rename_i e
      exact inv_retireC (inv_haltSaved ((inv_writeVa (inv_savedForm (inv_stopTransfers h0))).ok e))
    · exact inv_dueTrap (inv_retireC h0)

theorem inv_saveTurn {c : Cmd} (h : s.Inv) : (saveTurn c s).Inv := by
  unfold saveTurn
  dsimp only
  split
  · exact inv_endSave h
  · exact h

theorem inv_execEngineReply {cmd : Nat} (h : s.Inv) : NextInv (execEngineReply cmd s) := by
  unfold execEngineReply
  split
  · exact h
  · split
    · exact inv_retireC (inv_tlbInvalidate h)
    · exact inv_saveTurn h
    · split
      · exact inv_ruleEnd h
      · exact h
    · split
      · exact inv_ruleEnd h
      · exact h
    · split
      · exact inv_replyCmd h
      · exact h
    · split
      · exact inv_replyCmd h
      · exact h
    · split
      · exact inv_replyCmd h
      · exact h
    · split
      · exact inv_replyCmd h
      · exact h
    · split
      · exact inv_replyCmd h
      · exact h
    · exact h

theorem inv_execCtxrest {x : TM} (h : s.Inv) : NextInv (execCtxrest x s) := by
  unfold execCtxrest
  refine inv_issue h (okAll_then fun _ => ?_)
  dsimp only
  split
  · exact trivial
  · refine okAll_then fun _ => okAll_bind (inv_readAtIssue h) fun _ h1 => ?_
    split
    · exact trivial
    · split
      · exact trivial
      · refine okAll_bind (inv_readAtIssue h1) fun _ h2 => inv_foldl (fun _ _ h3 => h3) ?_
        split <;> exact h2

theorem inv_deliverStalled {tid eng : Nat} {m : Msg} (h : s.Inv) : (deliverStalled tid eng m s).Inv := by
  unfold deliverStalled
  dsimp only
  split <;> exact h

theorem inv_execStallResume {tid : Nat} (h : s.Inv) : NextInv (execStallResume tid s) := by
  unfold execStallResume
  split
  · exact h
  · split
    · split
      · exact inv_deliverStalled h
      · exact h
    · split
      · rename_i e
        have h1 := inv_of_some e (inv_arriveTask h)
        exact h1
      · exact h
    · split <;> exact h
    · split <;> exact h

end Sys2Proof.Machine
end

section
/-! PROOFS. The endpoint, the command queues, ports and bridges keep memory canonical (spec 18_outside R345 to R359). -/
open Sys2Proof Sys2Proof.Machine

namespace Sys2Proof.Machine

variable {s : State}

theorem inv_putDoorbell {q wr : Nat} (h : s.Inv) : (putDoorbell q wr s).Inv := by
  unfold putDoorbell
  split <;> exact h

theorem inv_putConfig {q reg v : Nat} (h : s.Inv) : (putConfig q reg v s).Inv := by
  unfold putConfig
  dsimp only
  split
  · split <;> exact h
  · exact h

theorem inv_execQueueStatusClear {q : Nat} (h : s.Inv) : NextInv (execQueueStatusClear q s) := by
  unfold execQueueStatusClear
  split <;> exact h

theorem inv_putErrcnt {fnc v : Nat} (h : s.Inv) : (putErrcnt fnc v s).Inv := by
  unfold putErrcnt
  split <;> exact h

theorem inv_execRegisterWrite {kernel : Bool} {fnc off v : Nat} (h : s.Inv) : NextInv (execRegisterWrite kernel fnc off v s) := by
  unfold execRegisterWrite
  split
  · exact h
  · split
    · exact h
    · split
      · exact h
      · split
        · exact h
        · split
          · split
            · dsimp only
              split <;> exact h
            · exact h
          · split <;> exact h

theorem inv_barWrite {fnc off v : Nat} (h : s.Inv) : (barWrite fnc off v s).Inv := by
  unfold barWrite
  split
  · exact h
  · split
    · split
      · exact inv_putErrcnt h
      · exact h
    · split
      · split
        · exact inv_putDoorbell h
        · exact inv_putConfig h
      · exact h

theorem inv_benchRead {x : Queue} {host : Bool} {va n : Nat} (h : s.Inv) : OkAll FstInv (benchRead s x host va n) := by
  unfold benchRead
  split
  · split
    · exact trivial
    · exact h
  · exact inv_readVa h

theorem inv_advanceRd {q : Nat} (h : s.Inv) : (advanceRd q s).Inv := by
  unfold advanceRd
  dsimp only
  split
  · exact inv_homeWrite h
  · split
    · rename_i e
      exact inv_of_ok e (inv_writeVa h)
    · exact h

theorem inv_nextEntry {q : Nat} (h : s.Inv) : OkAll FstInv (nextEntry s q) := by
  unfold nextEntry
  dsimp only
  split
  · exact inv_readVa h
  · exact inv_benchRead h

theorem inv_dispatchCmd {q : Nat} {bs : List Byte} {c : HCmd} (h : s.Inv) : (dispatchCmd q bs c s).Inv := by
  unfold dispatchCmd
  dsimp only
  split
  · exact inv_advanceRd h
  · exact h

theorem inv_takeEntry {q ty : Nat} {f : List Byte → State → Option State} (h : s.Inv) (k : ∀ bs s1, s1.Inv → SomeAll State.Inv (f bs s1)) :
    NextInv (takeEntry q ty s f) := by
  unfold takeEntry
  split
  · exact h
  · split
    · exact h
    · rename_i e
      split
      · exact inv_getD (k _ _ ((inv_nextEntry h).ok e)) h
      · exact h

theorem inv_execThread {q : Nat} (h : s.Inv) : NextInv (execThread q s) := by
  unfold execThread
  refine inv_takeEntry h (fun _ _ h1 => ?_)
  dsimp only
  split
  · exact trivial
  · exact inv_dispatchCmd h1

theorem inv_deltaLaunch {bs : List Byte} {x : Queue} {id : Nat} (h : s.Inv) : (deltaLaunch bs x id s).Inv := by
  unfold deltaLaunch
  dsimp only
  split
  · exact h
  · split
    · exact h
    · split <;> exact h

theorem inv_deltaApply {bs : List Byte} {x : Queue} {id iid : Nat} (h : s.Inv) : (deltaApply bs x id iid s).Inv := by
  unfold deltaApply
  dsimp only
  split
  · exact h
  · split
    · exact h
    · split
      · exact h
      · split <;> exact h

theorem inv_execDelta {q : Nat} (h : s.Inv) : NextInv (execDelta q s) := by
  unfold execDelta
  refine inv_takeEntry h (fun _ _ h1 => ?_)
  dsimp only
  split
  · exact inv_deltaLaunch (inv_dispatchCmd h1)
  · exact inv_deltaApply (inv_dispatchCmd h1)

theorem inv_execIndirect {q : Nat} (h : s.Inv) : NextInv (execIndirect q s) := by
  unfold execIndirect
  refine inv_takeEntry h (fun _ _ h1 => ?_)
  dsimp only
  split
  · exact h1
  · split <;> exact h1

theorem inv_execWaitsig {q : Nat} (h : s.Inv) : NextInv (execWaitsig q s) := by
  unfold execWaitsig
  refine inv_takeEntry h (fun _ _ h1 => ?_)
  split
  · exact trivial
  · rename_i e
    have h2 := inv_of_okPair e (inv_readVa h1)
    split
    · exact trivial
    · exact inv_dispatchCmd h2

theorem inv_execWrite {q : Nat} (h : s.Inv) : NextInv (execWrite q s) := by
  unfold execWrite
  refine inv_takeEntry h (fun _ _ h1 => inv_dispatchCmd ?_)
  split
  · rename_i e
    have h2 := inv_of_ok e (inv_writeVa h1)
    exact h2
  · exact h1

theorem inv_execIllegalCommandEntry {q : Nat} (h : s.Inv) : NextInv (execIllegalCommandEntry q s) := by
  unfold execIllegalCommandEntry
  split
  · exact h
  · split
    · exact h
    · rename_i e
      have h1 := inv_of_okPair e (inv_nextEntry h)
      split
      · exact h
      · exact h1

theorem inv_benchWrite {q va : Nat} {f : State → Nat → Nat} (h : s.Inv) : (benchWrite q va f s).Inv := by
  unfold benchWrite
  dsimp only
  split
  · exact h
  · rename_i e
    exact inv_writeRuns (inv_of_okPair e (inv_translates h))

theorem inv_execCommandComplete {id : Nat} (h : s.Inv) : NextInv (execCommandComplete id s) := by
  unfold execCommandComplete
  split
  · exact h
  · split
    · exact h
    · dsimp only
      split
      · dsimp only
        split
        · split
          · split
            · exact h
            · exact inv_benchWrite h
          · refine inv_benchWrite ?_
            split
            · exact h
            · exact inv_benchWrite h
        · split
          · split
            · exact h
            · exact inv_benchWrite h
          · refine inv_benchWrite ?_
            split
            · exact h
            · exact inv_benchWrite h
      · split
        · split
          · split
            · exact h
            · exact inv_benchWrite h
          · refine inv_benchWrite ?_
            split
            · exact h
            · exact inv_benchWrite h
        · split
          · split
            · exact h
            · exact inv_benchWrite h
          · refine inv_benchWrite ?_
            split
            · exact h
            · exact inv_benchWrite h

theorem inv_execHostApertureRead {fnc off len : Nat} (h : s.Inv) : NextInv (execHostApertureRead fnc off len s) := by
  unfold execHostApertureRead
  dsimp only
  split
  · exact h
  · split
    · exact h
    · rename_i e
      have h1 := inv_of_okPair e (inv_reachVa h)
      exact h1

theorem inv_execHostApertureWrite {fnc off : Nat} {data : List Byte} (h : s.Inv) : NextInv (execHostApertureWrite fnc off data s) := by
  unfold execHostApertureWrite
  split
  · exact h
  · split
    · exact h
    · rename_i e
      exact inv_of_ok e (inv_writeVa h)

theorem inv_execHostReadTimeout {tid i : Nat} (h : s.Inv) : NextInv (execHostReadTimeout tid i s) := by
  unfold execHostReadTimeout
  split
  · exact h
  · dsimp only
    split
    · exact inv_retire h
    · split
      · exact inv_retire h
      · exact h

theorem inv_peerRmw {pa n : Nat} {f : Nat → State} (h : s.Inv) (k : ∀ old, (f old).Inv) : (peerRmw s pa n f).Inv := by
  unfold peerRmw
  dsimp only
  split
  · exact inv_refresh h
  · exact k _

theorem inv_peerAct {r : PeerReq} (h : s.Inv) : (peerAct r s).Inv := by
  unfold peerAct
  split
  · exact inv_refresh h
  · exact inv_homeWrite h
  · exact inv_peerRmw h (fun _ => inv_homeWrite h)
  · refine inv_peerRmw h (fun _ => ?_)
    split
    · exact inv_homeWrite h
    · exact h
  · exact inv_peerRmw h (fun _ => inv_arrive h)

theorem inv_execPeerRequest {r : PeerReq} (h : s.Inv) : NextInv (execPeerRequest r s) := by
  unfold execPeerRequest
  split
  · exact inv_peerAct h
  · exact trivial

theorem inv_execFlitReceive {port : Nat} {flit : List Byte} (h : s.Inv) : NextInv (execFlitReceive port flit s) := by
  unfold execFlitReceive
  dsimp only
  split <;> exact h

theorem inv_execFlitReplay {port : Nat} (h : s.Inv) : NextInv (execFlitReplay port s) := by
  unfold execFlitReplay
  dsimp only
  split
  · split <;> exact h
  · exact h

theorem inv_moveFlit {but : Nat} {f : List Byte} (h : s.Inv) : (moveFlit but s f).Inv := by
  unfold moveFlit
  split <;> exact h

theorem inv_execPortDown {port : Nat} (h : s.Inv) : NextInv (execPortDown port s) := by
  unfold execPortDown
  dsimp only
  split
  · exact inv_logEvent (inv_foldl (fun _ _ h1 => h1) (inv_foldl (fun _ _ h1 => inv_moveFlit h1) h))
  · exact h

theorem inv_offerFlit {f : Flit} (h : s.Inv) : (offerFlit f s).Inv := by
  unfold offerFlit
  split
  · split <;> exact h
  · exact h

theorem inv_takeFlit {p : Nat} (h : s.Inv) : (takeFlit p s).Inv := by
  unfold takeFlit
  dsimp only
  split <;> exact h

theorem inv_sendFlit {p : Nat} (h : s.Inv) : (sendFlit p s).Inv := by
  unfold sendFlit
  dsimp only
  split
  · exact h
  · split
    · split <;> exact h
    · split <;> exact h

theorem inv_createQueue {bridge qp : Nat} {x : NvmeQ} (h : s.Inv) : (createQueue bridge qp x s).Inv := by
  unfold createQueue
  dsimp only
  split <;> exact h

theorem inv_execNvmeDoorbell {bridge qp v : Nat} (h : s.Inv) : NextInv (execNvmeDoorbell bridge qp v s) := by
  unfold execNvmeDoorbell
  split
  · exact inv_homeWrite h
  · exact h

theorem inv_execNvmeCompletion {bridge qp : Nat} {data : List Byte} (h : s.Inv) : NextInv (execNvmeCompletion bridge qp data s) := by
  unfold execNvmeCompletion
  dsimp only
  split
  · exact h
  · split <;> exact inv_homeWrite h

theorem inv_source {c : Corrector} (h : s.Inv) : FstInv (c.source s) := by
  unfold Corrector.source
  split <;> exact h

theorem inv_correct {c : Corrector} (h : s.Inv) : (correct c s).Inv := by
  unfold correct
  dsimp only
  split
  · exact inv_source (inv_of_bytes rfl h)
  · refine inv_source ?_
    split
    · exact inv_of_bytes rfl h
    · exact h

theorem inv_execPatrolScrub {line errs : Nat} (h : s.Inv) : NextInv (execPatrolScrub line errs s) := by
  unfold execPatrolScrub
  split
  · exact h
  · split
    · exact h
    · split
      · exact inv_correct h
      · split
        · exact h
        · exact inv_of_bytes rfl h

end Sys2Proof.Machine
end

section
/-! PROOFS. The Wellhead keeps memory canonical (spec 19_wellhead R361 to R370). -/
open Sys2Proof Sys2Proof.Machine

namespace Sys2Proof.Machine

variable {s : State}

theorem inv_onWell {f : Wellhead → Wellhead} (h : s.Inv) : (s.onWell f).Inv := h

theorem inv_logOpen {code a b : Nat} (h : s.Inv) : (logOpen code a b s).Inv := h

theorem inv_measure {n : Nat} (h : s.Inv) : (measure n s).Inv := h

theorem inv_logChannels (h : s.Inv) : (logChannels s).Inv := inv_of_mem (logChannels_mem s) h

theorem Tab.rising_filter {α : Type} {t : Tab α} (p : Nat × α → Bool) (h : Tab.rising t = true) : Tab.rising (t.filter p) = true := by
  induction t with
  | nil => rfl
  | cons e t ih =>
    obtain ⟨above, rest⟩ := (Tab.rising_cons e t).mp h
    rw [List.filter_cons]
    split
    · exact (Tab.rising_cons _ _).mpr ⟨fun x hx => above x (List.mem_of_mem_filter hx), ih rest⟩
    · exact ih rest

theorem Tab.lean_filter {α : Type} [DecidableEq α] {t : Tab α} {d : α} (p : Nat × α → Bool) (h : Tab.lean t d = true) :
    Tab.lean (t.filter p) d = true := by
  rw [Tab.lean, List.all_eq_true] at h ⊢
  exact fun e he => h e (List.mem_of_mem_filter he)

/-- Dropping entries keeps the canonical form. -/
theorem wf_filter {m m' : Mem} {p : Nat × Byte → Bool} (e : m'.bytes = m.bytes.filter p) (h : m.wf = true) : m'.wf = true := by
  rw [wf_iff] at h ⊢
  rw [e]
  exact ⟨Tab.rising_filter p h.1, Tab.lean_filter p h.2⟩

theorem inv_resetDies (h : s.Inv) : (resetDies s).Inv := wf_filter (m := s.mem) rfl h

theorem inv_clearWellLines (h : s.Inv) : (clearWellLines s).Inv := inv_of_bytes rfl h

theorem inv_clearDies (h : s.Inv) : (clearDies s).Inv := wf_filter (m := s.mem) rfl h

theorem inv_reportGroups (h : s.Inv) : (reportGroups s).Inv := h

theorem inv_startDies (h : s.Inv) : (startDies s).Inv :=
  inv_measure (inv_measure (inv_reportGroups (inv_logChannels (inv_measure (inv_onWell (inv_clearDies h))))))

theorem inv_bootFrom (h : s.Inv) : (bootFrom s).Inv := by
  unfold bootFrom
  split
  · exact inv_onWell h
  · exact inv_startDies (inv_measure (inv_onWell (inv_logOpen (inv_onWell h))))

theorem inv_execPowerOnBoot (h : s.Inv) : NextInv (execPowerOnBoot s) := by
  unfold execPowerOnBoot
  split
  · split
    · exact h
    · exact inv_bootFrom h
  · exact inv_startDies h
  · exact h
  · exact h
  · exact h

theorem inv_execKernelImageLoad {image : List Byte} (h : s.Inv) : NextInv (execKernelImageLoad image s) := by
  unfold execKernelImageLoad
  split
  · exact h
  · split
    · exact h
    · dsimp only
      split
      · exact inv_logEvent (inv_onWell (inv_onWell (inv_measure h)))
      · exact inv_onWell (inv_measure h)

theorem inv_execPldmFirmwareUpdate {image : List Byte} (h : s.Inv) : NextInv (execPldmFirmwareUpdate image s) := by
  unfold execPldmFirmwareUpdate
  split
  · exact h
  · dsimp only
    split
    · exact inv_bootFrom (inv_onWell h)
    · exact inv_onWell h

theorem inv_execSensorSample {samples : List Nat} (h : s.Inv) : NextInv (execSensorSample samples s) := by
  unfold execSensorSample
  split
  · exact h
  · dsimp only
    split
    · exact inv_onWell (inv_logOpen (inv_resetDies h))
    · split
      · split
        · exact h
        · exact inv_logEvent (inv_onWell h)
      · split
        · exact h
        · exact inv_onWell h

theorem inv_execAttestationReport {nonce : List Byte} (h : s.Inv) : NextInv (execAttestationReport nonce s) := by
  unfold execAttestationReport
  split <;> exact h

theorem inv_execMeasurementExtend {reg : Nat} {digest : List Byte} (h : s.Inv) : NextInv (execMeasurementExtend reg digest s) := by
  unfold execMeasurementExtend
  split
  · exact inv_onWell h
  · exact h

theorem inv_execKeySlotWrite {slot owner : Nat} {key : List Byte} (h : s.Inv) : NextInv (execKeySlotWrite slot owner key s) := by
  unfold execKeySlotWrite
  split
  · exact inv_onWell h
  · exact h

theorem inv_execKeySlotRead {slot owner : Nat} (h : s.Inv) : NextInv (execKeySlotRead slot owner s) := by
  unfold execKeySlotRead
  split
  · split <;> exact h
  · exact h

theorem inv_execKeySlotClear {slot : Nat} (h : s.Inv) : NextInv (execKeySlotClear slot s) := by
  unfold execKeySlotClear
  split
  · exact inv_onWell h
  · exact h

theorem inv_execDebugNonceRequest {nonce : List Byte} (h : s.Inv) : NextInv (execDebugNonceRequest nonce s) := by
  unfold execDebugNonceRequest
  split <;> exact h

theorem inv_closeAll (h : s.Inv) : (closeAll s).Inv := inv_foldl (fun _ _ h1 => inv_closeHandle h1) h

theorem inv_execDebugUnlock {token : List Byte} (h : s.Inv) : NextInv (execDebugUnlock token s) := by
  unfold execDebugUnlock
  split
  · exact h
  · dsimp only
    split
    · exact h
    · exact inv_logOpen (inv_onWell (inv_closeAll (inv_onWell (inv_clearWellLines (inv_onWell h)))))

theorem inv_execDebugExpiry (h : s.Inv) : NextInv (execDebugExpiry s) := by
  unfold execDebugExpiry
  split
  · split
    · exact inv_onWell h
    · exact h
  · exact h

theorem inv_debugAct {r : DebugReq} (h : s.Inv) : SomeAll State.Inv (debugAct s r) := by
  unfold debugAct
  split
  · split
    · exact inv_onWell h
    · exact trivial
  · exact inv_onWell h
  · split
    · exact h
    · exact trivial
  · split
    · exact inv_onWell h
    · exact trivial
  · split
    · exact h
    · exact trivial
  · split
    · exact inv_homeWrite h
    · exact trivial
  · split
    · exact h
    · exact trivial
  · split
    · exact h
    · exact trivial
  · split
    · exact inv_onWell h
    · exact trivial
  · exact inv_onWell h
  · exact trivial

theorem inv_execDebugPortAccess {r : DebugReq} (h : s.Inv) : NextInv (execDebugPortAccess r s) := by
  unfold execDebugPortAccess
  split
  · exact h
  · split
    · exact h
    · rename_i e
      exact inv_of_some e (inv_debugAct h)
    · exact trivial
    · exact h

end Sys2Proof.Machine
end

section
/-! PROOFS. What comes from outside keeps memory canonical (spec 18_outside R345 to R359, 03_encoding R65 to R69). -/
open Sys2Proof Sys2Proof.Machine

namespace Sys2Proof.Machine

variable {s : State}

theorem inv_losePower (h : s.Inv) : (losePower s).Inv := inv_onWell (inv_resetDies h)

theorem inv_fuseLoss {image : List Byte} {count : Nat} (h : s.Inv) : (fuseLoss image count s).Inv := by
  unfold fuseLoss
  dsimp only
  split
  · exact inv_losePower (inv_onWell h)
  · exact h

theorem inv_updateLoss {image : List Byte} {written : Nat} {torn : Option (List Byte)} (h : s.Inv) :
    (updateLoss image written torn s).Inv := by
  unfold updateLoss
  split
  · exact h
  · exact inv_losePower (inv_onWell h)

theorem inv_streamToken {iid node : Nat} {tok : Tok} {owner : Nat} (h : s.Inv) : (streamToken iid node tok owner s).Inv := by
  unfold streamToken
  split
  · exact h
  · split
    · exact h
    · dsimp only
      split <;> exact h

theorem inv_memberStops {cmd status code : Nat} (h : s.Inv) : (memberStops cmd status code s).Inv := by
  unfold memberStops
  split <;> exact h

theorem inv_reserveCache {pa : Nat} (h : s.Inv) : (reserveCache pa s).Inv := by
  unfold reserveCache
  split
  · exact inv_foldl (fun _ _ h1 => inv_homeWrite h1) h
  · exact h

theorem inv_liveInput {e : Input} (h : s.Inv) : (liveInput e s).Inv := by
  unfold liveInput
  split
  · exact h
  · exact inv_barWrite h
  · split <;> exact h
  · exact inv_offerFlit h
  · exact inv_sendFlit h
  · exact inv_takeFlit h
  · exact inv_createQueue h
  · exact inv_memberStops h
  · exact inv_reserveCache h
  · exact inv_streamToken h
  · exact h

theorem inv_takeInput {e : Input} (h : s.Inv) : (takeInput e s).Inv := by
  unfold takeInput
  split
  · split
    · exact inv_of_bytes rfl h
    · exact h
  · exact inv_of_bytes rfl h
  · split <;> exact h
  · split
    · exact inv_of_bytes rfl h
    · exact h
  · exact inv_fuseLoss h
  · exact inv_updateLoss h
  · split
    · exact h
    · exact inv_liveInput h

theorem inv_placeSection {pw : Nat} {x : Section} (h : s.Inv) : (placeSection pw s x).Inv := by
  unfold placeSection
  split
  · exact h
  · split
    · exact h
    · split
      · rename_i e
        exact inv_of_somePair e (inv_planOf h)
      · exact h

theorem inv_putSection {who : Who} {va : W} {xs : List Section} (h : s.Inv) : SomeAll State.Inv (putSection s who va xs) := by
  unfold putSection
  split
  · exact h
  · split
    · rename_i e
      exact inv_of_ok e (inv_writeVa h)
    · exact trivial

theorem inv_loadModule {tid modul : Nat} {code data : W} {file : List Byte} (h : s.Inv) : (loadModule tid modul code data file s).Inv := by
  unfold loadModule
  split
  · exact h
  · dsimp only
    split
    · exact h
    · split
      · exact h
      · rename_i e
        have h1 := inv_of_some e (someAll_bind (inv_putSection h) (fun _ h1 => inv_putSection h1))
        split <;> exact inv_foldl (fun _ _ h2 => inv_placeSection h2) h1

end Sys2Proof.Machine
end

section
/-! PROOFS. Every step keeps memory canonical (spec 08_memories R103, R136). -/
open Sys2Proof Sys2Proof.Machine

namespace Sys2Proof.Machine

variable {s : State}

/-- The arm of each instruction, by the lemma about the function that gives it its meaning. -/
theorem inv_exec {i : Instr} (h : s.Inv) : NextInv (exec i s) := by
  cases i with
  | add x | sub x | mul x | mulh x | div x | rem x | min x | max x | abs x | neg x | and x | or x | xor x | andn x | shl x | shr x
  | sar x | rol x | popc x | clz x | ctz x | sel x | madd x | satn x | hash x | fadd x | fsub x | fmul x | fma x | fmin x | fmax x
  | frcp x | frsq x | fexp2 x | flog2 x | ftanh x | fsigm x | fclass x | fscale x | fcvt x | icvt x | scale x | unscale x
    => exact inv_computeT3 h
  | bfx x | addi x => exact inv_computeTI h
  | bfi x => exact inv_execBfi h
  | cmp x | fcmp x => exact inv_compareT3 h
  | mov x => exact inv_execMov h
  | movi x => exact inv_execMovi h
  | movhi x => exact inv_execMovhi h
  | lea x => exact inv_execLea h
  | leaIndexed x => exact inv_execLeaIndexed h
  | plog x => exact inv_execPlog h
  | csrr x => exact inv_execCsrr h
  | csrw x => exact inv_execCsrw h
  | tsc x => exact inv_execTsc h
  | qpeek x => exact inv_execQpeek h
  | qstat x => exact inv_execQstat h
  | bxpack x => exact inv_execBxpack h
  | bxunpk x => exact inv_execBxunpk h
  | mxpack x => exact inv_execMxpack h
  | mxunpk x => exact inv_execMxunpk h
  | br x => exact inv_execBr h
  | bri x => exact inv_execBri h
  | call x => exact inv_execCall h
  | ret x => exact inv_execRet h
  | halt x => exact inv_execHalt h
  | waita x => exact inv_execWaita h
  | yield x => exact inv_execYield h
  | spawn x => exact inv_execSpawn h
  | ld x => exact inv_execLd h
  | ldIndexed x => exact inv_execLdIndexed h
  | st x => exact inv_execSt h
  | stIndexed x => exact inv_execStIndexed h
  | atom x => exact inv_execAtom h
  | cas x => exact inv_execCas h
  | stb x => exact inv_execStb h
  | stm x => exact inv_execStm h
  | stred x => exact inv_execStred h
  | pref x => exact inv_execPref h
  | fence x => exact inv_execFence h
  | tspawn x => exact inv_execTspawn h
  | tend x => exact inv_execTend h
  | tabort x => exact inv_execTabort h
  | tstamp x => exact inv_execTstamp h
  | tbarrier x => exact inv_execTbarrier h
  | tdirect x => exact inv_execTdirect h
  | gvt x => exact inv_execGvt h
  | wait x => exact inv_execWait h
  | waitm x => exact inv_execWaitm h
  | waitt x => exact inv_execWaitt h
  | binit x => exact inv_execBinit h
  | barr x => exact inv_execBarr h
  | bwait x => exact inv_execBwait h
  | cntrd x => exact inv_execCntrd h
  | xcopy x => exact inv_execXcopy h
  | xgath x => exact inv_execXgath h
  | xscat x => exact inv_execXscat h
  | xcoll x => exact inv_execXcoll h
  | xtask x => exact inv_execXtask h
  | xsend x => exact inv_execXsend h
  | xckpt x => exact inv_execXckpt h
  | xcancel x => exact inv_execXcancel h
  | wmassert x => exact inv_execWmassert h
  | wmretract x => exact inv_execWmretract h
  | wmmodify x => exact inv_execWmmodify h
  | cssel x => exact inv_execCssel h
  | csinfoSummary x => exact inv_execCsinfoSummary h
  | csinfoEntry x => exact inv_execCsinfoEntry h
  | csclrAll x => exact inv_execCsclrAll h
  | csclrRule x => exact inv_execCsclrRule h
  | rload x => exact inv_execRload h
  | dopen x => exact inv_execDopen h
  | dopenWait x => exact inv_execDopenWait h
  | dclose x => exact inv_execDclose h
  | dbind x => exact inv_execDbind h
  | dbindSet x => exact inv_execDbindSet h
  | dunbind x => exact inv_execDunbind h
  | dstat x => exact inv_execDstat h
  | ddesc x => exact inv_execDdesc h
  | glaunch x => exact inv_execGlaunch h
  | glaunchDelta x => exact inv_execGlaunchDelta h
  | gstop x => exact inv_execGstop h
  | gsnap x => exact inv_execGsnap h
  | grest x => exact inv_execGrest h
  | gbank x => exact inv_execGbank h
  | gpart x => exact inv_execGpart h
  | gqueryStatus x => exact inv_execGqueryStatus h
  | gquerySize x => exact inv_execGquerySize h
  | gquerySpoil x => exact inv_execGquerySpoil h
  | gqueryDump x => exact inv_execGqueryDump h
  | freshet x => exact inv_execFreshet h
  | trap x => exact inv_execTrap h
  | eret x => exact inv_execEret h
  | brk x => exact inv_execBrk h
  | msgi x => exact inv_execMsgi h
  | ctxsave x => exact inv_execCtxsave h
  | ctxrest x => exact inv_execCtxrest h
  | tlbinv x => exact inv_execTlbinv h
  | idle x => exact inv_execIdle h
  | signal x => exact inv_execSignal h
  | ptsync x => exact inv_execPtsync h
  | nodeArithFire op w => exact inv_fire h fun _ h1 => inv_arithF h1
  | steer x => exact inv_execSteer (w := x) h
  | merge x => exact inv_execMerge (w := x) h
  | gate x => exact inv_execGate (w := x) h
  | fcomp x => exact inv_execFcomp (w := x) h
  | delay x => exact inv_execDelay h
  | accum x => exact inv_execAccum h
  | gen x => exact inv_execGen (w := x) h
  | genTrig x => exact inv_execGenTrig h
  | sink x => exact inv_execSink (w := x) h
  | src x => exact inv_execSrc h
  | tagset x => exact inv_execTagset (w := x) h
  | tagget x => exact inv_execTagget (w := x) h
  | route x => exact inv_execRoute h
  | bound x => exact inv_execBound (w := x) h
  | agen x => exact inv_execAgen (w := x) h
  | mload x => exact inv_execMload h
  | mstore x => exact inv_execMstore h
  | rmw x => exact inv_execRmw h
  | merge2 x => exact inv_execMerge2 h
  | lut6 x => exact inv_execLut6 (w := x) h
  | fsm x => exact inv_execFsm h
  | falloc x => exact inv_execFalloc (w := x) h
  | ffree x => exact inv_execFfree (w := x) h
  | chan x => exact inv_execChan (w := x) h
  | weir x => exact inv_execWeir (w := x) h
  | expert x => exact inv_execExpert (w := x) h
  | topk x => exact inv_execTopk h
  | spill x => exact inv_execSpill (w := x) h
  | alpha x => exact inv_execAlpha h
  | joinb x => exact inv_execJoinb (w := x) h
  | negj x => exact inv_execNegj (w := x) h
  | memb x => exact inv_execMemb h
  | term x => exact inv_execTerm h
  | score x => exact inv_execScore (w := x) h
  | tileNodeFire op w => exact inv_execTileNodeFire (w := w) h
  | illegalInstructionWord w | eventLogRead fromKernel | hostAtomicop fnc off => exact h
  | expertDrain iid node => exact inv_execExpertDrain h
  | scoreReply iid node tag => exact inv_execScoreReply h
  | tmma eng => exact inv_execTmma h
  | tmms eng => exact inv_execTmms h
  | tdecompDense eng => exact inv_execTdecompDense h
  | tdecompPacked eng => exact inv_execTdecompPacked h
  | tresid eng => exact inv_execTresid h
  | tzero eng => exact inv_execTzero h
  | tcvt eng => exact inv_execTcvt h
  | tscale eng => exact inv_execTscale h
  | tred eng => exact inv_execTred h
  | ttrans eng => exact inv_execTtrans h
  | ttopk eng => exact inv_execTtopk h
  | ringdefTiles shard => exact inv_ringdefBy h fun _ _ e => inv_defTiles h e
  | ringdefRing shard => exact inv_ringdefBy h fun _ _ e => inv_defRing h e
  | ringdefTasks shard => exact inv_execRingdefTasks h
  | tact eng => exact inv_execTact h
  | tokenArrival iid idx => exact inv_execTokenArrival h
  | tokenAccept iid idx second => exact inv_execTokenAccept h
  | creditReturn iid idx => exact inv_execCreditReturn h
  | loadComplete tid idx => exact inv_execLoadComplete h
  | storeRetire tid idx => exact inv_execStoreRetire h
  | pageWalk slice => exact inv_execPageWalk h
  | requesterResume iid node => exact inv_execRequesterResume h
  | activeMessage src => exact inv_execActiveMessage h
  | chunkWritten cmd chunk => exact inv_execChunkWritten h
  | engineReply cmd => exact inv_execEngineReply h
  | tileTaskCheck shard => exact inv_execTileTaskCheck h
  | tileTaskIssue shard eng => exact inv_execTileTaskIssue h
  | tileTaskRetire eng => exact inv_execTileTaskRetire h
  | dotEngineFaultStop eng => exact inv_execDotEngineFaultStop h
  | taskCommit => exact inv_execTaskCommit h
  | taskIrrevocable => exact inv_execTaskIrrevocable h
  | firingStart die => exact inv_execFiringStart h
  | deltaApply net => exact inv_execDeltaApply h
  | deltaInject net => exact inv_execDeltaInject h
  | bankPass bank => exact inv_execBankPass h
  | bankTokenArrival bank => exact inv_execBankTokenArrival h
  | deltaDrainComplete iid => exact inv_execDeltaDrainComplete h
  | freshetNodeReconfig iid node => exact inv_execFreshetNodeReconfig h
  | snapNodeSave iid node => exact inv_execSnapNodeSave h
  | linkTokenRecord iid idx => exact inv_execLinkTokenRecord h
  | snapForcedSave iid => exact inv_execSnapForcedSave h
  | drainComplete iid => exact inv_execDrainComplete h
  | stallNoeos iid => exact inv_execStallNoeos h
  | quantumExpiry iid => exact inv_execQuantumExpiry h
  | requestAging die idx => exact inv_execRequestAging h
  | regionGrant die => exact inv_execRegionGrant h
  | preempt die => exact inv_execPreempt h
  | schedulerRestore iid => exact inv_execSchedulerRestore h
  | trapResume tid => exact inv_execTrapResume h
  | trapSkip tid => exact inv_execTrapSkip h
  | trapHandler tid => exact inv_execTrapHandler h
  | trapEnd tid => exact inv_execTrapEnd h
  | threadWake tid => exact inv_execThreadWake h
  | parkTimeout tid => exact inv_execParkTimeout h
  | dopenTimeout tid => exact inv_execDopenTimeout h
  | stallResume tid => exact inv_execStallResume h
  | barrierArrival idx => exact inv_execBarrierArrival h
  | doorbell q wr => exact inv_putDoorbell h
  | queueConfigWrite q reg v => exact inv_putConfig h
  | queueStatusClear q => exact inv_execQueueStatusClear h
  | errcntClear fnc v => exact inv_putErrcnt h
  | registerWrite kernel fnc off v => exact inv_execRegisterWrite h
  | nop q => exact inv_takeEntry h (fun _ _ h1 => inv_dispatchCmd h1)
  | thread q => exact inv_execThread h
  | delta q => exact inv_execDelta h
  | indirect q => exact inv_execIndirect h
  | waitsig q => exact inv_execWaitsig h
  | write q => exact inv_execWrite h
  | commandComplete id => exact inv_execCommandComplete h
  | hostApertureRead fnc off len => exact inv_execHostApertureRead h
  | hostApertureWrite fnc off data => exact inv_execHostApertureWrite h
  | hostReadTimeout tid idx => exact inv_execHostReadTimeout h
  | peerRequest r => exact inv_execPeerRequest h
  | flitReceive port flit => exact inv_execFlitReceive h
  | portDown port => exact inv_execPortDown h
  | reduceContribution cmd ranks data => exact inv_execReduceContribution h
  | nvmeDoorbell bridge qp v => exact inv_execNvmeDoorbell h
  | nvmeCompletion bridge qp data => exact inv_execNvmeCompletion h
  | patrolScrub line errs => exact inv_execPatrolScrub h
  | reset => exact inv_onWell (inv_resetDies h)
  | powerOnBoot => exact inv_execPowerOnBoot h
  | kernelImageLoad image => exact inv_execKernelImageLoad h
  | pldmFirmwareUpdate image => exact inv_execPldmFirmwareUpdate h
  | sensorSample samples => exact inv_execSensorSample h
  | vcoreRemoved => exact inv_onWell (inv_clearDies h)
  | vauxRemoved => exact inv_onWell (inv_clearWellLines h)
  | attestationReport nonce => exact inv_execAttestationReport h
  | measurementExtend reg digest => exact inv_execMeasurementExtend h
  | keySlotWrite slot owner key => exact inv_execKeySlotWrite h
  | keySlotRead slot owner => exact inv_execKeySlotRead h
  | keySlotClear slot => exact inv_execKeySlotClear h
  | debugNonceRequest nonce => exact inv_execDebugNonceRequest h
  | debugUnlock token => exact inv_execDebugUnlock h
  | debugExpiry => exact inv_execDebugExpiry h
  | illegalCommandEntry q => exact inv_execIllegalCommandEntry h
  | flitReplay port => exact inv_execFlitReplay h
  | debugPortAccess r => exact inv_execDebugPortAccess h
  -- REPEAT alone is left: its constructor bears the name of a tactic.
  | _ => exact inv_execRepeat h

theorem inv_takeShot {iid n : Nat} (h : s.Inv) : (takeShot s iid n).Inv := by
  unfold takeShot
  split <;> exact h

theorem inv_fireTurn {iid n tag : Nat} (h : s.Inv) : FstInv (fireTurn iid n tag s) := by
  unfold fireTurn
  split
  · rename_i e
    have h1 := inv_of_pair e (inv_fetchNode h)
    split
    · exact h1
    · split
      · exact inv_takeShot h1
      · exact h
  · exact inv_fetchNode h

theorem inv_eventTurn {e : Instr} (h : s.Inv) : SomeAll State.Inv (eventTurn e s) := by
  unfold eventTurn
  split
  · exact h
  · split
    · exact h
    · split
      · exact inv_takeShot h
      · exact trivial

theorem inv_heldBack {o : Out} (h : s.Inv) (k : NextInv o) : NextInv (heldBack s o) := by
  cases o with
  | next t =>
    unfold heldBack
    dsimp only
    split
    · exact h
    · exact k
  | fault f => trivial
  | refused r => trivial

theorem inv_endCycle {cycles : Nat} (h : s.Inv) : (endCycle cycles s).Inv := by
  unfold endCycle
  split
  · exact h
  · exact inv_refresh h

theorem inv_nextTurn (h : s.Inv) : (nextTurn s).2.Inv := by
  unfold nextTurn
  split
  · exact h
  · split <;> exact h

/-- Each turn (word, firing, event, load, input, teardown, time) by the lemma about what runs in it. -/
theorem inv_step (h : s.Inv) : NextInv (step s) := by
  have h1 := inv_nextTurn h
  unfold step
  split <;> rename_i e <;> rw [e] at h1
  · split
    · rename_i e
      exact inv_afterWord (inv_exec (inv_of_pair e (inv_fetchThread h1)))
    · rename_i e
      exact inv_of_pair e (inv_fetchThread h1)
  · split
    · rename_i e
      exact inv_heldBack h1 (inv_exec (inv_of_pair e (inv_fireTurn h1)))
    · rename_i e
      exact inv_of_pair e (inv_fireTurn h1)
  · split
    · exact h1
    · split
      · rename_i e
        exact inv_heldBack h1 (inv_exec (inv_of_some e (inv_eventTurn h1)))
      · exact h1
  · split
    · exact inv_loadModule h1
    · exact h1
  · exact inv_takeInput h1
  · split
    · exact inv_closeCtx h1
    · exact h1
  · exact inv_passTime (inv_endCycle h1)

/-- Settles O52: every turn ends in operations that keep the canonical form, so a step that answers a state keeps it. -/
theorem stepKeepsMemoryCanonical : Obligations.StepKeepsMemoryCanonical := by
  unfold Obligations.StepKeepsMemoryCanonical
  intro s t h e
  exact (inv_step h).next e

end Sys2Proof.Machine
end
